-- ==== Sys2Proof/Word.lean ====
section
/-! DEFINITION. The words of the QX4: a byte, a 32-bit syllable, a 64-bit doubleword, a 512-bit row, a
1 KiB register (R10, R155, R199). -/

namespace Sys2Proof

/-- One byte of memory (R10). -/
abbrev Byte := BitVec 8
/-- One 32-bit syllable of a bundle (R45). -/
abbrev Syl := BitVec 32
/-- A scalar register's content (R88). -/
abbrev DWord := BitVec 64
/-- One 64-byte row of a vector register, a FIFO row, a quire image (R155, R199). -/
abbrev Row := BitVec 512
/-- A 1 KiB register: row j in bits 512 j + 511 to 512 j (R155). -/
abbrev VReg := BitVec 8192
/-- A mask of 1,024 bits (R161). -/
abbrev Mask := BitVec 1024

end Sys2Proof
end

