-- ==== Sys2Proof/Config.lean ====
section
/-! DEFINITION. What one part fixes and the spec leaves open: the free values (log 3), which have no body,
so that no proof can lean on a number, and the fused or named constants. -/

namespace Sys2Proof.Config

/-- Unspecified bits (R7): the n-th free value of width w (log 3). -/
opaque freeBits (w : Nat) (n : Nat) : BitVec w

/-- A choice the spec leaves to the part, n-th of its kind (log 3, log 4): always reduced modulo the number
of permitted choices. -/
opaque freeNat (kind n : Nat) : Nat

/-- The cycle, 1 to bound, on which a result lands (R52); kind 0 of the free choices (log 4). -/
def landing (n bound : Nat) : Nat := 1 + freeNat 0 n % (max bound 1)

/-- A correctly rounded special function beyond the model's working precision: the fraction bits of an
exact result that the ladder of Special.lean does not separate from a tie (log 14). -/
opaque specialTie (fn : Nat) (num den : Int) : Bool

/-- Bytes that the part holds and the spec gives no value: 0 version and part number code, 1 serial number (R410,
log 17). -/
opaque fusedByte (field n : Nat) : BitVec 8

/-- Byte n of the SHA-384 digest of a firmware image (R409, R410, log 17). -/
opaque digestByte (img : List (BitVec 8)) (n : Nat) : BitVec 8

/-- Byte n of a signature of the part over a message: 0 RSA-3072, 1 SLH-DSA (R410, log 17). -/
opaque signByte (kind : Nat) (msg : List (BitVec 8)) (n : Nat) : BitVec 8

/-- A signature of a firmware image verifies against the fused key: 0 RSA-3072, 1 SLH-DSA (R409, log 17). -/
opaque imageVerifies (kind : Nat) (img : List (BitVec 8)) : Bool

/-- Physical position of the harvested die (R407 HARV): fused; DESIGN CHOICE 4 (log 15). -/
def harvested : Nat := 4

/-- VERS (R407): journal 2, save area 2, waybill 2, UALink 1, Kendom 2, UCIe 1. -/
def vers : BitVec 64 := 0x222121

/-- Largest incarnation value that the board's controller hands over, 8 bits (R411). -/
def incMod : Nat := 256

/-- The watchdog limit, 2^20 cycles (R298). -/
def watchdog : Nat := 1048576

end Sys2Proof.Config
end

