-- ==== Sys2Proof/Machine/Flags.lean ====
section
/-! DEFINITION. The flags of FSR (R90, R151), and the flags that integer clamps and comparisons set. -/

namespace Sys2Proof.Machine

/-- FSR bits: NR 0, ST 1, CL 2, NX 3, UF 4, OF 5, DZ 6, NV 7. -/
abbrev Flags := BitVec 8
/-- NaR from non-NaR operands. -/
def fNR : Flags := 0x01
/-- Integer saturation. -/
def fST : Flags := 0x02
/-- Tapered clamp. -/
def fCL : Flags := 0x04
/-- Inexact. -/
def fNX : Flags := 0x08
/-- Underflow. -/
def fUF : Flags := 0x10
/-- Overflow. -/
def fOF : Flags := 0x20
/-- Divide by zero. -/
def fDZ : Flags := 0x40
/-- Invalid. -/
def fNV : Flags := 0x80

/-- A flag that a condition sets. -/
def flagIf (b : Bool) (f : Flags) : Flags := if b then f else 0
/-- The OR of a list of flags (R152). -/
def orFlags (l : List Flags) : Flags := l.foldl (· ||| ·) 0

/-- Clamp an exact integer to a range; ST where the clamp changes it (R139). -/
def clampI (lo hi x : Int) : Int × Flags :=
  if x < lo then (lo, fST) else if hi < x then (hi, fST) else (x, 0)

/-- Least value of an integer type of w bits. -/
def intMin (w : Nat) (signed : Bool) : Int := if signed then -(2 ^ (w - 1)) else 0
/-- Greatest value of an integer type of w bits. -/
def intMax (w : Nat) (signed : Bool) : Int := if signed then 2 ^ (w - 1) - 1 else 2 ^ w - 1

/-- Wrap an exact integer to w bits, or clamp it to the type's range (R139). -/
def fitI (w : Nat) (signed sat : Bool) (x : Int) : Nat × Flags :=
  if sat then
    let (v, f) := clampI (intMin w signed) (intMax w signed) x
    ((v % 2 ^ w).toNat, f)
  else ((x % 2 ^ w).toNat, 0)

end Sys2Proof.Machine
end

