-- ==== Sys2Proof/Machine/Num.lean ====
section
/-! DEFINITION. Number formats and rounding (R122 to R146): every operand is read as an exact value, every
result is an exact value rounded once. -/

namespace Sys2Proof.Machine

/-! ## Exact values -/

/-- The number of binary digits of a number. -/
def bitLen (m : Nat) : Nat := if m = 0 then 0 else Nat.log2 m + 1

/-- What a code stands for: a NaN or NaR, an infinity, or (−1)^neg × m × 2^e. -/
inductive Val where
  | nan (sig : Bool)
  | inf (neg : Bool)
  | fin (neg : Bool) (m : Nat) (e : Int)
  deriving DecidableEq, Repr, Inhabited

/-- An exact magnitude in [m, m + 1) × 2^e, equal to m × 2^e iff `st` is false. -/
structure Ex where
  neg : Bool
  m : Nat
  e : Int
  st : Bool
  deriving DecidableEq, Repr, Inhabited

/-- An exact result: a NaN operand's NaN, an undefined result of numbers, an infinity (with DZ), a number. -/
inductive Res where
  | nan (sig : Bool)
  | bad
  | inf (neg dz : Bool)
  | ex (x : Ex)
  deriving DecidableEq, Repr, Inhabited

/-- An exact number as a result. -/
def Val.res : Val → Res
  | .nan s => .nan s
  | .inf n => .inf n false
  | .fin n m e => .ex ⟨n, m, e, false⟩

/-- A number is zero. -/
def Val.isZero : Val → Bool
  | .fin _ m _ => m == 0
  | _ => false
/-- A NaN or NaR. -/
def Val.isNan : Val → Bool
  | .nan _ => true
  | _ => false
/-- A signalling NaN. -/
def Val.isSig : Val → Bool
  | .nan s => s
  | _ => false
/-- An infinity. -/
def Val.isInf : Val → Bool
  | .inf _ => true
  | _ => false
/-- The sign. -/
def Val.sign : Val → Bool
  | .nan _ => false
  | .inf n => n
  | .fin n _ _ => n
/-- The value with the other sign. -/
def Val.negate : Val → Val
  | .nan s => .nan s
  | .inf n => .inf (!n)
  | .fin n m e => .fin (!n) m e

/-- An integer with a sign. -/
def sgnI (neg : Bool) (m : Nat) : Int := if neg then -(m : Int) else m
/-- m × 2^k for k of either sign, cut to an integer. -/
def shiftZ (m : Nat) (k : Int) : Nat := if 0 ≤ k then m * 2 ^ k.toNat else m / 2 ^ (-k).toNat
/-- An integer as a value times 2^e. -/
def Val.ofInt (x : Int) (e : Int := 0) : Val := .fin (x < 0) x.natAbs e

/-! ## Rounding to an integer multiple (R72, R134) -/

/-- What lies below the kept digits: nothing, less than half, a half, more than half. -/
inductive Rest where
  | none | below | half | above
  deriving DecidableEq, Repr

/-- Cut a magnitude to a multiple of 2^sh: the quotient and what is left. -/
def cutAt (m : Nat) (sh : Int) (st : Bool) : Nat × Rest :=
  if sh ≤ 0 then (m * 2 ^ (-sh).toNat, if st then .below else .none)
  else
    let d := 2 ^ sh.toNat
    let r := m % d
    (m / d,
      if r = 0 then (if st then .below else .none)
      else if 2 * r < d then .below
      else if 2 * r = d then (if st then .above else .half)
      else .above)

/-- The rounding decision: RM 0 to nearest even, 1 toward zero, 2 up, 3 down (R72). -/
def roundsUp (rm : Nat) (neg : Bool) (q : Nat) (r : Rest) : Bool :=
  match rm, r with
  | _, .none => false
  | 0, .above => true
  | 0, .half => q % 2 == 1
  | 0, .below => false
  | 1, _ => false
  | 2, _ => !neg
  | _, _ => neg

/-- Round a magnitude to a multiple of 2^sh; true where it is inexact. -/
def roundAt (rm : Nat) (neg : Bool) (m : Nat) (sh : Int) (st : Bool) : Nat × Bool :=
  let (q, r) := cutAt m sh st
  (if roundsUp rm neg q r then q + 1 else q, r != .none)

/-! ## Binary formats with an exponent field (R133, R135) -/

/-- A format of 1 sign, `eb` exponent and `fb` fraction bits, bias 2^(eb − 1) − 1. `kind` 0: infinities and
NaN as IEEE; 1: NaN only (E4M3); 2: neither. -/
structure FF where
  eb : Nat
  fb : Nat
  kind : Nat
  deriving DecidableEq, Repr

/-- Binary64. -/
def ff64 : FF := ⟨11, 52, 0⟩
/-- Binary32. -/
def ff32 : FF := ⟨8, 23, 0⟩
/-- Binary16. -/
def ff16 : FF := ⟨5, 10, 0⟩
/-- bfloat16. -/
def ffB16 : FF := ⟨8, 7, 0⟩
/-- E5M2. -/
def ffE5M2 : FF := ⟨5, 2, 0⟩
/-- E4M3. -/
def ffE4M3 : FF := ⟨4, 3, 1⟩
/-- E3M2. -/
def ffE3M2 : FF := ⟨3, 2, 2⟩
/-- E2M3. -/
def ffE2M3 : FF := ⟨2, 3, 2⟩
/-- E2M1. -/
def ffE2M1 : FF := ⟨2, 1, 2⟩

/-- Width in bits. -/
def FF.bits (f : FF) : Nat := 1 + f.eb + f.fb
/-- Exponent bias. -/
def FF.bias (f : FF) : Int := 2 ^ (f.eb - 1) - 1
/-- Exponent of the least normal number. -/
def FF.emin (f : FF) : Int := 1 - f.bias
/-- Exponent of the greatest finite number. -/
def FF.emax (f : FF) : Int := if f.kind = 0 then f.bias else f.bias + 1
/-- Code of +∞ (kind 0). -/
def FF.infCode (f : FF) : Nat := (2 ^ f.eb - 1) * 2 ^ f.fb
/-- The canonical NaN (R133, R135). -/
def FF.nanCode (f : FF) : Nat :=
  if f.kind = 0 then f.infCode + 2 ^ (f.fb - 1) else 2 ^ (f.eb + f.fb) - 1
/-- Code of the greatest finite magnitude. -/
def FF.maxCode (f : FF) : Nat :=
  if f.kind = 0 then f.infCode - 1 else if f.kind = 1 then 2 ^ (f.eb + f.fb) - 2 else 2 ^ (f.eb + f.fb) - 1
/-- The sign bit in its place. -/
def FF.signBit (f : FF) (neg : Bool) : Nat := if neg then 2 ^ (f.eb + f.fb) else 0

/-- The value of a code (R133, R135). -/
def FF.dec (f : FF) (w : Nat) : Val :=
  let neg := w.testBit (f.eb + f.fb)
  let ex := w / 2 ^ f.fb % 2 ^ f.eb
  let fr := w % 2 ^ f.fb
  if f.kind = 0 && ex == 2 ^ f.eb - 1 then
    (if fr = 0 then .inf neg else .nan (!fr.testBit (f.fb - 1)))
  else if f.kind = 1 && ex == 2 ^ f.eb - 1 && fr == 2 ^ f.fb - 1 then .nan false
  else if ex = 0 then .fin neg fr (f.emin - f.fb)
  else .fin neg (2 ^ f.fb + fr) ((ex : Int) - f.bias - f.fb)

/-- The code that an overflow delivers: as IEEE, or the greatest magnitude (R141). -/
def FF.overflow (f : FF) (rm : Nat) (neg : Bool) : Nat :=
  f.signBit neg +
    (if f.kind = 0 && (rm == 0 || (rm == 2 && !neg) || (rm == 3 && neg)) then f.infCode else f.maxCode)

/-- Round an exact number (R134, R141); tininess is detected after rounding. UF is set for every format, those below F16 of
R198 among them: DESIGN CHOICE (log 21). -/
def FF.round (f : FF) (rm : Nat) (x : Ex) : Nat × Flags :=
  if x.m = 0 && !x.st then (f.signBit x.neg, 0)
  else
    let top : Int := x.e + bitLen x.m - 1
    let q0 : Int := max top f.emin - f.fb
    let (n0, inex) := roundAt rm x.neg x.m (q0 - x.e) x.st
    let carry := n0 == 2 ^ (f.fb + 1)
    let n := if carry then 2 ^ f.fb else n0
    let q := if carry then q0 + 1 else q0
    let code : Int := if n < 2 ^ f.fb then n else (q + f.fb + f.bias) * 2 ^ f.fb + ((n : Int) - 2 ^ f.fb)
    if (f.maxCode : Int) < code then (f.overflow rm x.neg, fOF ||| fNX)
    else
      let (u, _) := roundAt rm x.neg x.m (top - f.fb - x.e) x.st
      let tiny := top < f.emin && !(u == 2 ^ (f.fb + 1) && top + 1 == f.emin)
      (f.signBit x.neg + code.toNat, flagIf inex fNX ||| flagIf (inex && tiny) fUF)

/-! ## Tapered formats (R124 to R129) -/

/-- DecodeTapered (R124). -/
def decT (n es w : Nat) : Val :=
  if w = 0 then .fin false 0 0
  else if w = 2 ^ (n - 1) then .nan false
  else
    let s := w.testBit (n - 1)
    let b := (if s then 2 ^ n - w else w) % 2 ^ (n - 1)
    let one := b.testBit (n - 2)
    let m := (n - 1) - bitLen (if one then 2 ^ (n - 1) - 1 - b else b)
    let k : Int := if one then (m : Int) - 1 else -(m : Int)
    let r := n - 1 - m - 1
    let rest := b % 2 ^ r
    let e := if es ≤ r then rest / 2 ^ (r - es) else rest * 2 ^ (es - r)
    let fb := r - es
    let f := if es ≤ r then rest % 2 ^ fb else 0
    .fin s (2 ^ fb + f) (k * 2 ^ es + e - fb)

/-- RoundTapered of an exact number (R127). -/
def roundT (n es : Nat) (x : Ex) : Nat × Flags :=
  if x.m = 0 && !x.st then (0, 0)
  else
    let top : Int := x.e + bitLen x.m - 1
    let lim : Int := (n - 2 : Nat) * 2 ^ es
    let pow2 := !x.st && x.m == 2 ^ (bitLen x.m - 1)
    let (y, fl) : Nat × Flags :=
      if lim < top || (top == lim && !pow2) then (2 ^ (n - 1) - 1, fCL ||| fNX)
      else if top < -lim then (1, fCL ||| fNX)
      else
        let k := top.fdiv (2 ^ es)
        let e := (top - k * 2 ^ es).toNat
        let rl := if 0 ≤ k then k.toNat + 2 else (-k).toNat + 1
        let regime := if 0 ≤ k then 2 ^ (k.toNat + 2) - 2 else 1
        let fl := bitLen x.m - 1
        let str := (regime * 2 ^ es + e) * 2 ^ fl + (x.m - 2 ^ fl)
        let (t, inex) := roundAt 0 false str ((rl + es + fl : Nat) - ((n - 1 : Nat) : Int)) x.st
        (min t (2 ^ (n - 1) - 1), flagIf inex fNX)
    (if x.neg then (2 ^ n - y) % 2 ^ n else y, fl)

/-! ## One type of formats (R122) -/

/-- A number format. -/
inductive Fmt where
  | t (n es : Nat)
  | f (ff : FF)
  | i (w : Nat) (signed : Bool)
  | e8
  deriving DecidableEq, Repr

/-- Width of an element in bits. -/
def Fmt.bits : Fmt → Nat
  | .t n _ => n
  | .f ff => ff.bits
  | .i w _ => w
  | .e8 => 8

/-- An integer code read by signedness. -/
def readI (w : Nat) (signed : Bool) (x : Nat) : Int :=
  if signed && x.testBit (w - 1) then (x : Int) - 2 ^ w else x

/-- The value of a code in a format; an E8M0 code 0xFF is NaN (R137). -/
def Fmt.dec : Fmt → Nat → Val
  | .t n es, w => decT n es w
  | .f ff, w => ff.dec w
  | .i w s, x => Val.ofInt (readI w s x)
  | .e8, w => if w = 255 then .nan false else .fin false 1 ((w : Int) - 127)

/-- A tapered format. -/
def Fmt.isT : Fmt → Bool
  | .t .. => true
  | _ => false
/-- An integer format. -/
def Fmt.isI : Fmt → Bool
  | .i .. => true
  | _ => false
/-- A format with an exponent field. -/
def Fmt.isF : Fmt → Bool
  | .f .. => true
  | _ => false

/-- An element type of R81 as a format. -/
def tyFmt (ty es : Nat) : Fmt :=
  match ty with
  | 0 => .i 8 true | 1 => .i 8 false | 2 => .i 16 true | 3 => .i 16 false | 4 => .i 32 true
  | 5 => .i 32 false | 6 => .t 8 es | 7 => .t 16 es | 8 => .t 32 es | 9 => .f ff16 | 10 => .f ffB16
  | _ => .f ff32
/-- An X code of R196 as a format. -/
def xFmt (x : Nat) : Fmt :=
  match x with
  | 0 => .f ffE5M2 | 1 => .f ffE4M3 | 2 => .f ffE3M2 | 3 => .f ffE2M3 | 4 => .f ffE2M1 | _ => .e8

/-- Width in bytes of a type code (R155). -/
def tyW (ty : Nat) : Nat := (tyFmt ty 0).bits / 8

/-- Round an exact number to an integer by RM (R140): out of range gives the nearer limit with NV. -/
def roundI (w : Nat) (signed : Bool) (rm : Nat) (x : Ex) : Nat × Flags :=
  let (n, inex) := roundAt rm x.neg x.m (-x.e) x.st
  let v := sgnI x.neg n
  if v < intMin w signed then ((intMin w signed % 2 ^ w).toNat, fNV)
  else if intMax w signed < v then ((intMax w signed % 2 ^ w).toNat, fNV)
  else ((v % 2 ^ w).toNat, flagIf inex fNX)

/-- Conversion of a number to E8M0 (R143). -/
def roundE8 (x : Ex) : Nat × Flags :=
  let top : Int := x.e + bitLen x.m - 1
  if x.m = 0 || top < -127 then (0, fUF ||| fNX)
  else if 128 ≤ top then (0xFE, fOF ||| fNX)
  else ((top + 127).toNat, flagIf (x.st || x.m != 2 ^ (bitLen x.m - 1)) fNX)

/-- Round an exact number to a format (R127, R134, R140, R143). -/
def Fmt.round (f : Fmt) (rm : Nat) (x : Ex) : Nat × Flags :=
  match f with
  | .t n es => roundT n es x
  | .f ff => ff.round rm x
  | .i w s => roundI w s rm x
  | .e8 => roundE8 x

/-- Deliver the result of an arithmetic instruction (R129, R134, R194, R195). -/
def Fmt.deliver (f : Fmt) (rm : Nat) (r : Res) : Nat × Flags :=
  match f, r with
  | .t n _, .nan _ => (2 ^ (n - 1), 0)
  | .t n _, .bad => (2 ^ (n - 1), fNR)
  | .t n _, .inf _ _ => (2 ^ (n - 1), fNR)
  | .f ff, .nan s => (ff.nanCode, flagIf s fNV)
  | .f ff, .bad => (ff.nanCode, fNV)
  | .f ff, .inf n dz => (ff.signBit n + ff.infCode, flagIf dz fDZ)
  | f, .ex x => f.round rm x
  | _, _ => (0, fNV)

/-! ## Conversions (R140 to R143, R198) -/

/-- One of the formats of R133, not an interchange format. -/
def FF.ieee (ff : FF) : Bool := ff == ff16 || ff == ffB16 || ff == ff32 || ff == ff64
/-- Convert a value; `srcT` says that the source is tapered, so that its NaN is NaR: leaving to an IEEE format it sets NV
(R140, R151), to E5M2 or E4M3 it does not (R142). -/
def convVal (srcT : Bool) (d : Fmt) (rm : Nat) (v : Val) : Nat × Flags :=
  match d, v with
  | .t n _, .nan _ => (2 ^ (n - 1), flagIf (!srcT) fNV)
  | .t n _, .inf _ => (2 ^ (n - 1), fNV)
  | .f ff, .nan s => if ff.kind = 2 then (0, fNV) else (ff.nanCode, flagIf ((srcT && ff.ieee) || s) fNV)
  | .f ff, .inf s =>
    if ff.kind = 0 then (ff.signBit s + ff.infCode, 0) else (ff.signBit s + ff.maxCode, fNV)
  | .i _ _, .nan _ => (0, fNV)
  | .i w s, .inf n => (((if n then intMin w s else intMax w s) % 2 ^ w).toNat, fNV)
  | .e8, .nan _ => (0xFF, fNV)
  | .e8, .inf _ => (0xFF, fNV)
  | d, .fin n m e => d.round rm ⟨n, m, e, false⟩

/-- Convert one code (R140, R198). -/
def convert (s d : Fmt) (rm : Nat) (sat : Bool) (w : Nat) : Nat × Flags :=
  if s = d then
    match d, s.dec w with
    | .f ff, .nan true => (ff.nanCode, fNV)
    | _, _ => (w, 0)
  else match s, d with
    | .i ws ss, .i wd sd => fitI wd sd sat (readI ws ss w)
    | _, _ => convVal s.isT d rm (s.dec w)

/-! ## Arithmetic on exact values -/

/-- The sum of two exact numbers; an exact zero of opposite signs is +0 (R149). -/
def addFin (n1 : Bool) (m1 : Nat) (e1 : Int) (n2 : Bool) (m2 : Nat) (e2 : Int) : Res :=
  let e := min e1 e2
  let v := sgnI n1 (shiftZ m1 (e1 - e)) + sgnI n2 (shiftZ m2 (e2 - e))
  if v = 0 then .ex ⟨n1 && n2 && m1 == 0 && m2 == 0, 0, 0, false⟩
  else .ex ⟨v < 0, v.natAbs, e, false⟩

/-- a + b. -/
def addV (a b : Val) : Res :=
  if a.isNan || b.isNan then .nan (a.isSig || b.isSig)
  else match a, b with
    | .inf x, .inf y => if x = y then .inf x false else .bad
    | .inf x, _ => .inf x false
    | _, .inf y => .inf y false
    | .fin n1 m1 e1, .fin n2 m2 e2 => addFin n1 m1 e1 n2 m2 e2
    | _, _ => .bad

/-- The exact product of two values that are not NaN; none for ∞ × 0. -/
def mulVal (a b : Val) : Option Val :=
  match a, b with
  | .fin n1 m1 e1, .fin n2 m2 e2 => some (.fin (n1 != n2) (m1 * m2) (e1 + e2))
  | x, y => if x.isZero || y.isZero then none else some (.inf (x.sign != y.sign))

/-- a × b. -/
def mulV (a b : Val) : Res :=
  if a.isNan || b.isNan then .nan (a.isSig || b.isSig)
  else match mulVal a b with
    | none => .bad
    | some v => v.res

/-- a × b + c, rounded once; ∞ × 0 is invalid even with a quiet NaN addend (R103, R170). -/
def fmaV (a b c : Val) : Res :=
  if a.isNan || b.isNan then .nan (a.isSig || b.isSig || c.isSig)
  else match mulVal a b with
    | none => .bad
    | some p => addV p c

/-- Digits kept by quotients and roots beyond which the rest is sticky. -/
def keepBits : Nat := 72

/-- a ÷ b (R134, R194). -/
def divV (a b : Val) : Res :=
  if a.isNan || b.isNan then .nan (a.isSig || b.isSig)
  else match a, b with
    | .inf _, .inf _ => .bad
    | .inf x, y => .inf (x != y.sign) false
    | x, .inf y => .ex ⟨x.sign != y, 0, 0, false⟩
    | .fin n1 m1 e1, .fin n2 m2 e2 =>
      if m2 = 0 then (if m1 = 0 then .bad else .inf (n1 != n2) true)
      else
        let k := keepBits + bitLen m2 - bitLen m1
        .ex ⟨n1 != n2, m1 * 2 ^ k / m2, e1 - e2 - k, m1 * 2 ^ k % m2 != 0⟩
    | _, _ => .bad

/-- One digit of a square root: the root so far, tried with bit i set. -/
def rootBits (m : Nat) : Nat → Nat → Nat
  | 0, r => r
  | i + 1, r => rootBits m i (if (r + 2 ^ i) * (r + 2 ^ i) ≤ m then r + 2 ^ i else r)
/-- The integer square root. -/
def isqrt (m : Nat) : Nat := rootBits m (bitLen m / 2 + 1) 0

/-- √a (R134, R194). -/
def sqrtV (a : Val) : Res :=
  match a with
  | .nan s => .nan s
  | .inf n => if n then .bad else .inf false false
  | .fin n m e =>
    if m = 0 then .ex ⟨n, 0, 0, false⟩
    else if n then .bad
    else
      let j := 2 * keepBits - bitLen m
      let k := if (e - j) % 2 = 0 then j else j + 1
      let x := m * 2 ^ k
      let r := isqrt x
      .ex ⟨false, r, (e - k) / 2, r * r != x⟩

/-! ## Order (R104, R105, R126, R144, R145) -/

/-- a < b of two values that are not NaN, −0 equal to +0. -/
def ltV (a b : Val) : Bool :=
  match a, b with
  | .inf x, .inf y => x && !y
  | .inf x, _ => x
  | _, .inf y => !y
  | .fin n1 m1 e1, .fin n2 m2 e2 =>
    let e := min e1 e2
    sgnI n1 (shiftZ m1 (e1 - e)) < sgnI n2 (shiftZ m2 (e2 - e))
  | _, _ => false

/-- The order of codes of a format, NaN excluded: integers by signedness, tapered words as integers. -/
def Fmt.lt (f : Fmt) (a b : Nat) : Bool :=
  match f with
  | .t n _ => readI n true a < readI n true b
  | .i w s => readI w s a < readI w s b
  | f => ltV (f.dec a) (f.dec b)

/-- Minimum (or maximum) of two codes (R104, R144). -/
def Fmt.minmax (f : Fmt) (mx : Bool) (a b : Nat) : Nat × Flags :=
  match f with
  | .t n _ =>
    if a = 2 ^ (n - 1) || b = 2 ^ (n - 1) then (2 ^ (n - 1), 0)
    else (if f.lt a b != mx then a else b, 0)
  | .f ff =>
    let x := f.dec a
    let y := f.dec b
    if x.isSig || y.isSig then (ff.nanCode, fNV)
    else if x.isNan && y.isNan then (ff.nanCode, 0)
    else if x.isNan then (b, 0)
    else if y.isNan then (a, 0)
    else
      let less := ltV x y || (!ltV y x && x.sign && !y.sign)
      (if less != mx then a else b, 0)
  | f => (if f.lt a b != mx then a else b, 0)

/-- A comparison of R97, R105, R173 by its code; IEEE comparisons set NV as R105 says. -/
def Fmt.compare (f : Fmt) (cond a b : Nat) : Bool × Flags :=
  let un := f.isF && ((f.dec a).isNan || (f.dec b).isNan)
  let sig := f.isF && ((f.dec a).isSig || (f.dec b).isSig)
  let lt := f.lt a b
  let gt := f.lt b a
  match cond with
  | 0 => (!un && !lt && !gt, flagIf sig fNV)
  | 1 => (un || lt || gt, flagIf sig fNV)
  | 2 => (!un && lt, flagIf un fNV)
  | 3 => (!un && !lt, flagIf un fNV)
  | 4 => (!un && !gt, flagIf un fNV)
  | 5 => (!un && gt, flagIf un fNV)
  | 10 => (un, flagIf sig fNV)
  | _ => (!un, flagIf sig fNV)

/-! ## The quire (R130 to R132) -/

/-- NaR of the quire. -/
def quireNaR : BitVec 512 := BitVec.ofNat 512 (2 ^ 511)

/-- A quire term in units of 2^−240. -/
def Val.units : Val → Int
  | .fin n m e => sgnI n (shiftZ m (e + 240))
  | _ => 0

/-- QuireAdd of an integer number of units (R131). -/
def quireAddI (q : BitVec 512) (v : Int) : BitVec 512 × Flags :=
  if q = quireNaR then (q, 0)
  else
    let s := q.toInt + v
    if 2 ^ 511 ≤ s.natAbs then (quireNaR, fOF ||| fNR) else (BitVec.ofInt 512 s, 0)

/-- QuireAdd (R131); `ieee` says that the term is of an IEEE format. -/
def quireAdd (ieee : Bool) (q : BitVec 512) (v : Val) : BitVec 512 × Flags :=
  if q = quireNaR then (q, 0)
  else match v with
    | .nan _ => (quireNaR, flagIf ieee fNV)
    | .inf _ => (quireNaR, fNV)
    | v => quireAddI q v.units

/-- QuireAdd of several terms, in ascending element order: DESIGN CHOICE (R203, log 101). -/
def quireSum (ieee : Bool) (q : BitVec 512) (l : List Val) : BitVec 512 × Flags :=
  l.foldl (fun a v => let r := quireAdd ieee a.1 v; (r.1, a.2 ||| r.2)) (q, 0)

/-- The value of a quire; NaR as NaN. -/
def quireVal (q : BitVec 512) : Val :=
  if q = quireNaR then .nan false else Val.ofInt q.toInt (-240)

/-- Read a quire out: rounded once (R132). NaR gives NaR, or the canonical NaN with NV. -/
def quireRound (d : Fmt) (rm : Nat) (q : BitVec 512) : Nat × Flags := convVal true d rm (quireVal q)

/-- The product of two tapered values as a quire term. -/
def tapProd (a b : Val) : Val :=
  if a.isNan || b.isNan then .nan false else (mulVal a b).getD (.nan false)

/-! ## Canonical trees (R147 to R149) -/

/-- The largest power of two below n. -/
def halfPow (n : Nat) : Nat := 2 ^ Nat.log2 (n - 1)

/-- CanonicalTree over leaves, absent ones none (R148); `fuel` bounds the depth. -/
def canon {α : Type} (f : α → α → α) : Nat → List (Option α) → Option α
  | 0, _ => none
  | _ + 1, [] => none
  | _ + 1, [x] => x
  | k + 1, l =>
    let h := halfPow l.length
    match canon f k (l.take h), canon f k (l.drop h) with
    | some a, some b => some (f a b)
    | some a, none => some a
    | none, b => b

/-- A node of a tree of codes with flags. -/
def nodeOp (op : Nat → Nat → Nat × Flags) (a b : Nat × Flags) : Nat × Flags :=
  let r := op a.1 b.1
  (r.1, a.2 ||| b.2 ||| r.2)

/-- A sum node (R149): the zero rules are those of addV. -/
def Fmt.addNode (f : Fmt) (rm : Nat) (a b : Nat) : Nat × Flags := f.deliver rm (addV (f.dec a) (f.dec b))

/-- The canonical tree of an operation over codes; an absent root gives 0. -/
def canonOp (op : Nat → Nat → Nat × Flags) (l : List (Option Nat)) : Nat × Flags :=
  (canon (nodeOp op) (bitLen l.length + 1) (l.map fun x => x.map fun v => (v, 0))).getD (0, 0)

end Sys2Proof.Machine
end

