-- ==== Sys2Proof/Machine/Special.lean ====
section
/-! DEFINITION. The special functions (R193 to R195), correctly rounded: the exact result is enclosed in a
fixed-point interval, at a working precision that grows until both ends round alike (log 14). -/

namespace Sys2Proof.Machine

/-- The transcendental functions of R193. -/
inductive Fn where
  | exp2 | log2 | exp | log | tanh | sig | sin | cos
  deriving DecidableEq, Repr

/-- A number of a function, for the fallback constant (log 14). -/
def Fn.num : Fn → Nat
  | .exp2 => 0 | .log2 => 1 | .exp => 2 | .log => 3 | .tanh => 4 | .sig => 5 | .sin => 6 | .cos => 7

/-- An enclosure: the magnitude lies strictly between lo and hi, times 2^e. -/
structure Enc where
  neg : Bool
  lo : Int
  hi : Int
  e : Int
  deriving DecidableEq, Repr

/-- Ulps by which every approximation below may err. -/
def slack : Int := 65536

/-- v ± slack, in units of 2^e. -/
def Enc.around (neg : Bool) (v e : Int) : Enc := ⟨neg, v - slack, v + slack, e⟩

/-! ## Series in fixed point: p binary places -/

/-- x + x × r/n + …: n counts up, t is the current term. -/
def expSeries (p : Nat) (r : Int) : Nat → Int → Int → Int → Int
  | 0, _, _, acc => acc
  | k + 1, n, t, acc =>
    let t' := (t * r).fdiv (n * 2 ^ p)
    expSeries p r k (n + 1) t' (acc + t')
/-- e^r for |r| ≤ 1. -/
def expFix (p : Nat) (r : Int) : Int := expSeries p r (p / 3 + 8) 1 (2 ^ p) (2 ^ p)

/-- Odd terms z^(2n+1)/(2n+1), with sign s each step. -/
def oddSeries (p : Nat) (z2 s : Int) : Nat → Int → Int → Int → Int
  | 0, _, _, acc => acc
  | k + 1, n, t, acc =>
    let t' := s * (t * z2).fdiv (2 ^ p)
    oddSeries p z2 s k (n + 2) t' (acc + t'.fdiv n)
/-- atanh z for |z| ≤ 1/3. -/
def atanhFix (p : Nat) (z : Int) : Int :=
  oddSeries p ((z * z).fdiv (2 ^ p)) 1 (p / 3 + 8) 3 z z
/-- atan z for |z| ≤ 1/3. -/
def atanFix (p : Nat) (z : Int) : Int :=
  oddSeries p ((z * z).fdiv (2 ^ p)) (-1) (p / 3 + 8) 3 z z
/-- ln 2. -/
def lnTwo (p : Nat) : Int := 2 * atanhFix p ((2 : Int) ^ p / 3)
/-- π/2, by Machin's formula. -/
def halfPi (p : Nat) : Int := 8 * atanFix p ((2 : Int) ^ p / 5) - 2 * atanFix p ((2 : Int) ^ p / 239)

/-- The series of sine (from n = 2) or cosine (from n = 1): t is the current term. -/
def sinSeries (p : Nat) (r2 : Int) : Nat → Int → Int → Int → Int
  | 0, _, _, acc => acc
  | k + 1, n, t, acc =>
    let t' := -(t * r2).fdiv (n * (n + 1) * 2 ^ p)
    sinSeries p r2 k (n + 2) t' (acc + t')
/-- sin r for |r| ≤ 1. -/
def sinFix (p : Nat) (r : Int) : Int := sinSeries p ((r * r).fdiv (2 ^ p)) (p / 4 + 8) 2 r r
/-- cos r for |r| ≤ 1. -/
def cosFix (p : Nat) (r : Int) : Int := sinSeries p ((r * r).fdiv (2 ^ p)) (p / 4 + 8) 1 (2 ^ p) (2 ^ p)

/-- A number at p places, cut downwards. -/
def toFix (p : Nat) (neg : Bool) (m : Nat) (e : Int) : Int :=
  let k := e + p
  if 0 ≤ k then sgnI neg (m * 2 ^ k.toNat) else (sgnI neg m).fdiv (2 ^ (-k).toNat)

/-- Shift a fixed-point number. -/
def shI (v k : Int) : Int := if 0 ≤ k then v * 2 ^ k.toNat else v.fdiv (2 ^ (-k).toNat)

/-! ## Enclosures -/

/-- e^a as v × 2^(k − p), v near 1, for |a| < 2^11; the constant ln 2 is held to 32 more places. -/
def expParts (p : Nat) (neg : Bool) (m : Nat) (e : Int) : Int × Int :=
  let q := p + 32
  let a := toFix q neg m e
  let l := lnTwo q
  let k := a.fdiv l
  (expFix p ((a - k * l).fdiv (2 ^ 32)), k)

/-- Enclosure of e^a. -/
def encExp (p : Nat) (neg : Bool) (m : Nat) (e : Int) : Enc :=
  let (v, k) := expParts p neg m e
  .around false v (k - p)

/-- Enclosure of 2^a: the fraction of a times ln 2, then the integer part. -/
def encExp2 (p : Nat) (neg : Bool) (m : Nat) (e : Int) : Enc :=
  let q := p + 32
  let a := toFix q neg m e
  let k := a.fdiv (2 ^ q)
  .around false (expFix p (((a - k * 2 ^ q) * lnTwo q).fdiv (2 ^ (q + 32)))) (k - p)

/-- ln x at p places for x = m × 2^e > 0. -/
def lnFix (p : Nat) (m : Nat) (e : Int) : Int :=
  let b := bitLen m
  let small := 4 * m < 3 * 2 ^ b
  let d : Int := if small then 2 ^ (b - 1) else 2 ^ b
  let k : Int := e + b - (if small then 1 else 0)
  k * lnTwo (p + 32) / 2 ^ 32 + 2 * atanhFix p ((((m : Int) - d) * 2 ^ p).fdiv (m + d))

/-- Enclosure of a signed fixed-point number. -/
def encSigned (v : Int) (p : Nat) : Enc := .around (v < 0) v.natAbs (-(p : Int))

/-- Enclosure of log2 x. -/
def encLog2 (p : Nat) (m : Nat) (e : Int) : Enc :=
  let q := p + 32
  encSigned ((lnFix q m e * 2 ^ p).fdiv (lnTwo q)) p

/-- Enclosure of tanh |a| as (1 − E)/(1 + E) with E = e^(−2|a|), sign as a. -/
def encTanh (p : Nat) (neg : Bool) (m : Nat) (e : Int) : Enc :=
  let (v, k) := expParts p true m (e + 1)
  let x := shI v k
  .around neg (((2 ^ p - x) * 2 ^ p).fdiv (2 ^ p + x)) (-(p : Int))

/-- Enclosure of 1/(1 + e^(−a)). -/
def encSig (p : Nat) (neg : Bool) (m : Nat) (e : Int) : Enc :=
  let (v, k) := expParts p true m e
  let x := shI v k
  if neg then .around false ((v * 2 ^ p).fdiv (2 ^ p + x)) (k - p)
  else .around false ((2 : Int) ^ (2 * p) / (2 ^ p + x)) (-(p : Int))

/-- Enclosure of sin a or cos a, with a reduced by π/2 held to as many more places as a has. -/
def encSin (isCos : Bool) (p : Nat) (neg : Bool) (m : Nat) (e : Int) : Enc :=
  let q := p + (e + bitLen m).toNat + 16
  let a := toFix q neg m e
  let h := halfPi q
  let n := (a + h / 2).fdiv h
  let r := (a - n * h).fdiv (2 ^ (q - p))
  let quad := (n + (if isCos then 1 else 0)) % 4
  let v := if quad % 2 = 0 then sinFix p r else cosFix p r
  encSigned (if quad < 2 then v else -v) p

/-- Enclosure of a function of a non-zero finite argument. -/
def Fn.enc (fn : Fn) (p : Nat) (neg : Bool) (m : Nat) (e : Int) : Enc :=
  match fn with
  | .exp2 => encExp2 p neg m e
  | .exp => encExp p neg m e
  | .log2 => encLog2 p m e
  | .log => encSigned (lnFix p m e) p
  | .tanh => encTanh p neg m e
  | .sig => encSig p neg m e
  | .sin => encSin false p neg m e
  | .cos => encSin true p neg m e

/-- Both ends of an enclosure round alike. -/
def Enc.agree (f : Fmt) (rm : Nat) (x : Enc) : Option (Nat × Flags) :=
  if x.lo ≤ 0 then none
  else
    let a := f.round rm ⟨x.neg, x.lo.toNat, x.e, true⟩
    if a = f.round rm ⟨x.neg, (x.hi - 1).toNat, x.e, true⟩ then some a else none

/-- Round by the first working precision that decides; past the last one, a constant of the part (log 14). -/
def Fn.ladder (fn : Fn) (f : Fmt) (rm : Nat) (neg : Bool) (m : Nat) (e : Int) : Nat × Flags :=
  match (fn.enc 200 neg m e).agree f rm with
  | some r => r
  | none =>
    let x := fn.enc 700 neg m e
    match x.agree f rm with
    | some r => r
    | none =>
      let lo := if Config.specialTie fn.num (sgnI neg m) e then x.lo else x.hi - 1
      f.round rm ⟨x.neg, lo.toNat, x.e, true⟩

/-- A magnitude just below 1. -/
def belowOne (neg : Bool) : Ex := ⟨neg, 2 ^ 320 - 1, -320, true⟩
/-- A magnitude beyond every format. -/
def huge : Ex := ⟨false, 1, 4000, true⟩
/-- A magnitude below every format. -/
def tiny : Ex := ⟨false, 1, -4000, true⟩

/-- 2^k as an exact result, for any k. -/
def pow2Ex (k : Int) : Ex := ⟨false, 1, max (-4000) (min 4000 k), false⟩

/-- A special function of a finite argument (R193 to R195): the exact cases, arguments beyond 2^11, then the
enclosures. -/
def Fn.fin (fn : Fn) (f : Fmt) (rm : Nat) (neg : Bool) (m : Nat) (e : Int) : Nat × Flags :=
  let ex := f.round rm
  let top : Int := e + bitLen m
  let pow2 := m == 2 ^ (bitLen m - 1)
  match fn with
  | .exp | .exp2 =>
    if m = 0 then ex (pow2Ex 0)
    else if fn = .exp2 && (0 ≤ e || m % 2 ^ (-e).toNat == 0) then ex (pow2Ex (shI (sgnI neg m) e))
    else if 11 < top then ex (if neg then tiny else huge)
    else fn.ladder f rm neg m e
  | .log | .log2 =>
    if m = 0 then f.deliver rm (.inf true true)
    else if neg then f.deliver rm .bad
    else if pow2 && top = 1 then ex ⟨false, 0, 0, false⟩
    else if fn = .log2 && pow2 then ex ⟨top - 1 < 0, (top - 1).natAbs, 0, false⟩
    else fn.ladder f rm neg m e
  | .tanh =>
    if m = 0 then ex ⟨neg, 0, 0, false⟩
    else if 6 < top then ex (belowOne neg)
    else fn.ladder f rm neg m e
  | .sig =>
    if m = 0 then ex ⟨false, 1, -1, false⟩
    else if 11 < top then ex (if neg then tiny else belowOne false)
    else if 8 < top && !neg then ex (belowOne false)
    else fn.ladder f rm neg m e
  | .sin => if m = 0 then ex ⟨neg, 0, 0, false⟩ else fn.ladder f rm neg m e
  | .cos => if m = 0 then ex (pow2Ex 0) else fn.ladder f rm neg m e

/-- A special function of a code (R193, R194). -/
def Fn.apply (fn : Fn) (f : Fmt) (rm : Nat) (w : Nat) : Nat × Flags :=
  match f.dec w with
  | .nan s => f.deliver rm (.nan s)
  | .fin n m e => fn.fin f rm n m e
  | .inf n => match fn with
    | .exp2 | .exp => f.deliver rm (if n then .ex ⟨false, 0, 0, false⟩ else .inf false false)
    | .log2 | .log => f.deliver rm (if n then .bad else .inf false false)
    | .tanh => f.deliver rm (.ex ⟨n, 1, 0, false⟩)
    | .sig => f.deliver rm (.ex (if n then ⟨false, 0, 0, false⟩ else pow2Ex 0))
    | .sin | .cos => f.deliver rm .bad

/-- 1 ÷ a (R194). -/
def rcpV (a : Val) : Res := divV (.fin false 1 0) a

/-- 1 ÷ √a (R194): the root of 2^(2k) ÷ m, exact where its square times m is 2^(2k). -/
def rsqV (a : Val) : Res :=
  match a with
  | .nan s => .nan s
  | .inf n => if n then .bad else .ex ⟨false, 0, 0, false⟩
  | .fin n m e =>
    if m = 0 then .inf n true
    else if n then .bad
    else
      let m' := if e % 2 = 0 then m else 2 * m
      let e' := if e % 2 = 0 then e else e - 1
      let k := keepBits + bitLen m'
      let r := isqrt (2 ^ (2 * k) / m')
      .ex ⟨false, r, -e' / 2 - k, r * r * m' != 2 ^ (2 * k)⟩

end Sys2Proof.Machine
end

