-- ==== Sys2Proof/Syntax.lean ====
section
/-! DEFINITION. The syntax of the QX4: the operand fields of every syllable format (R78, R81 to R83) and
`Instr`, one constructor per row of spec/opcode_table.json: 185 slot instructions, then the 89 steps that
the machine takes by itself or at the hand of the outside world (95_what_each_step_holds.md). -/

namespace Sys2Proof

/-- The eight slot positions of a bundle, in the order of their syllables (R46). -/
inductive Slot where
  | s0 | s1 | v0 | v1 | m | c | e | b
  deriving DecidableEq, Repr

/-- Format SR (R78); `lit` replaces SB when the extension bit is set. -/
structure SR where
  sd : BitVec 6
  sa : BitVec 6
  sb : BitVec 6
  pg : BitVec 4
  pn : Bool
  lit : Option (BitVec 31)
  deriving DecidableEq, Repr

/-- Format SI (R78). -/
structure SI where
  sd : BitVec 6
  sa : BitVec 6
  imm : BitVec 6
  pg : BitVec 4
  pn : Bool
  deriving DecidableEq, Repr

/-- Format SL (R78); `lit` replaces I12. -/
structure SL where
  sd : BitVec 6
  imm : BitVec 12
  pg : BitVec 4
  pn : Bool
  lit : Option (BitVec 31)
  deriving DecidableEq, Repr

/-- Format SM (R78); `lit` is the byte offset. -/
structure SM where
  sd : BitVec 6
  sa : BitVec 6
  sz : BitVec 3
  pg : BitVec 4
  pn : Bool
  lit : Option (BitVec 31)
  deriving DecidableEq, Repr

/-- Format SC (R78); `lit` replaces SB (cmp only). -/
structure SC where
  pd : BitVec 4
  sa : BitVec 6
  sb : BitVec 6
  cond : BitVec 4
  fm : Bool
  lit : Option (BitVec 31)
  deriving DecidableEq, Repr

/-- Format SQ (R78). -/
structure SQ where
  pd : BitVec 4
  sa : BitVec 6
  bit : BitVec 6
  deriving DecidableEq, Repr

/-- Format SP (R78). -/
structure SP where
  pd : BitVec 4
  pa : BitVec 4
  pb : BitVec 4
  tt : BitVec 4
  deriving DecidableEq, Repr

/-- Format SF (R78). -/
structure SF where
  sd : BitVec 6
  sa : BitVec 6
  sb : BitVec 6
  rm : BitVec 2
  fm : Bool
  cv : BitVec 2
  deriving DecidableEq, Repr

/-- Format SS (R78). -/
structure SS where
  sd : BitVec 6
  sel : BitVec 12
  pg : BitVec 4
  pn : Bool
  deriving DecidableEq, Repr

/-- Format SG (R78); `lit` replaces SD (movstg only). -/
structure SG where
  sd : BitVec 6
  eng : BitVec 2
  idx : BitVec 4
  set : Bool
  pg : BitVec 4
  pn : Bool
  lit : Option (BitVec 31)
  deriving DecidableEq, Repr

/-- Format ST (R78). -/
structure ST where
  sd : BitVec 6
  sa : BitVec 6
  stm : BitVec 4
  rz : BitVec 2
  pg : BitVec 4
  pn : Bool
  deriving DecidableEq, Repr

/-- Format STF (R78). -/
structure STF where
  sd : BitVec 6
  sa : BitVec 6
  stm : BitVec 4
  sem : BitVec 6
  cl : Bool
  deriving DecidableEq, Repr

/-- The fields of a V-head and its V-tail (R81), less the opcode and the stop bits. -/
structure VF where
  vd : BitVec 8
  va : BitVec 8
  ty : BitVec 4
  lua : Bool
  lub : Bool
  luc : Bool
  vb : BitVec 8
  vc : BitVec 8
  rows : BitVec 4
  km : BitVec 3
  ke : Bool
  rm : BitVec 2
  es : BitVec 2
  sat : Bool
  na : Bool
  nc : Bool
  deriving DecidableEq, Repr

/-- The header of mma (R210). -/
structure MmaF where
  fmt : BitVec 4
  asg : Bool
  bsg : Bool
  mode : BitVec 2
  rs : Bool
  zi : Bool
  setx : Bool
  deriving DecidableEq, Repr

/-- The header of mzero (R215). -/
structure MzeroF where
  bank : BitVec 6
  q : Bool
  blk : Bool
  rsc : Bool
  msc : Bool
  deriving DecidableEq, Repr

/-- The header of mdrain (R218). -/
structure MdrainF where
  ofmt : BitVec 4
  rm : BitVec 2
  zc : Bool
  clr : Bool
  tag : BitVec 6
  qs : Bool
  setx : Bool
  deriving DecidableEq, Repr

/-- The header of mload and mstore (R216). -/
structure MlsF where
  xf : BitVec 4
  tag : BitVec 6
  setx : Bool
  deriving DecidableEq, Repr

/-- The header of copy (R306). -/
structure CopyF where
  dim : BitVec 2
  sp : Bool
  tag : BitVec 6
  stm : BitVec 4
  ew : BitVec 2
  setx : Bool
  deriving DecidableEq, Repr

/-- The header of bufset and bufset.off (R319), whose EN bit is the constructor. -/
structure BufF where
  buf : BitVec 5
  tag : BitVec 6
  setx : Bool
  deriving DecidableEq, Repr

/-- The header of publish (R320). -/
structure PubF where
  buf : BitVec 5
  scope : BitVec 3
  tag : BitVec 6
  deriving DecidableEq, Repr

/-- The header of quant and dequant (R230). -/
structure QuantF where
  f1 : BitVec 4
  f2 : BitVec 4
  rm : BitVec 2
  tag : BitVec 6
  setx : Bool
  deriving DecidableEq, Repr

/-- The header of sqld (R234). -/
structure SqldF where
  qsel : Bool
  nm1 : BitVec 6
  setx : Bool
  deriving DecidableEq, Repr

/-- The header of sqclr (R235). -/
structure SqclrF where
  ca : Bool
  cb : Bool
  deriving DecidableEq, Repr

/-- The header of xpush and xfetch (R347). -/
structure XpF where
  ix : BitVec 3
  vx : BitVec 3
  rm1 : BitVec 4
  ke : Bool
  km : BitVec 3
  deriving DecidableEq, Repr

/-- The header of xcfg (R345). -/
structure XcfgF where
  xop : BitVec 4
  vt : BitVec 2
  es : BitVec 2
  setx : Bool
  deriving DecidableEq, Repr

/-- Where a register write of the host goes (R404): a die's control window, a queue window, or PF4's
management window. -/
inductive Window where
  | control (die : Nat)
  | queue (die : Nat)
  | management
  deriving DecidableEq, Repr

/-- One step of the machine: one row of spec/opcode_table.json. A slot instruction runs at the tile and
for the context that `State.focus` names; an event carries the place it happens at. -/
inductive Instr where
  -- scalar slots, R84
  | add (f : SR) | sub (f : SR) | mul (f : SR) | mulh (f : SR) | mulhz (f : SR)
  | div (f : SR) | divz (f : SR) | rem (f : SR) | remz (f : SR)
  | and (f : SR) | or (f : SR) | xor (f : SR) | andn (f : SR)
  | shl (f : SR) | shr (f : SR) | sar (f : SR) | rotl (f : SR)
  | clz (f : SR) | ctz (f : SR) | popc (f : SR)
  | min (f : SR) | max (f : SR) | minz (f : SR) | maxz (f : SR) | addsh (f : SR) | sel (f : SR)
  | addi (f : SI) | movi (f : SL) | movhi (f : SL)
  | cmp (f : SC) | pset (f : SQ) | plog (f : SP)
  | ld (f : SM) | st (f : SM)
  | fadd (f : SF) | fsub (f : SF) | fmul (f : SF) | fma (f : SF) | fdiv (f : SF) | fsqrt (f : SF)
  | fmin (f : SF) | fmax (f : SF) | fcmp (f : SC) | fcvt (f : SF) | fclass (f : SF) | fchk (f : SF)
  | movsys (f : SS) | movctlRead (f : SS) | movctlWrite (f : SS) | movstg (f : SG) | rdstg (f : SG)
  | rst (f : ST) | rstf (f : STF) | rld (f : ST)
  -- vector slots, R85
  | vadd (f : VF) | vsub (f : VF) | vmul (f : VF) | vmulh (f : VF) | vfma (f : VF)
  | vmin (f : VF) | vmax (f : VF) | vabs (f : VF) | vneg (f : VF)
  | vand (f : VF) | vor (f : VF) | vxor (f : VF) | vandn (f : VF)
  | vshl (f : VF) | vshr (f : VF) | vsar (f : VF)
  | vcmp (f : VF) | vsel (f : VF) | vclz (f : VF) | vpopc (f : VF) | vcrc (f : VF) | vmov (f : VF)
  | klog (f : VF) | vsplat (f : VF) | vext (f : VF) | vins (f : VF) | vld (f : VF) | vst (f : VF)
  | vgather (f : VF) | vscatter (f : VF) | gset (f : VF) | greset (f : VF)
  | vrotr (f : VF) | vrotc (f : VF) | vbcr (f : VF) | vbcc (f : VF)
  | vredr (f : VF) | vredc (f : VF) | vscanR (f : VF) | vscanC (f : VF)
  | vtrn (f : VF) | vshfr (f : VF) | vtopk (f : VF) | vcvt (f : VF)
  | vrcp (f : VF) | vrsq (f : VF) | vsqrt (f : VF) | vdiv (f : VF) | vexp2 (f : VF) | vlog2 (f : VF)
  | vexp (f : VF) | vlog (f : VF) | vtanh (f : VF) | vsig (f : VF) | vsin (f : VF) | vcos (f : VF)
  | qclr (f : VF) | qadd (f : VF) | qsub (f : VF) | qdot (f : VF) | qaddq (f : VF) | qsubq (f : VF)
  | qneg (f : VF) | qrnd (f : VF) | qsave (f : VF) | qload (f : VF) | qtov (f : VF) | vtoq (f : VF)
  -- slots M, C and E, R86
  | mma (f : MmaF) | mzero (f : MzeroF) | mdrain (f : MdrainF) | mload (f : MlsF) | mstore (f : MlsF)
  | copy (f : CopyF) | bufset (f : BufF) | bufsetOff (f : BufF) | publish (f : PubF)
  | quant (f : QuantF) | dequant (f : QuantF) | sqld (f : SqldF) | sqclr (f : SqclrF)
  | xpush (f : XpF) | xfetch (f : XpF) | xflush | xcfg (f : XcfgF)
  -- slot B, R87
  | br | brc (bp : BitVec 4) (bn : Bool) | call (bx : BitVec 6) | ret (bx : BitVec 6) | jmpr (bx : BitVec 6)
  | loop (bx : BitVec 6) (imm : BitVec 7) | loopRot (bx : BitVec 6) (imm : BitVec 7)
  | loopw (bp : BitVec 4) (bn : Bool) (imm : BitVec 7) | yield | exit
  | allot (bx by' : BitVec 6) | shrink (by' : BitVec 6)
  | balloc (bx : BitVec 6) (q : Bool) (n : BitVec 7) | bfree (bx : BitVec 6) (n : BitVec 7)
  | vpark (bx : BitVec 6) (n : BitVec 7) | vunpark (bx : BitVec 6) (n : BitVec 7)
  | mlease | mrelease
  | launch (bx by' : BitVec 6) (q : BitVec 7)
  | barcfg (bx : BitVec 6) (b : BitVec 7) | bar (b : BitVec 7) | barw (b : BitVec 7)
  | bartst (bp : BitVec 4) (b : BitVec 7)
  | hadv (bx : BitVec 6) | ttstart (bx by' : BitVec 6) (q : BitVec 7)
  | waitany (bx : BitVec 6) | waitall (bx : BitVec 6) | ffr (bx by' : BitVec 6) | tagclr (bx : BitVec 6)
  | semw (bx : BitVec 6) (n : BitVec 7) | semsig (bx : BitVec 6) (n : BitVec 7)
  | semset (bx : BitVec 6) (n : BitVec 7) | sclose (stm : BitVec 7) | fence (scope : BitVec 7)
  | rngset (bx by' : BitVec 6) (n : BitVec 7) | rngclr (by' : BitVec 6) (n : BitVec 7)
  | tlbinv (bx by' : BitVec 6) | tlbinva (by' : BitVec 6) | tlbinvaAll
  | trap (n : BitVec 7) | eret | eretCtx (bx : BitVec 6) (op : BitVec 7)
  | ctxsave (bx by' : BitVec 6) | ctxload (bx by' : BitVec 6)
  | jmark (bx : BitVec 6) (n : BitVec 7) | jflush
  -- the machine's own steps
  | leadIssueCycle (die lead : Nat) | bundleArrival (die tile ctx : Nat) | latchRelease (die tile ctx : Nat)
  | stopSignal (die tile ctx : Nat) | fetchLineReturn (die lead ctx : Nat) | resultLanding (die tile : Nat)
  | fifoRowArrival (die tile dir : Nat)
  | matrixCommandStart (die tile : Nat) | matrixCommandComplete (die tile : Nat) | leaseDecision (die tile : Nat)
  | copyCommandStart (die tile : Nat) | copyCommandComplete (die tile : Nat)
  | bufsetStart (die tile : Nat) | publishSwap (die tile : Nat)
  | quantCommandStart (die tile : Nat) | quantCommandComplete (die tile : Nat) | sqldEntryPush (die tile : Nat)
  | scatterCommandStart (die tile : Nat) | scatterEntryTimeout (die tile : Nat)
  | xflushComplete (die tile : Nat) | xfetchComplete (die tile : Nat)
  | semaphoreCycle (die tile : Nat) | barrierComplete (die tile b : Nat)
  | packetArrival (p : Nat) | packetRefusedResend (p : Nat) | packetRetransmit (die tile : Nat)
  | streamBrokenTimeout (die tile : Nat) | ackReceived (p : Nat) | rldResponse (p : Nat)
  | incarnationChange (die src : Nat) (incn : BitVec 8) | portPacketExpiry (p : Nat)
  | retiredRecordExpiry (ep : Nat)
  | dispatchCycle (die : Nat) | contextReady (die car : Nat) | timetableStart (die : Nat)
  | timetablePlacement (die : Nat) | exitComplete (die lead ctx : Nat) | granuleRelease (die tile : Nat)
  | dieFreeze (die : Nat) | freezeEnd (die : Nat) | ttcExchange (die : Nat)
  | timedDeparture (die tile : Nat) | timedDelivery (p : Nat) | timetableOverrun (die lead ctx : Nat)
  | pageWalkComplete (die tile : Nat) | haulGroupPublish (die : Nat) | haulListFail (die : Nat)
  | holdWatchdogExpiry (die tile ctx : Nat) | quantumExpiry (die lead : Nat)
  | preemptionStop (die lead ctx : Nat) | trapSignalArrival (die lead ctx : Nat)
  | handlerEntry (die lead ctx : Nat) | saveComplete (die : Nat) | loadComplete (die : Nat)
  | replayDivergence (die : Nat) | linkDown (link : Nat)
  | destinationLearnsBreak (ep die tile ctx stm : Nat) | invalidationComplete (die : Nat)
  | scrubComplete (die tile : Nat)
  -- what comes from outside: links, other modules, the host, the board
  | linkRetry (link : Nat) | linkTrainingComplete (p level : Nat)
  | reductionPartialArrival (port group : Nat) (parts : List Nat)
  | reductionResultArrival (group : Nat) (results : List Nat)
  | waybillWithdrawal (die : Nat)
  | doorbell (die q : Nat) | preqWrite (die : Nat) (v : DWord)
  | invcmdPage (die : Nat) (asid : BitVec 16) | invcmdAsid (die : Nat) (asid : BitVec 16)
  | invcmdAll (die : Nat) | invcmdSourceRanges (die : Nat)
  | ccmdResume (die : Nat) (desc : BitVec 11) | ccmdEnd (die : Nat) (desc : BitVec 11)
  | ccmdSave (die : Nat) (desc : BitVec 11) | ccmdLoad (die : Nat) (desc : BitVec 11)
  | rehaul (die slot entry : Nat) | jtailWrite (die : Nat) (v : DWord) | portTrain (p : Nat)
  | registerWrite (w : Window) (off : Nat) (v : DWord)
  | hostMemoryAccess (die addr n : Nat) (data : List Byte)
  | loadWindowAccess (off n : Nat) (data : List Byte)
  | attestationRequest (nonce : BitVec 256) | provisioningWrite (off : Nat) (data : List Byte)
  | powerOn | dieReset (die : Nat) | moduleReset | frzWrite | freezePin
  | debugPortRead (die tile ctx : Nat) | mainPowerOff
  deriving DecidableEq, Repr

end Sys2Proof
end

