-- ==== Sys2Proof/WellFormed.lean ====
section
/-! DEFINITION. Which instructions are legal: the checks of R65 that depend on one syllable alone, by the
field rules of R75 to R83 and of each instruction's entry. -/

namespace Sys2Proof

/-- Why a bundle is an illegal encoding: the status 3:0 of cause 0x00 (R446, class 0). -/
inductive Reject where
  | opcode | reserved | operand | extension | header | beyond
  deriving DecidableEq, Repr

/-- Status bits 3:0 of the illegal encoding trap. -/
def Reject.status : Reject → Nat
  | .opcode => 0 | .reserved => 1 | .operand => 2 | .extension => 3 | .header => 4 | .beyond => 5

/-- The row of R65 in which a reject stands; the smaller is raised. -/
def Reject.row : Reject → Nat
  | .header => 0 | .beyond => 0 | .opcode => 1 | .reserved => 2 | .operand => 3 | .extension => 4

/-- The first violated check of a list, its names in the order of R65. -/
def firstBad : List (Bool × Reject) → Option Reject
  | [] => none
  | (bad, r) :: t => if bad then some r else firstBad t

/-! ## Element types (R81, R169) -/

/-- TY codes of R81 as a set: bit n stands for code n. -/
abbrev TySet := Nat

/-- S8 to Z32. -/
def tysI : TySet := 0x03F
/-- T8 to T32. -/
def tysT : TySet := 0x1C0
/-- F16, BF16, F32. -/
def tysF : TySet := 0xE00
/-- Every type code. -/
def tysAny : TySet := 0xFFF
/-- S32, Z32, T32, F32. -/
def tys32 : TySet := 0x930
/-- The unused type field. -/
def tys0 : TySet := 0x001

/-- TY is an integer type. -/
def tyIsI (ty : Nat) : Bool := ty < 6
/-- TY is a signed integer type. -/
def tyIsS (ty : Nat) : Bool := ty == 0 || ty == 2 || ty == 4
/-- TY is a tapered type. -/
def tyIsT (ty : Nat) : Bool := 6 ≤ ty && ty < 9
/-- TY is an IEEE type. -/
def tyIsF (ty : Nat) : Bool := 9 ≤ ty && ty < 12

/-! ## Vector fields (R169, R185, R200) -/

/-- What a field of a vector instruction names. -/
inductive VRole where
  | unused | dst | src | srcV | scalar | mask | oReg | oFifo | quire
  | cond | tt | port | portMask | bes | opn | cvt
  deriving DecidableEq, Repr

/-- How the ROWS field is restricted. -/
inductive RowRule where
  | any | zero | full
  deriving DecidableEq, Repr

/-- When SAT may be 1. -/
inductive SatRule where
  | no | int | signed | add | cvt
  deriving DecidableEq, Repr

/-- How KE and KM are used: as a mask, not at all, or KM as the selector of vsel. -/
inductive MaskRule where
  | yes | no | sel
  deriving DecidableEq, Repr

/-- One row of the field tables of R169, R185 and R200. -/
structure VRow where
  vd : VRole
  va : VRole
  vb : VRole
  vc : VRole
  tys : TySet
  rows : RowRule
  mask : MaskRule
  /-- ES may be non-zero with a T type. -/
  es : Bool
  /-- RM may be non-zero with an F type. -/
  rm : Bool
  sat : SatRule
  /-- NA and NC may be used. -/
  neg : Bool
  /-- Last-use bits may be used. -/
  lu : Bool
  deriving DecidableEq, Repr

/-- A code that names an o register. -/
def isO (c : BitVec 8) : Bool := c.toNat < 8
/-- A code that names an input or output FIFO. -/
def isFifo (c : BitVec 8) : Bool := 0x10 ≤ c.toNat && c.toNat < 0x14
/-- A code that names a read port g0 to g5. -/
def isReadPort (c : BitVec 8) : Bool := 0x08 ≤ c.toNat && c.toNat < 0x0E
/-- A code that names a write port g6 or g7. -/
def isWritePort (c : BitVec 8) : Bool := 0x0E ≤ c.toNat && c.toNat < 0x10
/-- A code that names a main-file register. -/
def isV (c : BitVec 8) : Bool := 0x80 ≤ c.toNat

/-- A part of the field that must be zero is not (status 1). -/
def VRole.resv (r : VRole) (c : BitVec 8) : Bool :=
  match r with
  | .unused => c.toNat != 0
  | .scalar => 64 ≤ c.toNat
  | .port => 8 ≤ c.toNat
  | .cond | .tt | .opn => 16 ≤ c.toNat
  | .bes => 4 ≤ c.toNat
  | _ => false

/-- The field names something outside the defined set (status 2). -/
def VRole.oper (r : VRole) (c : BitVec 8) : Bool :=
  match r with
  | .dst => !(isO c || isV c || isWritePort c || isFifo c)
  | .src => !(isO c || isReadPort c || isFifo c)
  | .srcV => !(isO c || isV c || isReadPort c || isFifo c)
  | .oReg => !isO c
  | .oFifo => !(isO c || isFifo c)
  | .quire | .mask => 8 ≤ c.toNat
  | _ => false

/-- The field may carry a last-use bit: it names an o or v register read as a source (R81, R160). -/
def VRole.lastUse (r : VRole) (c : BitVec 8) : Bool :=
  match r with
  | .src | .oFifo | .oReg => isO c
  | .srcV => isO c || isV c
  | _ => false

/-- OPN, R189: 0 add, 1 min, 2 max, 3 and, 4 or, 5 xor. -/
def opnOf (f : VF) : Nat := f.vc.toNat % 8
/-- Q, R189. -/
def qBit (f : VF) : Bool := f.vc.getLsbD 3
/-- XD, XS, DES and DTY of vcvt, R196. -/
def cvtXD (f : VF) : Bool := f.vc.getLsbD 7
/-- XS of R196. -/
def cvtXS (f : VF) : Bool := f.vc.getLsbD 6
/-- DES of R196. -/
def cvtDes (f : VF) : Nat := f.vc.toNat / 16 % 4
/-- DTY of R196. -/
def cvtDty (f : VF) : Nat := f.vc.toNat % 16

/-- The checks of vcvt's own fields (R196). -/
def cvtChecks (f : VF) : List (Bool × Reject) :=
  let ty := f.ty.toNat
  let sT := !cvtXS f && tyIsT ty
  let dT := !cvtXD f && tyIsT (cvtDty f)
  let ii := !cvtXS f && !cvtXD f && tyIsI ty && tyIsI (cvtDty f)
  [(!sT && f.es.toNat != 0, .reserved), (!dT && cvtDes f != 0, .reserved),
   (dT && f.rm.toNat != 0, .reserved), (f.sat && !ii, .reserved),
   (cvtXS f && 6 ≤ ty, .operand), (cvtXD f && 6 ≤ cvtDty f, .operand),
   (!cvtXS f && 12 ≤ ty, .operand), (!cvtXD f && 12 ≤ cvtDty f, .operand),
   (sT && ty == 8 && f.es.toNat == 3, .operand), (dT && cvtDty f == 8 && cvtDes f == 3, .operand)]

/-- The checks of a compare condition (R173). -/
def condChecks (f : VF) : List (Bool × Reject) :=
  let c := f.vc.toNat
  [(5 < c && c != 10 && c != 11, .operand), (5 < c && !tyIsF f.ty.toNat, .operand)]

/-- The checks of a reduction's operation (R189). -/
def opnChecks (f : VF) : List (Bool × Reject) :=
  let ty := f.ty.toNat
  [(qBit f && !(opnOf f == 0 && tyIsF ty), .reserved), (5 < opnOf f, .operand),
   (3 ≤ opnOf f && !tyIsI ty, .operand)]

/-- SAT is set where the row forbids it. -/
def SatRule.bad (r : SatRule) (f : VF) : Bool :=
  f.sat && !(match r with
    | .no => false
    | .int => tyIsI f.ty.toNat
    | .signed => tyIsS f.ty.toNat
    | .add => tyIsI f.ty.toNat && opnOf f == 0
    | .cvt => true)

/-- The checks of one vector instruction against its row. -/
def VRow.checks (r : VRow) (f : VF) : List (Bool × Reject) :=
  let ty := f.ty.toNat
  let rmOk := r.rm && tyIsF ty && (r.vc != .opn || opnOf f == 0)
  [(r.vd.resv f.vd, .reserved), (r.va.resv f.va, .reserved), (r.vb.resv f.vb, .reserved),
   (r.vc.resv f.vc, .reserved),
   (f.lua && !r.va.lastUse f.va, .reserved), (f.lub && !r.vb.lastUse f.vb, .reserved),
   (f.luc && !r.vc.lastUse f.vc, .reserved),
   (r.rows == .zero && f.rows.toNat != 0, .reserved),
   (r.mask != .yes && f.ke, .reserved), (r.mask == .no && f.km.toNat != 0, .reserved),
   (!r.lu && (f.lua || f.lub || f.luc), .reserved),
   (r.tys == tys0 && ty != 0, .reserved),
   (r.vc != .cvt && f.es.toNat != 0 && !(r.es && tyIsT ty), .reserved),
   (r.vc != .cvt && f.rm.toNat != 0 && !rmOk, .reserved),
   (r.sat.bad f, .reserved), ((f.na || f.nc) && !r.neg, .reserved)] ++
  (if r.vc = .cvt then cvtChecks f else []) ++
  (if r.vc = .opn then opnChecks f else []) ++
  [(r.vc != .cvt && r.tys != tys0 && !r.tys.testBit ty, .operand),
   (r.vc != .cvt && ty == 8 && f.es.toNat == 3, .operand),
   (r.vc == .bes && ty == 8 && f.vc.toNat == 3, .operand),
   (r.rows == .full && f.rows.toNat != 15, .operand),
   (r.vd.oper f.vd, .operand), (r.va.oper f.va, .operand), (r.vb.oper f.vb, .operand),
   (r.vc.oper f.vc, .operand)] ++
  (if r.vc = .cond then condChecks f else [])

/-- A row of the arithmetic instructions: destination D, first source S, a mask. -/
def VRow.ew (vb vc : VRole) (tys : TySet) (es rm : Bool) (sat : SatRule) (neg : Bool) : VRow :=
  ⟨.dst, .src, vb, vc, tys, .any, .yes, es, rm, sat, neg, true⟩

/-- A row of an instruction that uses no rounding, saturation or negation field. -/
def VRow.plain (vd va vb vc : VRole) (tys : TySet) (rows : RowRule) (mask : MaskRule) : VRow :=
  ⟨vd, va, vb, vc, tys, rows, mask, false, false, .no, false, true⟩

/-- A row of a quire instruction (R200): no last-use bits. -/
def VRow.qr (vd va vb vc : VRole) (tys : TySet) (rows : RowRule) (mask : MaskRule) (es rm : Bool) : VRow :=
  ⟨vd, va, vb, vc, tys, rows, mask, es, rm, .no, false, false⟩

/-- The rows of add, subtract and multiply (R169). -/
def VRow.arith : VRow := .ew .src .unused tysAny true true .int false
/-- The rows of the bitwise instructions (R169). -/
def VRow.bits : VRow := .plain .dst .src .src .unused tysAny .any .yes
/-- The rows of rotate and broadcast (R185). -/
def VRow.rot : VRow := .plain .dst .src .scalar .unused tysAny .any .yes
/-- The rows of reductions and scans (R185). -/
def VRow.red : VRow := .ew .unused .opn tysAny true true .add false
/-- The rows of the one-operand special functions (R185). -/
def VRow.fn : VRow := .ew .unused .unused (tysT + tysF) true true .no false

/-- The field row of a vector or quire instruction, with its fields (R169, R185, R200). -/
def Instr.vrow : Instr → Option (VRow × VF)
  | .vadd f => some (.arith, f)
  | .vsub f => some (.arith, f)
  | .vmul f => some (.arith, f)
  | .vmulh f => some (.ew .src .unused tysI false false .no false, f)
  | .vfma f => some (.ew .src .src tysAny true true .int true, f)
  | .vmin f => some (.ew .src .unused tysAny true false .no false, f)
  | .vmax f => some (.ew .src .unused tysAny true false .no false, f)
  | .vabs f => some (.ew .unused .unused tysAny true false .signed false, f)
  | .vneg f => some (.ew .unused .unused tysAny true false .int false, f)
  | .vand f => some (.bits, f)
  | .vor f => some (.bits, f)
  | .vxor f => some (.bits, f)
  | .vandn f => some (.bits, f)
  | .vshl f => some (.ew .src .unused tysI false false .int false, f)
  | .vshr f => some (.ew .src .unused tysI false false .no false, f)
  | .vsar f => some (.ew .src .unused tysI false false .no false, f)
  | .vcmp f => some (⟨.mask, .src, .src, .cond, tysAny, .any, .yes, true, false, .no, false, true⟩, f)
  | .vsel f => some (.plain .dst .src .src .unused tysAny .any .sel, f)
  | .vclz f => some (.ew .unused .unused tysI false false .no false, f)
  | .vpopc f => some (.ew .unused .unused tysI false false .no false, f)
  | .vcrc f => some (.plain .dst .src .src .unused tys0 .any .no, f)
  | .vmov f => some (.plain .dst .srcV .unused .unused tysAny .any .yes, f)
  | .klog f => some (.plain .mask .mask .mask .tt tys0 .any .no, f)
  | .vsplat f => some (.plain .dst .scalar .unused .unused tysAny .any .yes, f)
  | .vext f => some (.plain .scalar .oReg .scalar .unused tysAny .zero .no, f)
  | .vins f => some (.plain .oReg .scalar .scalar .unused tysAny .zero .no, f)
  | .vld f => some (.plain .dst .scalar .unused .unused tysAny .any .yes, f)
  | .vst f => some (.plain .unused .scalar .src .unused tysAny .any .yes, f)
  | .vgather f => some (.plain .dst .scalar .src .unused tys32 .any .yes, f)
  | .vscatter f => some (.plain .unused .scalar .src .src tys32 .any .yes, f)
  | .gset f => some (.plain .unused .oFifo .unused .port tys0 .zero .no, f)
  | .greset f => some (.plain .unused .unused .unused .portMask tys0 .zero .no, f)
  | .vrotr f => some (.rot, f)
  | .vrotc f => some (.rot, f)
  | .vbcr f => some (.rot, f)
  | .vbcc f => some (.rot, f)
  | .vredr f => some (.red, f)
  | .vredc f => some (.red, f)
  | .vscanR f => some (.red, f)
  | .vscanC f => some (.red, f)
  | .vtrn f => some (.plain .dst .src .unused .unused tysAny .full .no, f)
  | .vshfr f => some (.bits, f)
  | .vtopk f => some (⟨.dst, .src, .src, .scalar, tys32, .any, .yes, true, false, .no, false, true⟩, f)
  | .vcvt f => some (⟨.dst, .src, .unused, .cvt, tysAny, .any, .yes, true, true, .cvt, false, true⟩, f)
  | .vrcp f => some (.fn, f)
  | .vrsq f => some (.fn, f)
  | .vsqrt f => some (.fn, f)
  | .vdiv f => some (.ew .src .unused (tysT + tysF) true true .no false, f)
  | .vexp2 f => some (.fn, f)
  | .vlog2 f => some (.fn, f)
  | .vexp f => some (.fn, f)
  | .vlog f => some (.fn, f)
  | .vtanh f => some (.fn, f)
  | .vsig f => some (.fn, f)
  | .vsin f => some (.fn, f)
  | .vcos f => some (.fn, f)
  | .qclr f => some (.qr .quire .unused .unused .unused tys0 .zero .no false false, f)
  | .qadd f => some (.qr .quire .src .unused .unused (tysT + tysF) .any .yes true false, f)
  | .qsub f => some (.qr .quire .src .unused .unused (tysT + tysF) .any .yes true false, f)
  | .qdot f => some (.qr .quire .src .src .bes tysT .any .yes true false, f)
  | .qaddq f => some (.qr .quire .quire .quire .unused tys0 .zero .no false false, f)
  | .qsubq f => some (.qr .quire .quire .quire .unused tys0 .zero .no false false, f)
  | .qneg f => some (.qr .quire .quire .unused .unused tys0 .zero .no false false, f)
  | .qrnd f => some (.qr .scalar .quire .unused .unused (tysT + tysF) .zero .no true true, f)
  | .qsave f => some (.qr .unused .scalar .quire .unused tys0 .zero .no false false, f)
  | .qload f => some (.qr .quire .scalar .unused .unused tys0 .zero .no false false, f)
  | .qtov f => some (.qr .dst .quire .unused .unused tys0 .zero .no false false, f)
  | .vtoq f => some (.qr .quire .src .unused .unused tys0 .zero .no false false, f)
  | _ => none

/-! ## Scalar fields (R78, R84 and the entries of R92 to R111, R327) -/

/-- A literal stands beside a non-zero replaced field (R78). -/
def litBad (lit : Option (BitVec 31)) (field : Nat) : Bool := lit.isSome && field != 0

/-- The checks of an SR instruction with two sources. -/
def SR.checks (f : SR) : List (Bool × Reject) := [(litBad f.lit f.sb.toNat, .reserved)]
/-- The checks of clz, ctz and popc: SB and X are 0 (R92). -/
def SR.checks1 (f : SR) : List (Bool × Reject) :=
  [(f.sb.toNat != 0, .reserved), (f.lit.isSome, .extension)]
/-- The checks of movi and movhi. -/
def SL.checks (f : SL) : List (Bool × Reject) := [(litBad f.lit f.imm.toNat, .reserved)]
/-- The checks of an SF instruction: CV only on fcvt (R78), RM and SB where they are used (R102). -/
def SF.checks (f : SF) (rounds readsB cvt : Bool) : List (Bool × Reject) :=
  [(!rounds && f.rm.toNat != 0, .reserved), (!readsB && f.sb.toNat != 0, .reserved),
   (!cvt && f.cv.toNat != 0, .reserved)]

/-- A MOVSYS selector of R109. -/
def sysSel (n : Nat) : Bool := n < 0x00F || (0x010 ≤ n && n < 0x013)
/-- A MOVCTL selector of R110 and R428. -/
def ctlSel (n : Nat) : Bool :=
  n < 5 || (0x100 ≤ n && n < 0x103) || (0x108 ≤ n && n < 0x111) || (0x118 ≤ n && n < 0x11C)
/-- A staging index that exists (R75). -/
def stgBad (f : SG) : Bool := 2 ≤ f.eng.toNat && 8 ≤ f.idx.toNat

/-- The checks of a scalar instruction, in the order reserved, operand, extension (R65). -/
def Instr.scalarChecks : Instr → List (Bool × Reject)
  | .add f | .sub f | .mul f | .mulh f | .mulhz f | .div f | .divz f | .rem f | .remz f
  | .and f | .or f | .xor f | .andn f | .shl f | .shr f | .sar f | .rotl f
  | .min f | .max f | .minz f | .maxz f | .addsh f | .sel f => f.checks
  | .clz f | .ctz f | .popc f => f.checks1
  | .movi f | .movhi f => f.checks
  | .cmp f => [(litBad f.lit f.sb.toNat, .reserved), (f.fm, .reserved), (9 < f.cond.toNat, .operand)]
  | .fcmp f => [(5 < f.cond.toNat && f.cond.toNat != 10 && f.cond.toNat != 11, .operand),
      (f.lit.isSome, .extension)]
  | .ld f => [(f.sz.toNat == 7, .operand)]
  | .st f => [(4 ≤ f.sz.toNat, .operand)]
  | .fadd f | .fsub f | .fmul f | .fma f | .fdiv f => f.checks true true false
  | .fsqrt f => f.checks true false false
  | .fmin f | .fmax f => f.checks false true false
  | .fcvt f => f.checks true false true
  | .fclass f => f.checks false false false
  | .fchk f => f.checks false false false ++ [(f.sd.toNat != 0, .reserved), (f.fm, .reserved)]
  | .movsys f => [(!sysSel f.sel.toNat, .operand)]
  | .movctlRead f => [(!ctlSel f.sel.toNat, .operand)]
  | .movctlWrite f => [(!ctlSel f.sel.toNat || f.sel.toNat == 4, .operand)]
  | .movstg f => [(litBad f.lit f.sd.toNat, .reserved), (f.set, .reserved), (stgBad f, .operand)]
  | .rdstg f => [(stgBad f, .operand), (f.lit.isSome, .extension)]
  | _ => []

/-! ## Command headers (R210 to R234, R306 to R347) -/

/-- The checks of quant and dequant (R230). -/
def QuantF.checks (f : QuantF) (deq : Bool) : List (Bool × Reject) :=
  [(deq && tyIsT f.f2.toNat && f.rm.toNat != 0, .reserved), (8 ≤ f.f1.toNat, .operand),
   (f.f2.toNat < 6 || 11 < f.f2.toNat, .operand)]

/-- The checks of a command header. -/
def Instr.headerChecks : Instr → List (Bool × Reject)
  | .mma f => [(f.fmt.toNat != 0 && (f.asg || f.bsg || f.rs || f.mode.toNat != 0), .reserved),
      (7 ≤ f.fmt.toNat, .operand), (f.mode.toNat == 3, .operand)]
  | .mzero f => [(!f.blk && (f.bank.toNat != 0 || f.q), .reserved)]
  | .mdrain f => [(f.rm.toNat != 0 && f.ofmt.toNat < 7, .reserved), (f.zc && f.qs, .reserved),
      (10 ≤ f.ofmt.toNat, .operand), (f.qs && f.ofmt.toNat < 4, .operand)]
  | .mload f => [(3 ≤ f.xf.toNat, .operand)]
  | .mstore f => [(3 ≤ f.xf.toNat || f.xf.toNat == 0, .operand)]
  | .copy f => [(!f.sp && f.ew.toNat != 0, .reserved), (f.sp && f.dim.toNat == 3, .operand),
      (f.ew.toNat == 3, .operand)]
  | .quant f => f.checks false
  | .dequant f => f.checks true
  | .xcfg f => [(8 ≤ f.xop.toNat, .operand),
      (2 ≤ f.vt.toNat || (f.xop.toNat == 6 && f.vt.toNat != 0), .operand)]
  | _ => []

/-! ## Control syllables (R82 and the entries of the B instructions) -/

/-- The checks of a B syllable: IMM beyond what exists (R446 status 2). -/
def Instr.controlChecks : Instr → List (Bool × Reject)
  | .loop _ n | .loopRot _ n | .loopw _ _ n => [(64 ≤ n.toNat, .operand)]
  | .balloc _ q n => [(n.toNat == 0 || 64 < n.toNat || (q && n.toNat % 8 != 0), .operand)]
  | .bfree _ n => [(n.toNat == 0 || 64 < n.toNat, .operand)]
  | .launch _ _ n | .ttstart _ _ n | .sclose n => [(16 ≤ n.toNat, .operand)]
  | .barcfg _ n | .bar n | .barw n | .bartst _ n => [(48 ≤ n.toNat, .operand)]
  | .semw _ n | .semsig _ n | .semset _ n | .rngset _ _ n | .rngclr _ n => [(64 ≤ n.toNat, .operand)]
  | .fence n => [(8 ≤ n.toNat, .operand)]
  | .eretCtx _ n => [(2 ≤ n.toNat, .operand)]
  | _ => []

/-- Every check of one instruction. -/
def Instr.checks (i : Instr) : List (Bool × Reject) :=
  match i.vrow with
  | some (r, f) => r.checks f
  | none => i.scalarChecks ++ i.headerChecks ++ i.controlChecks

/-- The status with which an instruction is an illegal encoding, none where it is legal (R65). -/
def Instr.check (i : Instr) : Option Reject := firstBad i.checks

/-- The slot class of an instruction. -/
inductive SlotClass where
  | s | v | m | c | e | b
  deriving DecidableEq, Repr

/-- The class of a slot instruction; none for the machine's own steps (R84 to R87). -/
def Instr.slotClass : Instr → Option SlotClass
  | .add .. | .sub .. | .mul .. | .mulh .. | .mulhz .. | .div .. | .divz .. | .rem .. | .remz ..
  | .and .. | .or .. | .xor .. | .andn .. | .shl .. | .shr .. | .sar .. | .rotl .. | .clz ..
  | .ctz .. | .popc .. | .min .. | .max .. | .minz .. | .maxz .. | .addsh .. | .sel .. | .addi ..
  | .movi .. | .movhi .. | .cmp .. | .pset .. | .plog .. | .ld .. | .st .. | .fadd .. | .fsub ..
  | .fmul .. | .fma .. | .fdiv .. | .fsqrt .. | .fmin .. | .fmax .. | .fcmp .. | .fcvt ..
  | .fclass .. | .fchk .. | .movsys .. | .movctlRead .. | .movctlWrite .. | .movstg .. | .rdstg ..
  | .rst .. | .rstf .. | .rld .. => some .s
  | .vadd .. | .vsub .. | .vmul .. | .vmulh .. | .vfma .. | .vmin .. | .vmax .. | .vabs ..
  | .vneg .. | .vand .. | .vor .. | .vxor .. | .vandn .. | .vshl .. | .vshr .. | .vsar ..
  | .vcmp .. | .vsel .. | .vclz .. | .vpopc .. | .vcrc .. | .vmov .. | .klog .. | .vsplat ..
  | .vext .. | .vins .. | .vld .. | .vst .. | .vgather .. | .vscatter .. | .gset .. | .greset ..
  | .vrotr .. | .vrotc .. | .vbcr .. | .vbcc .. | .vredr .. | .vredc .. | .vscanR .. | .vscanC ..
  | .vtrn .. | .vshfr .. | .vtopk .. | .vcvt .. | .vrcp .. | .vrsq .. | .vsqrt .. | .vdiv ..
  | .vexp2 .. | .vlog2 .. | .vexp .. | .vlog .. | .vtanh .. | .vsig .. | .vsin .. | .vcos ..
  | .qclr .. | .qadd .. | .qsub .. | .qdot .. | .qaddq .. | .qsubq .. | .qneg .. | .qrnd ..
  | .qsave .. | .qload .. | .qtov .. | .vtoq .. => some .v
  | .mma .. | .mzero .. | .mdrain .. | .mload .. | .mstore .. => some .m
  | .copy .. | .bufset .. | .bufsetOff .. | .publish .. => some .c
  | .quant .. | .dequant .. | .sqld .. | .sqclr .. | .xpush .. | .xfetch .. | .xflush .. | .xcfg .. => some .e
  | .br .. | .brc .. | .call .. | .ret .. | .jmpr .. | .loop .. | .loopRot .. | .loopw ..
  | .yield .. | .exit .. | .allot .. | .shrink .. | .balloc .. | .bfree .. | .vpark ..
  | .vunpark .. | .mlease .. | .mrelease .. | .launch .. | .barcfg .. | .bar .. | .barw ..
  | .bartst .. | .hadv .. | .ttstart .. | .waitany .. | .waitall .. | .ffr .. | .tagclr ..
  | .semw .. | .semsig .. | .semset .. | .sclose .. | .fence .. | .rngset .. | .rngclr ..
  | .tlbinv .. | .tlbinva .. | .tlbinvaAll .. | .trap .. | .eret .. | .eretCtx .. | .ctxsave ..
  | .ctxload .. | .jmark .. | .jflush .. => some .b
  | _ => none

/-- An instruction that a bundle may hold: a slot instruction with no violated check. -/
def Instr.wf (i : Instr) : Bool := i.slotClass.isSome && i.check.isNone

end Sys2Proof
end

