-- ==== Sys2Proof/Decode.lean ====
section
/-! DEFINITION. The decoder and the encoder of the syllables of R45 to R49, R78 to R87, and of whole bundles. -/

namespace Sys2Proof

/-! ## Fields of the scalar formats (R78), in bits 23:1 of the syllable -/

/-- Format SR, read from its bits. -/
def SR.dec (p : BitVec 23) (l : Option (BitVec 31)) : SR :=
  ⟨p.extractLsb' 17 6, p.extractLsb' 11 6, p.extractLsb' 5 6, p.extractLsb' 1 4, p.getLsbD 0, l⟩
/-- Format SR, as bits. -/
def SR.enc (f : SR) : BitVec 23 :=
  f.sd ++ f.sa ++ f.sb ++ f.pg ++ BitVec.ofBool f.pn
/-- Format SI, read from its bits. -/
def SI.dec (p : BitVec 23) : SI :=
  ⟨p.extractLsb' 17 6, p.extractLsb' 11 6, p.extractLsb' 5 6, p.extractLsb' 1 4, p.getLsbD 0⟩
/-- Format SI, as bits. -/
def SI.enc (f : SI) : BitVec 23 :=
  f.sd ++ f.sa ++ f.imm ++ f.pg ++ BitVec.ofBool f.pn
/-- Format SL, read from its bits. -/
def SL.dec (p : BitVec 23) (l : Option (BitVec 31)) : SL :=
  ⟨p.extractLsb' 17 6, p.extractLsb' 5 12, p.extractLsb' 1 4, p.getLsbD 0, l⟩
/-- Format SL, as bits. -/
def SL.enc (f : SL) : BitVec 23 :=
  f.sd ++ f.imm ++ f.pg ++ BitVec.ofBool f.pn
/-- Format SM, read from its bits. -/
def SM.dec (p : BitVec 23) (l : Option (BitVec 31)) : SM :=
  ⟨p.extractLsb' 17 6, p.extractLsb' 11 6, p.extractLsb' 8 3, p.extractLsb' 1 4, p.getLsbD 0, l⟩
/-- Format SM, as bits. -/
def SM.enc (f : SM) : BitVec 23 :=
  f.sd ++ f.sa ++ f.sz ++ 0#3 ++ f.pg ++ BitVec.ofBool f.pn
/-- Format SC, read from its bits. -/
def SC.dec (p : BitVec 23) (l : Option (BitVec 31)) : SC :=
  ⟨p.extractLsb' 19 4, p.extractLsb' 13 6, p.extractLsb' 7 6, p.extractLsb' 3 4, p.getLsbD 2, l⟩
/-- Format SC, as bits. -/
def SC.enc (f : SC) : BitVec 23 :=
  f.pd ++ f.sa ++ f.sb ++ f.cond ++ BitVec.ofBool f.fm ++ 0#2
/-- Format SQ, read from its bits. -/
def SQ.dec (p : BitVec 23) : SQ :=
  ⟨p.extractLsb' 19 4, p.extractLsb' 13 6, p.extractLsb' 7 6⟩
/-- Format SQ, as bits. -/
def SQ.enc (f : SQ) : BitVec 23 :=
  f.pd ++ f.sa ++ f.bit ++ 0#7
/-- Format SP, read from its bits. -/
def SP.dec (p : BitVec 23) : SP :=
  ⟨p.extractLsb' 19 4, p.extractLsb' 15 4, p.extractLsb' 11 4, p.extractLsb' 7 4⟩
/-- Format SP, as bits. -/
def SP.enc (f : SP) : BitVec 23 :=
  f.pd ++ f.pa ++ f.pb ++ f.tt ++ 0#7
/-- Format SF, read from its bits. -/
def SF.dec (p : BitVec 23) : SF :=
  ⟨p.extractLsb' 17 6, p.extractLsb' 11 6, p.extractLsb' 5 6, p.extractLsb' 3 2, p.getLsbD 2, p.extractLsb' 0 2⟩
/-- Format SF, as bits. -/
def SF.enc (f : SF) : BitVec 23 :=
  f.sd ++ f.sa ++ f.sb ++ f.rm ++ BitVec.ofBool f.fm ++ f.cv
/-- Format SS, read from its bits. -/
def SS.dec (p : BitVec 23) : SS :=
  ⟨p.extractLsb' 17 6, p.extractLsb' 5 12, p.extractLsb' 1 4, p.getLsbD 0⟩
/-- Format SS, as bits. -/
def SS.enc (f : SS) : BitVec 23 :=
  f.sd ++ f.sel ++ f.pg ++ BitVec.ofBool f.pn
/-- Format SG, read from its bits. -/
def SG.dec (p : BitVec 23) (l : Option (BitVec 31)) : SG :=
  ⟨p.extractLsb' 17 6, p.extractLsb' 15 2, p.extractLsb' 11 4, p.getLsbD 10, p.extractLsb' 1 4, p.getLsbD 0, l⟩
/-- Format SG, as bits. -/
def SG.enc (f : SG) : BitVec 23 :=
  f.sd ++ f.eng ++ f.idx ++ BitVec.ofBool f.set ++ 0#5 ++ f.pg ++ BitVec.ofBool f.pn
/-- Format ST, read from its bits. -/
def ST.dec (p : BitVec 23) : ST :=
  ⟨p.extractLsb' 17 6, p.extractLsb' 11 6, p.extractLsb' 7 4, p.extractLsb' 5 2, p.extractLsb' 1 4, p.getLsbD 0⟩
/-- Format ST, as bits. -/
def ST.enc (f : ST) : BitVec 23 :=
  f.sd ++ f.sa ++ f.stm ++ f.rz ++ f.pg ++ BitVec.ofBool f.pn
/-- Format STF, read from its bits. -/
def STF.dec (p : BitVec 23) : STF :=
  ⟨p.extractLsb' 17 6, p.extractLsb' 11 6, p.extractLsb' 7 4, p.extractLsb' 1 6, p.getLsbD 0⟩
/-- Format STF, as bits. -/
def STF.enc (f : STF) : BitVec 23 :=
  f.sd ++ f.sa ++ f.stm ++ f.sem ++ BitVec.ofBool f.cl

/-! ## Fields of the command headers (R60), in bits 24:1 of the syllable -/

/-- Header MmaF, read from its bits. -/
def MmaF.dec (p : BitVec 24) : MmaF :=
  ⟨p.extractLsb' 20 4, p.getLsbD 19, p.getLsbD 18, p.extractLsb' 16 2, p.getLsbD 15, p.getLsbD 14, p.getLsbD 0⟩
/-- Header MmaF, as bits. -/
def MmaF.enc (f : MmaF) : BitVec 24 :=
  f.fmt ++ BitVec.ofBool f.asg ++ BitVec.ofBool f.bsg ++ f.mode ++ BitVec.ofBool f.rs ++ BitVec.ofBool f.zi ++ 0#13 ++ BitVec.ofBool f.setx
/-- Header MzeroF, read from its bits. -/
def MzeroF.dec (p : BitVec 24) : MzeroF :=
  ⟨p.extractLsb' 18 6, p.getLsbD 17, p.getLsbD 16, p.getLsbD 15, p.getLsbD 14⟩
/-- Header MzeroF, as bits. -/
def MzeroF.enc (f : MzeroF) : BitVec 24 :=
  f.bank ++ BitVec.ofBool f.q ++ BitVec.ofBool f.blk ++ BitVec.ofBool f.rsc ++ BitVec.ofBool f.msc ++ 0#14
/-- Header MdrainF, read from its bits. -/
def MdrainF.dec (p : BitVec 24) : MdrainF :=
  ⟨p.extractLsb' 20 4, p.extractLsb' 18 2, p.getLsbD 17, p.getLsbD 16, p.extractLsb' 10 6, p.getLsbD 9, p.getLsbD 0⟩
/-- Header MdrainF, as bits. -/
def MdrainF.enc (f : MdrainF) : BitVec 24 :=
  f.ofmt ++ f.rm ++ BitVec.ofBool f.zc ++ BitVec.ofBool f.clr ++ f.tag ++ BitVec.ofBool f.qs ++ 0#8 ++ BitVec.ofBool f.setx
/-- Header MlsF, read from its bits. -/
def MlsF.dec (p : BitVec 24) : MlsF :=
  ⟨p.extractLsb' 20 4, p.extractLsb' 10 6, p.getLsbD 0⟩
/-- Header MlsF, as bits. -/
def MlsF.enc (f : MlsF) : BitVec 24 :=
  f.xf ++ 0#4 ++ f.tag ++ 0#9 ++ BitVec.ofBool f.setx
/-- Header CopyF, read from its bits. -/
def CopyF.dec (p : BitVec 24) : CopyF :=
  ⟨p.extractLsb' 22 2, p.getLsbD 21, p.extractLsb' 15 6, p.extractLsb' 11 4, p.extractLsb' 9 2, p.getLsbD 0⟩
/-- Header CopyF, as bits. -/
def CopyF.enc (f : CopyF) : BitVec 24 :=
  f.dim ++ BitVec.ofBool f.sp ++ f.tag ++ f.stm ++ f.ew ++ 0#8 ++ BitVec.ofBool f.setx
/-- Header BufF, read from its bits. -/
def BufF.dec (p : BitVec 24) : BufF :=
  ⟨p.extractLsb' 19 5, p.extractLsb' 12 6, p.getLsbD 0⟩
/-- Header BufF, as bits. -/
def BufF.enc (f : BufF) (en : Bool) : BitVec 24 :=
  f.buf ++ BitVec.ofBool en ++ f.tag ++ 0#11 ++ BitVec.ofBool f.setx
/-- Header PubF, read from its bits. -/
def PubF.dec (p : BitVec 24) : PubF :=
  ⟨p.extractLsb' 19 5, p.extractLsb' 16 3, p.extractLsb' 10 6⟩
/-- Header PubF, as bits. -/
def PubF.enc (f : PubF) : BitVec 24 :=
  f.buf ++ f.scope ++ f.tag ++ 0#10
/-- Header QuantF, read from its bits. -/
def QuantF.dec (p : BitVec 24) : QuantF :=
  ⟨p.extractLsb' 20 4, p.extractLsb' 16 4, p.extractLsb' 14 2, p.extractLsb' 8 6, p.getLsbD 0⟩
/-- Header QuantF, as bits. -/
def QuantF.enc (f : QuantF) : BitVec 24 :=
  f.f1 ++ f.f2 ++ f.rm ++ f.tag ++ 0#7 ++ BitVec.ofBool f.setx
/-- Header SqldF, read from its bits. -/
def SqldF.dec (p : BitVec 24) : SqldF :=
  ⟨p.getLsbD 23, p.extractLsb' 17 6, p.getLsbD 0⟩
/-- Header SqldF, as bits. -/
def SqldF.enc (f : SqldF) : BitVec 24 :=
  BitVec.ofBool f.qsel ++ f.nm1 ++ 0#16 ++ BitVec.ofBool f.setx
/-- Header SqclrF, read from its bits. -/
def SqclrF.dec (p : BitVec 24) : SqclrF :=
  ⟨p.getLsbD 23, p.getLsbD 22⟩
/-- Header SqclrF, as bits. -/
def SqclrF.enc (f : SqclrF) : BitVec 24 :=
  BitVec.ofBool f.ca ++ BitVec.ofBool f.cb ++ 0#22
/-- Header XpF, read from its bits. -/
def XpF.dec (p : BitVec 24) : XpF :=
  ⟨p.extractLsb' 21 3, p.extractLsb' 18 3, p.extractLsb' 14 4, p.getLsbD 13, p.extractLsb' 10 3⟩
/-- Header XpF, as bits. -/
def XpF.enc (f : XpF) : BitVec 24 :=
  f.ix ++ f.vx ++ f.rm1 ++ BitVec.ofBool f.ke ++ f.km ++ 0#10
/-- Header XcfgF, read from its bits. -/
def XcfgF.dec (p : BitVec 24) : XcfgF :=
  ⟨p.extractLsb' 20 4, p.extractLsb' 18 2, p.extractLsb' 16 2, p.getLsbD 0⟩
/-- Header XcfgF, as bits. -/
def XcfgF.enc (f : XcfgF) : BitVec 24 :=
  f.xop ++ f.vt ++ f.es ++ 0#15 ++ BitVec.ofBool f.setx

/-! ## Scalar syllables (R84) -/

/-- The literal of a literal syllable (R49). -/
def litOf (w : Syl) : BitVec 31 := w.extractLsb' 1 31

/-- The scalar opcode and its payload, with the bits that its format reserves (R78, R84). -/
def scalarOf (op : Nat) (p : BitVec 23) (l : Option (BitVec 31)) : Option (BitVec 23 × Instr) :=
  match op with
  | 0 => some (0, .add (.dec p l))
  | 1 => some (0, .sub (.dec p l))
  | 2 => some (0, .mul (.dec p l))
  | 3 => some (0, .mulh (.dec p l))
  | 4 => some (0, .mulhz (.dec p l))
  | 5 => some (0, .div (.dec p l))
  | 6 => some (0, .divz (.dec p l))
  | 7 => some (0, .rem (.dec p l))
  | 8 => some (0, .remz (.dec p l))
  | 9 => some (0, .and (.dec p l))
  | 10 => some (0, .or (.dec p l))
  | 11 => some (0, .xor (.dec p l))
  | 12 => some (0, .andn (.dec p l))
  | 13 => some (0, .shl (.dec p l))
  | 14 => some (0, .shr (.dec p l))
  | 15 => some (0, .sar (.dec p l))
  | 16 => some (0, .rotl (.dec p l))
  | 17 => some (0, .clz (.dec p l))
  | 18 => some (0, .ctz (.dec p l))
  | 19 => some (0, .popc (.dec p l))
  | 20 => some (0, .min (.dec p l))
  | 21 => some (0, .max (.dec p l))
  | 22 => some (0, .minz (.dec p l))
  | 23 => some (0, .maxz (.dec p l))
  | 24 => some (0, .addsh (.dec p l))
  | 25 => some (0, .sel (.dec p l))
  | 32 => some (0, .addi (.dec p))
  | 33 => some (0, .movi (.dec p l))
  | 34 => some (0, .movhi (.dec p l))
  | 40 => some (3, .cmp (.dec p l))
  | 41 => some (127, .pset (.dec p))
  | 42 => some (127, .plog (.dec p))
  | 48 => some (224, .ld (.dec p l))
  | 49 => some (224, .st (.dec p l))
  | 56 => some (0, .fadd (.dec p))
  | 57 => some (0, .fsub (.dec p))
  | 58 => some (0, .fmul (.dec p))
  | 59 => some (0, .fma (.dec p))
  | 60 => some (0, .fdiv (.dec p))
  | 61 => some (0, .fsqrt (.dec p))
  | 62 => some (0, .fmin (.dec p))
  | 63 => some (0, .fmax (.dec p))
  | 64 => some (3, .fcmp (.dec p l))
  | 65 => some (0, .fcvt (.dec p))
  | 66 => some (0, .fclass (.dec p))
  | 67 => some (0, .fchk (.dec p))
  | 72 => some (0, .movsys (.dec p))
  | 73 => some (0, .movctlRead (.dec p))
  | 74 => some (0, .movctlWrite (.dec p))
  | 75 => some (992, .movstg (.dec p l))
  | 76 => some (992, .rdstg (.dec p l))
  | 80 => some (0, .rst (.dec p))
  | 81 => some (0, .rstf (.dec p))
  | 82 => some (0, .rld (.dec p))
  | _ => none

/-- The format of a scalar opcode has a literal (R78). -/
def takesLit (op : Nat) : Bool :=
  op < 0x1A || op == 0x21 || op == 0x22 || op == 0x28 || op == 0x30 || op == 0x31 || op == 0x40 ||
  op == 0x4B || op == 0x4C

/-- An instruction that passes its own checks, or the status of the illegal encoding. -/
def checked (i : Instr) : Except Reject Instr :=
  match i.check with
  | none => .ok i
  | some r => .error r

/-- A scalar syllable with its literal syllable, if its extension bit is set (R46, R78). -/
def decodeS (w : Syl) (l : Syl) : Except Reject Instr :=
  let x := w.getLsbD 24
  match scalarOf (w.extractLsb' 25 7).toNat (w.extractLsb' 1 23) (if x then some (litOf l) else none) with
  | none => .error .opcode
  | some (resv, i) =>
    if w.extractLsb' 1 23 &&& resv != 0 then .error .reserved
    else match checked i with
      | .error r => .error r
      | .ok i => if x && !takesLit (w.extractLsb' 25 7).toNat then .error .extension else .ok i

/-! ## Vector syllables (R81, R85) -/

/-- The fields of a V-head and a V-tail. -/
def VF.dec (h t : Syl) : VF :=
  ⟨h.extractLsb' 16 8, h.extractLsb' 8 8, h.extractLsb' 4 4, h.getLsbD 3, h.getLsbD 2, h.getLsbD 1,
   t.extractLsb' 24 8, t.extractLsb' 16 8, t.extractLsb' 12 4, t.extractLsb' 9 3, t.getLsbD 8,
   t.extractLsb' 6 2, t.extractLsb' 4 2, t.getLsbD 3, t.getLsbD 2, t.getLsbD 1⟩
/-- The V-head without its stop bit. -/
def VF.encHead (f : VF) (op : BitVec 8) : Syl :=
  op ++ f.vd ++ f.va ++ f.ty ++ BitVec.ofBool f.lua ++ BitVec.ofBool f.lub ++ BitVec.ofBool f.luc ++ 0#1
/-- The V-tail without its stop bit. -/
def VF.encTail (f : VF) : Syl :=
  f.vb ++ f.vc ++ f.rows ++ f.km ++ BitVec.ofBool f.ke ++ f.rm ++ f.es ++ BitVec.ofBool f.sat ++
    BitVec.ofBool f.na ++ BitVec.ofBool f.nc ++ 0#1

/-- The vector opcode map (R85). -/
def vectorOf (op : Nat) (f : VF) : Option Instr :=
  match op with
  | 0 => some (.vadd f)
  | 1 => some (.vsub f)
  | 2 => some (.vmul f)
  | 3 => some (.vmulh f)
  | 4 => some (.vfma f)
  | 5 => some (.vmin f)
  | 6 => some (.vmax f)
  | 7 => some (.vabs f)
  | 8 => some (.vneg f)
  | 9 => some (.vand f)
  | 10 => some (.vor f)
  | 11 => some (.vxor f)
  | 12 => some (.vandn f)
  | 13 => some (.vshl f)
  | 14 => some (.vshr f)
  | 15 => some (.vsar f)
  | 16 => some (.vcmp f)
  | 17 => some (.vsel f)
  | 18 => some (.vclz f)
  | 19 => some (.vpopc f)
  | 20 => some (.vcrc f)
  | 21 => some (.vmov f)
  | 22 => some (.klog f)
  | 23 => some (.vsplat f)
  | 24 => some (.vext f)
  | 25 => some (.vins f)
  | 26 => some (.vld f)
  | 27 => some (.vst f)
  | 28 => some (.vgather f)
  | 29 => some (.vscatter f)
  | 30 => some (.gset f)
  | 31 => some (.greset f)
  | 32 => some (.vrotr f)
  | 33 => some (.vrotc f)
  | 34 => some (.vbcr f)
  | 35 => some (.vbcc f)
  | 36 => some (.vredr f)
  | 37 => some (.vredc f)
  | 38 => some (.vscanR f)
  | 39 => some (.vscanC f)
  | 40 => some (.vtrn f)
  | 41 => some (.vshfr f)
  | 42 => some (.vtopk f)
  | 43 => some (.vcvt f)
  | 48 => some (.vrcp f)
  | 49 => some (.vrsq f)
  | 50 => some (.vsqrt f)
  | 51 => some (.vdiv f)
  | 52 => some (.vexp2 f)
  | 53 => some (.vlog2 f)
  | 54 => some (.vexp f)
  | 55 => some (.vlog f)
  | 56 => some (.vtanh f)
  | 57 => some (.vsig f)
  | 58 => some (.vsin f)
  | 59 => some (.vcos f)
  | 64 => some (.qclr f)
  | 65 => some (.qadd f)
  | 66 => some (.qsub f)
  | 67 => some (.qdot f)
  | 68 => some (.qaddq f)
  | 69 => some (.qsubq f)
  | 70 => some (.qneg f)
  | 71 => some (.qrnd f)
  | 72 => some (.qsave f)
  | 73 => some (.qload f)
  | 74 => some (.qtov f)
  | 75 => some (.vtoq f)
  | _ => none

/-- A V-head and its V-tail. -/
def decodeV (h t : Syl) : Except Reject Instr :=
  match vectorOf (h.extractLsb' 24 8).toNat (VF.dec h t) with
  | none => .error .opcode
  | some i => checked i

/-! ## Command headers (R86) -/

/-- The opcode map of slot M, with the bits each header reserves. -/
def matrixOf (op : Nat) (p : BitVec 24) : Option (BitVec 24 × Instr) :=
  match op with
  | 0 => some (16382, .mma (.dec p))
  | 1 => some (16383, .mzero (.dec p))
  | 2 => some (510, .mdrain (.dec p))
  | 3 => some (984062, .mload (.dec p))
  | 4 => some (984062, .mstore (.dec p))
  | _ => none

/-- The opcode map of slot C. -/
def copyOf (op : Nat) (p : BitVec 24) : Option (BitVec 24 × Instr) :=
  match op with
  | 0 => some (510, .copy (.dec p))
  | 1 => some (4094, if p.getLsbD 18 then .bufset (.dec p) else .bufsetOff (.dec p))
  | 2 => some (1023, .publish (.dec p))
  | _ => none

/-- The opcode map of slot E. -/
def engineOf (op : Nat) (p : BitVec 24) : Option (BitVec 24 × Instr) :=
  match op with
  | 0 => some (254, .quant (.dec p))
  | 1 => some (254, .dequant (.dec p))
  | 2 => some (131070, .sqld (.dec p))
  | 3 => some (4194303, .sqclr (.dec p))
  | 64 => some (1023, .xpush (.dec p))
  | 65 => some (1023, .xfetch (.dec p))
  | 66 => some (0xFFFFFF, .xflush)
  | 67 => some (65534, .xcfg (.dec p))
  | _ => none

/-- A command header under the opcode map of its slot. -/
def decodeHeader (map : Nat → BitVec 24 → Option (BitVec 24 × Instr)) (w : Syl) : Except Reject Instr :=
  match map (w.extractLsb' 25 7).toNat (w.extractLsb' 1 24) with
  | none => .error .opcode
  | some (resv, i) => if w.extractLsb' 1 24 &&& resv != 0 then .error .reserved else checked i

/-! ## Control syllables (R82, R87) -/

/-- The control opcode map, with the bits each instruction requires to be zero. -/
def controlOf (op : Nat) (p : BitVec 24) : Option (BitVec 24 × Instr) :=
  match op with
  | 0 => some (0xFFFFFF, .br)
  | 1 => some (0xFFF07F, .brc (p.extractLsb' 8 4) (p.getLsbD 7))
  | 2 => some (0x03FFFF, .call (p.extractLsb' 18 6))
  | 3 => some (0x03FFFF, .ret (p.extractLsb' 18 6))
  | 4 => some (0x03FFFF, .jmpr (p.extractLsb' 18 6))
  | 5 => some (if p.getLsbD 7 then (0x03FF00, .loopRot (p.extractLsb' 18 6) (p.extractLsb' 0 7)) else (0x03FF00, .loop (p.extractLsb' 18 6) (p.extractLsb' 0 7)))
  | 6 => some (0xFFF000, .loopw (p.extractLsb' 8 4) (p.getLsbD 7) (p.extractLsb' 0 7))
  | 7 => some (0xFFFFFF, .yield)
  | 8 => some (0xFFFFFF, .exit)
  | 16 => some (0x000FFF, .allot (p.extractLsb' 18 6) (p.extractLsb' 12 6))
  | 17 => some (0xFC0FFF, .shrink (p.extractLsb' 12 6))
  | 18 => some (0x03FF00, .balloc (p.extractLsb' 18 6) (p.getLsbD 7) (p.extractLsb' 0 7))
  | 19 => some (0x03FF80, .bfree (p.extractLsb' 18 6) (p.extractLsb' 0 7))
  | 20 => some (0x03FF80, .vpark (p.extractLsb' 18 6) (p.extractLsb' 0 7))
  | 21 => some (0x03FF80, .vunpark (p.extractLsb' 18 6) (p.extractLsb' 0 7))
  | 22 => some (0xFFFFFF, .mlease)
  | 23 => some (0xFFFFFF, .mrelease)
  | 24 => some (0x000F80, .launch (p.extractLsb' 18 6) (p.extractLsb' 12 6) (p.extractLsb' 0 7))
  | 25 => some (0x03FF80, .barcfg (p.extractLsb' 18 6) (p.extractLsb' 0 7))
  | 26 => some (0xFFFF80, .bar (p.extractLsb' 0 7))
  | 27 => some (0xFFFF80, .barw (p.extractLsb' 0 7))
  | 28 => some (0xFFF080, .bartst (p.extractLsb' 8 4) (p.extractLsb' 0 7))
  | 29 => some (0x03FFFF, .hadv (p.extractLsb' 18 6))
  | 30 => some (0x000F80, .ttstart (p.extractLsb' 18 6) (p.extractLsb' 12 6) (p.extractLsb' 0 7))
  | 32 => some (0x03FFFF, .waitany (p.extractLsb' 18 6))
  | 33 => some (0x03FFFF, .waitall (p.extractLsb' 18 6))
  | 34 => some (0x000FFF, .ffr (p.extractLsb' 18 6) (p.extractLsb' 12 6))
  | 35 => some (0x03FFFF, .tagclr (p.extractLsb' 18 6))
  | 40 => some (0x03FF80, .semw (p.extractLsb' 18 6) (p.extractLsb' 0 7))
  | 41 => some (0x03FF80, .semsig (p.extractLsb' 18 6) (p.extractLsb' 0 7))
  | 42 => some (0x03FF80, .semset (p.extractLsb' 18 6) (p.extractLsb' 0 7))
  | 43 => some (0xFFFF80, .sclose (p.extractLsb' 0 7))
  | 44 => some (0xFFFF80, .fence (p.extractLsb' 0 7))
  | 48 => some (0x000F80, .rngset (p.extractLsb' 18 6) (p.extractLsb' 12 6) (p.extractLsb' 0 7))
  | 49 => some (0xFC0F80, .rngclr (p.extractLsb' 12 6) (p.extractLsb' 0 7))
  | 50 => some (0x000FFF, .tlbinv (p.extractLsb' 18 6) (p.extractLsb' 12 6))
  | 51 => some (if p.getLsbD 7 then (0xFFFF7F, .tlbinvaAll) else (0xFC0F7F, .tlbinva (p.extractLsb' 12 6)))
  | 56 => some (0xFFFF80, .trap (p.extractLsb' 0 7))
  | 57 => some (if p.getLsbD 7 then (0x03FF00, .eretCtx (p.extractLsb' 18 6) (p.extractLsb' 0 7)) else (0xFFFF7F, .eret))
  | 58 => some (0x000FFF, .ctxsave (p.extractLsb' 18 6) (p.extractLsb' 12 6))
  | 59 => some (0x000FFF, .ctxload (p.extractLsb' 18 6) (p.extractLsb' 12 6))
  | 60 => some (0x03FF80, .jmark (p.extractLsb' 18 6) (p.extractLsb' 0 7))
  | 61 => some (0xFFFFFF, .jflush)
  | _ => none

/-- A B syllable. -/
def decodeB (w : Syl) : Except Reject Instr := decodeHeader controlOf w

/-! ## The encoder, written from the same tables; every stop bit is left 0 -/

/-- OP and the extension bit above a payload of 23 bits. -/
def sSyl (op : BitVec 7) (x : Bool) (p : BitVec 23) : Syl := op ++ BitVec.ofBool x ++ p ++ 0#1
/-- OP above a payload of 24 bits. -/
def hSyl (op : BitVec 7) (p : BitVec 24) : Syl := op ++ p ++ 0#1
/-- The literal syllable of a literal. -/
def litSyl (l : BitVec 31) : Syl := l ++ 0#1
/-- A scalar syllable and, where there is a literal, the literal syllable. -/
def encSL (op : BitVec 7) (p : BitVec 23) (l : Option (BitVec 31)) : List Syl :=
  match l with
  | none => [sSyl op false p]
  | some v => [sSyl op true p, litSyl v]
/-- A V-head and its V-tail. -/
def encV (op : BitVec 8) (f : VF) : List Syl := [f.encHead op, f.encTail]
/-- A B syllable from all its fields (R82). -/
def encB (op : BitVec 7) (bx by' : BitVec 6) (bp : BitVec 4) (bn : Bool) (imm : BitVec 7) : List Syl :=
  [hSyl op (bx ++ by' ++ bp ++ BitVec.ofBool bn ++ imm)]

/-- The syllables of a slot instruction, with stop bits 0; nothing for the machine's own steps. -/
def encode : Instr → List Syl
  | .add f => encSL 0 f.enc f.lit
  | .sub f => encSL 1 f.enc f.lit
  | .mul f => encSL 2 f.enc f.lit
  | .mulh f => encSL 3 f.enc f.lit
  | .mulhz f => encSL 4 f.enc f.lit
  | .div f => encSL 5 f.enc f.lit
  | .divz f => encSL 6 f.enc f.lit
  | .rem f => encSL 7 f.enc f.lit
  | .remz f => encSL 8 f.enc f.lit
  | .and f => encSL 9 f.enc f.lit
  | .or f => encSL 10 f.enc f.lit
  | .xor f => encSL 11 f.enc f.lit
  | .andn f => encSL 12 f.enc f.lit
  | .shl f => encSL 13 f.enc f.lit
  | .shr f => encSL 14 f.enc f.lit
  | .sar f => encSL 15 f.enc f.lit
  | .rotl f => encSL 16 f.enc f.lit
  | .clz f => encSL 17 f.enc f.lit
  | .ctz f => encSL 18 f.enc f.lit
  | .popc f => encSL 19 f.enc f.lit
  | .min f => encSL 20 f.enc f.lit
  | .max f => encSL 21 f.enc f.lit
  | .minz f => encSL 22 f.enc f.lit
  | .maxz f => encSL 23 f.enc f.lit
  | .addsh f => encSL 24 f.enc f.lit
  | .sel f => encSL 25 f.enc f.lit
  | .addi f => [sSyl 32 false f.enc]
  | .movi f => encSL 33 f.enc f.lit
  | .movhi f => encSL 34 f.enc f.lit
  | .cmp f => encSL 40 f.enc f.lit
  | .pset f => [sSyl 41 false f.enc]
  | .plog f => [sSyl 42 false f.enc]
  | .ld f => encSL 48 f.enc f.lit
  | .st f => encSL 49 f.enc f.lit
  | .fadd f => [sSyl 56 false f.enc]
  | .fsub f => [sSyl 57 false f.enc]
  | .fmul f => [sSyl 58 false f.enc]
  | .fma f => [sSyl 59 false f.enc]
  | .fdiv f => [sSyl 60 false f.enc]
  | .fsqrt f => [sSyl 61 false f.enc]
  | .fmin f => [sSyl 62 false f.enc]
  | .fmax f => [sSyl 63 false f.enc]
  | .fcmp f => encSL 64 f.enc f.lit
  | .fcvt f => [sSyl 65 false f.enc]
  | .fclass f => [sSyl 66 false f.enc]
  | .fchk f => [sSyl 67 false f.enc]
  | .movsys f => [sSyl 72 false f.enc]
  | .movctlRead f => [sSyl 73 false f.enc]
  | .movctlWrite f => [sSyl 74 false f.enc]
  | .movstg f => encSL 75 f.enc f.lit
  | .rdstg f => encSL 76 f.enc f.lit
  | .rst f => [sSyl 80 false f.enc]
  | .rstf f => [sSyl 81 false f.enc]
  | .rld f => [sSyl 82 false f.enc]
  | .vadd f => encV 0 f
  | .vsub f => encV 1 f
  | .vmul f => encV 2 f
  | .vmulh f => encV 3 f
  | .vfma f => encV 4 f
  | .vmin f => encV 5 f
  | .vmax f => encV 6 f
  | .vabs f => encV 7 f
  | .vneg f => encV 8 f
  | .vand f => encV 9 f
  | .vor f => encV 10 f
  | .vxor f => encV 11 f
  | .vandn f => encV 12 f
  | .vshl f => encV 13 f
  | .vshr f => encV 14 f
  | .vsar f => encV 15 f
  | .vcmp f => encV 16 f
  | .vsel f => encV 17 f
  | .vclz f => encV 18 f
  | .vpopc f => encV 19 f
  | .vcrc f => encV 20 f
  | .vmov f => encV 21 f
  | .klog f => encV 22 f
  | .vsplat f => encV 23 f
  | .vext f => encV 24 f
  | .vins f => encV 25 f
  | .vld f => encV 26 f
  | .vst f => encV 27 f
  | .vgather f => encV 28 f
  | .vscatter f => encV 29 f
  | .gset f => encV 30 f
  | .greset f => encV 31 f
  | .vrotr f => encV 32 f
  | .vrotc f => encV 33 f
  | .vbcr f => encV 34 f
  | .vbcc f => encV 35 f
  | .vredr f => encV 36 f
  | .vredc f => encV 37 f
  | .vscanR f => encV 38 f
  | .vscanC f => encV 39 f
  | .vtrn f => encV 40 f
  | .vshfr f => encV 41 f
  | .vtopk f => encV 42 f
  | .vcvt f => encV 43 f
  | .vrcp f => encV 48 f
  | .vrsq f => encV 49 f
  | .vsqrt f => encV 50 f
  | .vdiv f => encV 51 f
  | .vexp2 f => encV 52 f
  | .vlog2 f => encV 53 f
  | .vexp f => encV 54 f
  | .vlog f => encV 55 f
  | .vtanh f => encV 56 f
  | .vsig f => encV 57 f
  | .vsin f => encV 58 f
  | .vcos f => encV 59 f
  | .qclr f => encV 64 f
  | .qadd f => encV 65 f
  | .qsub f => encV 66 f
  | .qdot f => encV 67 f
  | .qaddq f => encV 68 f
  | .qsubq f => encV 69 f
  | .qneg f => encV 70 f
  | .qrnd f => encV 71 f
  | .qsave f => encV 72 f
  | .qload f => encV 73 f
  | .qtov f => encV 74 f
  | .vtoq f => encV 75 f
  | .mma f => [hSyl 0 f.enc]
  | .mzero f => [hSyl 1 f.enc]
  | .mdrain f => [hSyl 2 f.enc]
  | .mload f => [hSyl 3 f.enc]
  | .mstore f => [hSyl 4 f.enc]
  | .copy f => [hSyl 0 f.enc]
  | .bufset f => [hSyl 1 (f.enc true)]
  | .bufsetOff f => [hSyl 1 (f.enc false)]
  | .publish f => [hSyl 2 f.enc]
  | .quant f => [hSyl 0 f.enc]
  | .dequant f => [hSyl 1 f.enc]
  | .sqld f => [hSyl 2 f.enc]
  | .sqclr f => [hSyl 3 f.enc]
  | .xpush f => [hSyl 64 f.enc]
  | .xfetch f => [hSyl 65 f.enc]
  | .xflush => [hSyl 66 0]
  | .xcfg f => [hSyl 67 f.enc]
  | .br => encB 0 0 0 0 false 0
  | .brc bp bn => encB 1 0 0 bp bn 0
  | .call bx => encB 2 bx 0 0 false 0
  | .ret bx => encB 3 bx 0 0 false 0
  | .jmpr bx => encB 4 bx 0 0 false 0
  | .loop bx n => encB 5 bx 0 0 false n
  | .loopRot bx n => encB 5 bx 0 0 true n
  | .loopw bp bn n => encB 6 0 0 bp bn n
  | .yield => encB 7 0 0 0 false 0
  | .exit => encB 8 0 0 0 false 0
  | .allot bx by' => encB 16 bx by' 0 false 0
  | .shrink by' => encB 17 0 by' 0 false 0
  | .balloc bx q n => encB 18 bx 0 0 q n
  | .bfree bx n => encB 19 bx 0 0 false n
  | .vpark bx n => encB 20 bx 0 0 false n
  | .vunpark bx n => encB 21 bx 0 0 false n
  | .mlease => encB 22 0 0 0 false 0
  | .mrelease => encB 23 0 0 0 false 0
  | .launch bx by' n => encB 24 bx by' 0 false n
  | .barcfg bx n => encB 25 bx 0 0 false n
  | .bar n => encB 26 0 0 0 false n
  | .barw n => encB 27 0 0 0 false n
  | .bartst bp n => encB 28 0 0 bp false n
  | .hadv bx => encB 29 bx 0 0 false 0
  | .ttstart bx by' n => encB 30 bx by' 0 false n
  | .waitany bx => encB 32 bx 0 0 false 0
  | .waitall bx => encB 33 bx 0 0 false 0
  | .ffr bx by' => encB 34 bx by' 0 false 0
  | .tagclr bx => encB 35 bx 0 0 false 0
  | .semw bx n => encB 40 bx 0 0 false n
  | .semsig bx n => encB 41 bx 0 0 false n
  | .semset bx n => encB 42 bx 0 0 false n
  | .sclose n => encB 43 0 0 0 false n
  | .fence n => encB 44 0 0 0 false n
  | .rngset bx by' n => encB 48 bx by' 0 false n
  | .rngclr by' n => encB 49 0 by' 0 false n
  | .tlbinv bx by' => encB 50 bx by' 0 false 0
  | .tlbinva by' => encB 51 0 by' 0 false 0
  | .tlbinvaAll => encB 51 0 0 0 true 0
  | .trap n => encB 56 0 0 0 false n
  | .eret => encB 57 0 0 0 false 0
  | .eretCtx bx n => encB 57 bx 0 0 true n
  | .ctxsave bx by' => encB 58 bx by' 0 false 0
  | .ctxload bx by' => encB 59 bx by' 0 false 0
  | .jmark bx n => encB 60 bx 0 0 false n
  | .jflush => encB 61 0 0 0 false 0
  | _ => []

/-- The decoder of a slot class, on the syllables of one slot. -/
def decodeSlot (c : SlotClass) (ws : List Syl) : Except Reject Instr :=
  match c, ws with
  | .s, [w] => decodeS w 0
  | .s, [w, l] => decodeS w l
  | .v, [h, t] => decodeV h t
  | .m, [w] => decodeHeader matrixOf w
  | .c, [w] => decodeHeader copyOf w
  | .e, [w] => decodeHeader engineOf w
  | .b, [w] => decodeB w
  | _, _ => .error .beyond

/-! ## Bundles (R45 to R48, R65) -/

/-- A decoded bundle: the slots that its template marks present, in their order, and its idle count. -/
structure Bundle where
  slots : List (Slot × Instr)
  idle : Nat
  last : Bool
  deriving DecidableEq, Repr

/-- The class of a slot position. -/
def Slot.cls : Slot → SlotClass
  | .s0 | .s1 => .s | .v0 | .v1 => .v | .m => .m | .c => .c | .e => .e | .b => .b

/-- The template bit of a slot (R45). -/
def Slot.bit : Slot → Nat
  | .s0 => 24 | .s1 => 25 | .v0 => 26 | .v1 => 27 | .m => 28 | .c => 29 | .e => 30 | .b => 31

/-- The slots in the order of their syllables (R46). -/
def Slot.all : List Slot := [.s0, .s1, .v0, .v1, .m, .c, .e, .b]

/-- How many syllables a slot takes whose first syllable is w (R46). -/
def slotLen (c : SlotClass) (w : Syl) : Nat :=
  match c with
  | .s => if w.getLsbD 24 then 2 else 1
  | .v => 2
  | _ => 1

/-- Cut the syllables of a bundle into its slots; none where they run beyond the body. -/
def cutSlots : List Slot → Syl → List Syl → Option (List (Slot × List Syl) × List Syl)
  | [], _, ws => some ([], ws)
  | p :: ps, h, ws =>
    if h.getLsbD p.bit then
      match ws with
      | [] => none
      | w :: _ =>
        let n := slotLen p.cls w
        if ws.length < n then none
        else (cutSlots ps h (ws.drop n)).map fun (a, r) => ((p, ws.take n) :: a, r)
    else cutSlots ps h ws

/-- Every syllable but the last has its stop bit clear, and the last has it set (R47). -/
def stopsOk : List Syl → Bool
  | [] => false
  | [w] => w.getLsbD 0
  | w :: ws => !w.getLsbD 0 && stopsOk ws

/-- Decode every slot. -/
def decodeSlots (l : List (Slot × List Syl)) : List (Slot × Except Reject Instr) :=
  l.map fun (p, ws) => (p, decodeSlot p.cls ws)

/-- The rejects of a bundle's slots. -/
def slotRejects : List (Slot × Except Reject Instr) → List Reject
  | [] => []
  | (_, .ok _) :: t => slotRejects t
  | (_, .error r) :: t => r :: slotRejects t

/-- The instructions of a bundle's slots. -/
def slotInstrs : List (Slot × Except Reject Instr) → List (Slot × Instr)
  | [] => []
  | (p, .ok i) :: t => (p, i) :: slotInstrs t
  | (_, .error _) :: t => slotInstrs t

/-- The reject of the highest row of R65. -/
def worst : List Reject → Option Reject
  | [] => none
  | r :: t => match worst t with
    | none => some r
    | some q => some (if q.row < r.row then q else r)

/-- IDLE of a header. -/
def hdrIdle (h : Syl) : Nat := (h.extractLsb' 20 4).toNat
/-- LAST of a header. -/
def hdrLast (h : Syl) : Bool := h.getLsbD 19
/-- Header bits 18:1 are zero. -/
def hdrOk (h : Syl) : Bool := h.extractLsb' 1 18 == 0

/-- Read the bundle at the head of the syllables left in a body: its length in syllables (0 where they end
before it does) and the bundle or its illegal encoding (R65). -/
def decodeBundle (ws : List Syl) : Nat × Except Reject Bundle :=
  match ws with
  | [] => (0, .error .beyond)
  | h :: rest =>
    match cutSlots Slot.all h rest with
    | none => (0, .error (if hdrOk h then .beyond else .header))
    | some (cut, left) =>
      let n := ws.length - left.length
      if !hdrOk h || !stopsOk (ws.take n) then (n, .error .header)
      else
        let ds := decodeSlots cut
        match worst (slotRejects ds) with
        | some r => (n, .error r)
        | none => (n, .ok ⟨slotInstrs ds, hdrIdle h, hdrLast h⟩)

/-- Set the stop bit of the last syllable (R47). -/
def setStop : List Syl → List Syl
  | [] => []
  | [w] => [w ||| 1#32]
  | w :: ws => w :: setStop ws

/-- The header of a bundle with the given slots. -/
def encHeader (slots : List Slot) (idle : BitVec 4) (last : Bool) : Syl :=
  let bit (p : Slot) : BitVec 1 := BitVec.ofBool (slots.contains p)
  bit .b ++ bit .e ++ bit .c ++ bit .m ++ bit .v1 ++ bit .v0 ++ bit .s1 ++ bit .s0 ++ idle ++
    BitVec.ofBool last ++ 0#19

/-- The syllables of a bundle whose slots stand in the order of R46. -/
def encodeBundle (slots : List (Slot × Instr)) (idle : BitVec 4) (last : Bool) : List Syl :=
  setStop (encHeader (slots.map (·.1)) idle last :: slots.flatMap (fun (_, i) => encode i))

/-! ## A bare word of the opcode table -/

/-- A word does not say which slot it stands in: take the first class in the order S, M, C, E, B under which
it is a legal instruction (log 10). -/
def firstLegal : List (Except Reject Instr) → Option Instr
  | [] => none
  | .ok i :: _ => some i
  | .error _ :: t => firstLegal t

/-- The instruction of a word of the opcode table: its first syllable in bits 31:0, a literal syllable in
bits 63:32; the stop bit is ignored. -/
def decodeTableWord (_nbits w : Nat) : Option Instr :=
  let a : Syl := BitVec.ofNat 32 w
  let b : Syl := BitVec.ofNat 32 (w / 2 ^ 32)
  firstLegal [decodeS a b, decodeHeader matrixOf a, decodeHeader copyOf a, decodeHeader engineOf a, decodeB a]

end Sys2Proof
end

