-- ==== Sys2Proof/Machine/Store.lean ====
section
/-! DEFINITION. The two containers of State: a finite map with a default, and byte memory in one canonical
form (addresses strictly rising, no entry equal to the unlisted byte). -/

namespace Sys2Proof

/-- A finite map as an association list in rising order of its keys; an unlisted key holds `default`. -/
abbrev FMap (α : Type) := List (Nat × α)

namespace FMap

variable {α : Type}

/-- The entry of a key, if it is listed. -/
def find? : FMap α → Nat → Option α
  | [], _ => none
  | (a, v) :: m, k => if a = k then some v else find? m k

/-- The value of a key. -/
def get [Inhabited α] (m : FMap α) (k : Nat) : α := (m.find? k).getD default

/-- Give a key a value. -/
def set : FMap α → Nat → α → FMap α
  | [], k, v => [(k, v)]
  | (a, w) :: m, k, v =>
    if k < a then (k, v) :: (a, w) :: m
    else if k = a then (k, v) :: m
    else (a, w) :: set m k v

/-- Remove a key. -/
def erase (m : FMap α) (k : Nat) : FMap α := m.filter (fun e => e.1 != k)

/-- Apply a function to the value of a key. -/
def modify [Inhabited α] (m : FMap α) (k : Nat) (f : α → α) : FMap α := m.set k (f (m.get k))

/-- The keys that are listed. -/
def keys (m : FMap α) : List Nat := m.map (·.1)

end FMap

/-- Byte memory: a list of cells in canonical form. -/
abbrev Memory := List Host.Cell

namespace Memory

/-- What an unlisted address reads as: DESIGN CHOICE 0 (log 1). -/
def unlisted : Byte := 0

/-- The byte at a key. -/
def read : Memory → Nat → Byte
  | [], _ => unlisted
  | (a, b) :: m, k => if a = k then b else read m k

/-- Put a byte that is not the unlisted one at a key that is not listed. -/
def insert : Memory → Nat → Byte → Memory
  | [], k, b => [(k, b)]
  | (a, c) :: m, k, b => if k < a then (k, b) :: (a, c) :: m else (a, c) :: insert m k b

/-- Write one byte, keeping the canonical form. -/
def write (m : Memory) (k : Nat) (b : Byte) : Memory :=
  let r := m.filter (fun c => c.1 != k)
  if b = unlisted then r else insert r k b

/-- The bytes at k, k + 1, … -/
def readN (m : Memory) (k : Nat) : Nat → List Byte
  | 0 => []
  | n + 1 => m.read k :: readN m (k + 1) n

/-- Write bytes at k, k + 1, … -/
def writeN (m : Memory) (k : Nat) : List Byte → Memory
  | [] => m
  | b :: bs => writeN (m.write k b) (k + 1) bs

/-- Write a list of keyed bytes in order. -/
def writeL (m : Memory) (l : List (Nat × Byte)) : Memory := l.foldl (fun m e => m.write e.1 e.2) m

/-- Zero the n bytes from k. -/
def zero (m : Memory) (k n : Nat) : Memory := m.filter (fun c => !(k ≤ c.1 && c.1 < k + n))

/-- Addresses strictly rise. -/
def sorted : Memory → Bool
  | [] => true
  | [_] => true
  | a :: b :: m => a.1 < b.1 && sorted (b :: m)

/-- The canonical form. -/
def wf (m : Memory) : Bool := sorted m && m.all (fun c => c.2 != unlisted)

end Memory

/-- Little-endian value of bytes (R10). -/
def leNat : List Byte → Nat
  | [] => 0
  | b :: bs => b.toNat + 256 * leNat bs

/-- n little-endian bytes of a number (R10). -/
def leBytes : Nat → Nat → List Byte
  | 0, _ => []
  | n + 1, v => BitVec.ofNat 8 v :: leBytes n (v / 256)

/-- Insertion sort by a Nat key (structural, so that the kernel evaluates it); equal keys keep their order. -/
def insertBy {α : Type} (f : α → Nat) (x : α) : List α → List α
  | [] => [x]
  | y :: ys => if f x < f y then x :: y :: ys else y :: insertBy f x ys

/-- A list in rising order of a Nat key. -/
def sortBy {α : Type} (f : α → Nat) (l : List α) : List α := l.foldl (fun a x => insertBy f x a) []

/-- The numbers lo, lo + 1, … lo + n − 1. -/
def upFrom : Nat → Nat → List Nat
  | _, 0 => []
  | lo, n + 1 => lo :: upFrom (lo + 1) n

end Sys2Proof
end

