-- ==== Sys2Proof/Machine/State.lean ====
section
/-! DEFINITION. The state of one QX4 module as plain data: contexts, tiles, dies, the collective die, memory,
and what happens next. Reset values are those of the spec; the model's own fields are named in the log. -/

namespace Sys2Proof.Machine

/-- Why the machine itself stops: there is no such reason. A trap of the QX4 (R446), a stop of its clocks (R456) and the
loss of main power (R411) are states, in which a step goes on. -/
inductive Fault where
  deriving DecidableEq, Repr

/-- Why the model gives no next state. -/
inductive Refusal where
  /-- An instruction that has no meaning yet: raised by exec's own arm. Safe: nothing follows from it. -/
  | notModelled (mnemonic : String)
  deriving DecidableEq, Repr

/-! ## Writes in flight -/

/-- A register write in flight (R52): the bits of `mask` become those of `val`; issued at tile clock `t0`,
unspecified up to t0 + bound, where they read as the free value number `free` (R7: one value for the
interval, log 3). `chain` marks QADD, QSUB and QDOT (R202). -/
structure PWrite (w : Nat) where
  reg : Nat
  mask : BitVec w
  val : BitVec w
  t0 : Nat
  bound : Nat
  free : Nat
  chain : Bool := false
  deriving DecidableEq, Repr, Inhabited

/-- Flags in flight (R90): they are ORed into FSR in cycle `land`, within the instruction's bound. -/
structure FlagW where
  land : Nat
  flags : BitVec 8
  /-- Number of the writing (log 6). -/
  id : Nat := 0
  deriving DecidableEq, Repr, Inhabited

/-- A scratchpad write in flight (R101, R181): bytes at own scratchpad addresses, issued in `at'`, performing
in `cycle`, by the tile's clock; for the shadow context, which runs while that stands, by the time itself (R284). -/
structure PStore where
  at' : Nat
  cycle : Nat
  ctx : Nat
  bytes : List (Nat × Byte)
  /-- Number of the writing (log 6). -/
  id : Nat := 0
  /-- Its bytes have met a parity error on their way (R449): they are written poisoned. -/
  bad : Bool := false
  deriving DecidableEq, Repr, Inhabited

/-- A change of the context that takes effect for the next bundle (R90, R110, R118, R166, R315, R428). -/
inductive Late where
  | fsr (v : BitVec 8) | voff (v : Nat) | soff (v : Nat)
  | tvec (v : DWord) | tdeleg (v : DWord) | tscr (n : Nat) (v : DWord) | trpos (v : DWord)
  | gset (n : Nat) (row : Row) | greset (mask : Nat) | tagclr (mask : DWord)
  deriving DecidableEq, Repr, Inhabited

/-- The parameters and the position of an address-generator port (R164); a missing list entry is 0. -/
structure Port where
  base : Nat
  cnt : List Nat
  str : List Int
  pos : List Nat
  deriving DecidableEq, Repr, Inhabited

/-! ## Positions, records, traps -/

/-- A code position (R40): the address of the segment record, the bundle index, the idle offset. -/
structure Pos where
  seg : Nat
  idx : Nat
  ioff : Nat
  deriving DecidableEq, Repr, Inhabited

/-- What a cause puts into its record beyond the place and the time (R429, R446). -/
structure TrapInfo where
  cause : Nat
  /-- 0 B, 1 H, 2 C, 3 N, 4 P, 5 I (R419). -/
  kind : Nat
  eng : Nat
  status : Nat := 0
  addr2 : Nat := 0
  cmdidx : Nat := 0
  /-- Bundle address of the header, packet or command, where it is not the bundle that traps. -/
  baddr : Option Nat := none
  deriving DecidableEq, Repr, Inhabited

/-- A record (R429) with the issue number that orders it (R423). -/
structure Rec where
  info : TrapInfo
  no : Nat
  hm : Bool
  ndly : Nat
  tseq : Nat
  ttc : Nat
  ptime : Nat
  pos : Pos
  baddr : Nat
  ptgt : Pos
  deriving DecidableEq, Repr, Inhabited

/-! ## Endpoints, streams, packets (R324 to R331) -/

/-- An endpoint: kind 0 tile scratchpad, 1 HBM4 stack, 2 host memory, 3 reduction unit (R486 EKIND). -/
structure Endpoint where
  module : Nat
  die : Nat
  kind : Nat
  idx : Nat
  deriving DecidableEq, Repr, Inhabited

/-- One of the sixteen streams of a context (R325, R338). -/
structure Stream where
  bound : Option Endpoint
  broken : Bool
  /-- The epoch of the binding, or that which the next binding takes. -/
  epoch : Nat
  next : Nat
  /-- The cycles of the closes of the last 2^20 cycles. -/
  closes : List Nat
  /-- Of a broken binding: the lowest number that was unacknowledged, and whether updates of the scatter engine were
  (R331, R349 to R351); `lost` ends as the stream is closed. -/
  low : Nat := 0
  lost : Bool := false
  deriving DecidableEq, Repr, Inhabited

/-- The source fields of a packet (R326). -/
structure Source where
  module : Nat
  die : Nat
  tile : Nat
  ctx : Nat
  stm : Nat
  deriving DecidableEq, Repr, Inhabited

/-- What a packet asks for (R326 Kind): store, store and signal, close, load, update. -/
inductive PktKind where
  | store | signal | close | load | update
  deriving DecidableEq, Repr, Inhabited

/-- A scatter update (R348): the operation, its type and the merged value. -/
structure Update where
  xop : Nat
  vt : Nat
  es : Nat
  /-- A 32-bit word, a 64-bit sum to a reduction group, or a quire image. -/
  val : Nat
  deriving DecidableEq, Repr, Inhabited

/-- A packet (R326). `addr` is die-physical at the endpoint. -/
structure Pkt where
  src : Source
  seq : Nat
  epoch : Nat
  opn : Bool
  inc : Nat
  kind : PktKind
  dst : Endpoint
  addr : Nat
  data : List Byte
  len : Nat
  sem : Nat
  cl : Bool
  upd : Update
  asid : Nat
  /-- The tile-window or peer path, checked at the endpoint (R301, R396). -/
  tasid : Option Nat
  peer : Bool
  /-- Destination register of a load, the bundle and the command the packet belongs to. -/
  reg : Nat
  baddr : Nat
  cmd : Option Nat
  eng : Nat
  /-- Attempts sent, the cycle of the last (R331), and the cycle in which the packet arose. -/
  tries : Nat
  sent : Nat
  born : Nat
  /-- It has been refused and not yet been taken in (R330). -/
  ref : Bool := false
  /-- Its place in the order of what its tile commits and sends. -/
  ord : Nat := 0
  /-- Its page is in poison-hold (R332). -/
  ph : Bool := false
  deriving DecidableEq, Repr, Inhabited

/-- What is in flight on the mesh, the crossbar or the fabric. -/
inductive Flit where
  | pkt (p : Pkt)
  | ack (src : Source) (epoch seq : Nat) (inc : Nat)
  | resp (src : Source) (epoch seq : Nat) (inc reg : Nat) (data : List Byte)
  | fault (src : Source) (epoch seq kind : Nat) (inc : Nat)
  /-- A packet that has been refused, on its way back to be sent again (R330). -/
  | refused (p : Pkt)
  /-- A packet of a timetable, in the edge buffer of its receiver (R279, R352). -/
  | timed (p : Pkt)
  deriving DecidableEq, Repr, Inhabited

/-- A flit with its number, its earliest arrival cycle and the cycle it was sent. -/
structure InFlight where
  id : Nat
  arrive : Nat
  sent : Nat
  flit : Flit
  deriving DecidableEq, Repr, Inhabited

/-- A tracker entry (R330). -/
structure TEntry where
  src : Source
  epoch : Nat
  e : Nat
  broken : Bool
  deriving DecidableEq, Repr, Inhabited

/-- A retired record (R337). -/
structure Retired where
  src : Source
  epoch : Nat
  last : Nat
  cycle : Nat
  deriving DecidableEq, Repr, Inhabited

/-- The commit tracker of one endpoint (R324, R330, R337) and its open commit run (R460). -/
structure Tracker where
  entries : List TEntry
  reorder : List Pkt
  retired : List Retired
  run : Option (Source × Nat × Nat)
  /-- Commits of the recorded run that a replay is imposing (R463). -/
  replayed : Nat
  deriving DecidableEq, Repr, Inhabited

/-! ## Engines -/

/-- A committed or entered command (R61, R83, R486). -/
structure Cmd where
  /-- 0 matrix, 1 copy, 2 quantisation, 3 scatter-accumulate. -/
  eng : Nat
  instr : Instr
  hdr : Syl
  stg : List DWord
  set : Option Bool
  idx : Nat
  /-- Tile clock of the header's issue, and the order of commits at the tile. -/
  at' : Nat
  ord : Nat
  prog : Nat
  rsv : Option (Nat × Nat)
  ix : VReg
  vx : VReg
  mask : Mask
  baddr : Nat
  /-- A fault has returned it to the queue: it starts again once the context is out of the handler (R225, R311). -/
  back : Bool := false
  /-- Journal entries that were reserved as it was entered (R461). -/
  ents : Nat := 0
  deriving DecidableEq, Repr

/-- An effect of a started command, applied when it completes (log 7). -/
inductive Eff where
  | mem (key : Nat) (bytes : List Byte)
  | own (addr : Nat) (bytes : List Byte)
  | pad (die tile addr : Nat) (bytes : List Byte)
  | acc (off : Nat) (bytes : List Byte)
  | mrs (l : List DWord)
  | msat (b : Bool)
  | flags (f : BitVec 8)
  | pop (n : Nat)
  | sem (n : Nat)
  | send (va : Nat) (bytes : List Byte)
  deriving DecidableEq, Repr

/-- One row of a copy in the order of R308: its source, its destination and its metadata. -/
structure CopyRow where
  src : Nat
  dst : Nat
  meta' : Nat
  deriving DecidableEq, Repr, Inhabited

/-- One aligned row of a copy's destination still to be written (R313): read at tile clock `rd`, written at `wr`; it is
bytes `off` to `off + len − 1` of its row of R308. `data` are the bytes once they have been read. -/
structure CopyJob where
  rd : Nat
  wr : Nat
  row : CopyRow
  off : Nat
  len : Nat
  data : Option (List Byte)
  deriving DecidableEq, Repr, Inhabited

/-- A read access bound to a half of a descriptor's public range (R321): the tile, the descriptor, the half. -/
structure Bound where
  die : Nat
  tile : Nat
  buf : Nat
  half : Bool
  deriving DecidableEq, Repr, Inhabited

/-- A started command: `busy` is the cycle from which the engine starts another, `done` that of its effect. -/
structure Run where
  ctx : Nat
  cmd : Cmd
  start : Nat
  busy : Nat
  done : Nat
  eff : List Eff
  trap : Option TrapInfo
  /-- Progress units that the command completes; below them, `cmd.prog` have been done (R225, R236). -/
  prog : Nat
  /-- Rows of a copy still to be written (R313), the halves to which its reads are bound (R321), and the runs of bytes
  that it reads, by storage (R312). -/
  jobs : List CopyJob := []
  bound : List Bound := []
  reads : List (Nat × Nat) := []
  /-- Operand rows that a matrix command has read, by address (R211, R236). -/
  rows : List (Nat × List Byte) := []
  /-- It has started and has not read its operands: it does so in the next cycle (R222, R240, log 7). -/
  fresh : Bool := false
  /-- Packets of it were lost with a binding that broke (R331, R350, R351). -/
  lost : Bool := false
  deriving DecidableEq, Repr

/-- A buffer descriptor (R318). -/
structure Buf where
  en : Bool
  pub : Nat
  hid : Nat
  size : Nat
  g : Bool
  deriving DecidableEq, Repr, Inhabited

/-- An entry of the scatter window (R348). -/
structure XEnt where
  ctx : Nat
  index : Nat
  hdr : Syl
  base : Nat
  stm : Nat
  val : Nat
  /-- The target is a reduction group: .add is kept in 64 bits (R348). -/
  grp : Bool
  /-- Cycle of the last merge; pairs merged. -/
  last : Nat
  pairs : Nat
  /-- The order number of the command that made it, and the endpoint of a remote target. -/
  ord : Nat := 0
  tgt : Option Endpoint := none
  deriving DecidableEq, Repr, Inhabited

/-! ## The lead (R40 to R58, R250 to R253, R421) -/

/-- Why a line could not be fetched (R50): the cause, its status and the line's address. -/
structure FetchFail where
  cause : Nat
  status : Nat
  line : Nat
  deriving DecidableEq, Repr, Inhabited

/-- One half of a loop buffer (R41): the syllables read so far from the record on, in fetch order. -/
structure Half where
  valid : Bool
  addr : Nat
  syls : List Syl
  fail : Option FetchFail
  /-- The earliest cycle in which the next line returns, while the half is being fetched. -/
  next : Option Nat
  deriving DecidableEq, Repr, Inhabited

/-- The decisions of the lead for one bundle (R421): edge or transfer taken, the in bit, the result of its B
slot, the target of a taken transfer, CALL's return position, and the operands that the lead reads for the
whole caravan (R24, R254). -/
structure Decision where
  taken : Bool
  inBit : Bool
  res : Option Nat
  tgt : Pos
  ret : DWord
  val : DWord
  val2 : DWord
  deriving DecidableEq, Repr, Inhabited

/-- An issued bundle, as the history and the followers see it (R55, R421). -/
structure Issued where
  no : Nat
  pos : Pos
  baddr : Nat
  /-- Cycles from the context's previous bundle (R55); the history saturates it at 255 (`Issued.kept`). -/
  spacing : Nat
  dec : Decision
  slots : List (Slot × Instr)
  /-- Syllables of the bundle's headers, for the save area (R486 HDR). -/
  hdrs : List (Slot × Syl)
  /-- This is the first idle bundle before a delayed bundle: the slots whose rows are read now (R180). -/
  pre : List (Slot × Instr)
  /-- This is an idle bundle before a delayed bundle, at its position (R180, R268, R388). -/
  ahead : Bool := false
  deriving DecidableEq, Repr

/-- Why a context is being stopped: a trap of a tile, or a cause of kind C, N, P or I with its record tile. -/
structure Stop where
  info : TrapInfo
  tile : Nat
  deriving DecidableEq, Repr, Inhabited

/-- Where a stream stands. The idle offset is the lead's own: 0 names the bundle itself, k its k-th idle bundle;
`State.outPos` gives the position of R40. -/
structure Flow where
  pos : Pos
  /-- Pending transfer: target, if it is taken, and delay positions still to run (R56, R58). -/
  pend : Option (Option Pos × Nat)
  /-- The position was given by a register, a record or a save area: it is checked before it issues (R115). -/
  chk : Bool
  /-- Loop head to go to after the idle count (R116). -/
  edge : Option Nat
  /-- What takes effect after the idle count: 0 nothing, 1 YIELD, 2 EXIT, 3 ERET (R120, R121, R426). -/
  after : Nat
  /-- TRAP n takes effect after the idle count (R434). -/
  trapN : Option Nat
  /-- Idle bundles already issued before a LAUNCH, TTSTART, RNGSET or gather by port (R180, R268, R388). -/
  pre : Nat
  deriving DecidableEq, Repr, Inhabited

/-- What a handler interrupted (R425, R426): history, place, issue number. -/
structure Saved where
  hist : List Issued
  flow : Flow
  no : Nat
  exitPh : Nat
  deriving DecidableEq, Repr, Inhabited

/-- The stream of one context at its lead tile. -/
structure Lead where
  h0 : Half
  h1 : Half
  /-- Which half is current. -/
  sel : Bool
  flow : Flow
  no : Nat
  hist : List Issued
  /-- Issue number from which the history is being reissued (R422). -/
  re : Option Nat
  lastAt : Nat
  /-- 0 running; 1 EXIT issued, waiting for commands; 2 applying the window; 3 waiting for acknowledgements. -/
  exitPh : Nat
  /-- A trap signal or a pre-emption has stopped issue. -/
  halted : Bool
  stop : Option Stop
  /-- Signals under way: arrival cycle and tile. -/
  sigs : List (Nat × Nat)
  saved : Option Saved
  /-- An isolation instruction has acted and waits for the accesses of before that cycle (R390). -/
  isol : Option Nat
  /-- A CTXSAVE or CTXLOAD has started; then what it met (R438). -/
  sysGo : Bool
  sysRes : Option (Option TrapInfo)
  /-- The priority class (R251). -/
  prio : Nat
  /-- The last record written for the context (R440). -/
  lrec : List DWord
  deriving DecidableEq, Repr, Inhabited

/-! ## Contexts -/

/-- The life of a context on its tiles (R249, R427, R444). -/
inductive CtxSt where
  | absent | clearing | ready | stopped | damaged | ended
  deriving DecidableEq, Repr, Inhabited

/-- Registers of a context, with writes in flight (R88 to R90, R157, R161, R199). -/
structure Regs where
  s : FMap DWord
  p : FMap (BitVec 1)
  k : FMap Mask
  q : FMap Row
  o : FMap VReg
  sW : List (PWrite 64)
  pW : List (PWrite 1)
  kW : List (PWrite 1024)
  qW : List (PWrite 512)
  oW : List (PWrite 8192)
  /-- Writes in flight to main-file registers, by number after renaming (R89). -/
  vW : List (PWrite 8192)
  fsr : BitVec 8
  fW : List FlagW
  voff : Nat
  soff : Nat
  late : List Late
  deriving DecidableEq, Repr, Inhabited

/-- Engine-side state of a context (R59 to R63, R208, R224, R233, R346). -/
structure EngSt where
  /-- Staging registers by set × 64 + engine × 16 + index, and MOVSTG writes in flight. -/
  stg : FMap DWord
  stgW : List (PWrite 64)
  fill : BitVec 4
  busy : BitVec 8
  queue : List Cmd
  count : FMap Nat
  mrs : FMap DWord
  msat : Bool
  mvalid : Bool
  mprog : Nat
  sqA : List (BitVec 128)
  sqB : List (BitVec 128)
  /-- The started XCFG: header, BASE, LIMIT, RET and xst3; an XCFG has been committed. -/
  xcfg : Option (Syl × List DWord)
  xcommitted : Bool
  /-- XFLUSHes and XFETCHes entered before this place in the tile's order wait for updates that were lost with a binding
  closed before it broke (R350, R351). -/
  lostTo : Nat
  deriving DecidableEq, Repr, Inhabited

/-- Trap-handling state of a context at one tile (R428). -/
structure TrapSt where
  tvec : DWord
  tdeleg : DWord
  hm : Bool
  trapped : Bool
  dmg : Bool
  trec : List DWord
  trpos : DWord
  tscr : FMap DWord
  /-- The record of this tile's first cause while the caravan stops (R420, R423). -/
  cur : Option Rec
  /-- A later cause of the same stop withholds bundles here: it is met anew when the tile resumes (R423). -/
  stuck : Bool
  /-- The first bundle not executed here when a handler was entered (R420, R425, R426). -/
  resume : Nat
  deriving DecidableEq, Repr, Inhabited

/-- One context at one tile. -/
structure Ctx where
  st : CtxSt
  r : Regs
  e : EngSt
  t : TrapSt
  ports : FMap Port
  streams : FMap Stream
  /-- Logical granule to physical granule (R255). -/
  gran : FMap Nat
  tagm : DWord
  bbud : Nat
  banks : BitVec 64
  parks : BitVec 128
  /-- 0 none, 1 requested, 2 held (R261). -/
  lease : Nat
  wid : DWord
  /-- Issue number of the first bundle not executed here (R420 step 4). -/
  nextNo : Nat
  lastAt : Nat
  /-- Bundles under way and in the latch: issue number and arrival cycle (R252). -/
  inbox : List (Nat × Nat)
  latch : List (Nat × Nat)
  /-- Stop received from downstream, and stop raised towards upstream (R253). -/
  stopIn : List Nat
  stopOut : Bool
  /-- RLDs whose value has not landed: the next bundle waits (R329). -/
  rld : List Nat
  /-- Tile clock in which its last scratchpad access performs (R266). -/
  acc : Nat
  /-- Rows read in the cycles before a delayed bundle, by slot number (R180, R268, R388). -/
  early : FMap VReg
  /-- The holds under way: kind and first cycle (R298). -/
  hold : FMap Nat
  /-- A FENCE or a stop of the context asks that its window entries be applied (R343, R348). -/
  evict : Bool
  lead : Lead
  deriving DecidableEq, Repr, Inhabited

/-! ## Tiles -/

/-- A change of a semaphore not yet applied (R336): a set (its context) or an increment. -/
structure SemOp where
  cycle : Nat
  sem : Nat
  set : Option Nat
  val : Nat
  /-- A slot of the tile has issued it: it waits while the tile's pipelines are held (R283). -/
  own : Bool := false
  deriving DecidableEq, Repr, Inhabited

/-- A barrier at one tile (R264 to R266). -/
structure Bar where
  cfg : Option DWord
  phase : Nat
  /-- Context to the phase number after that in which it last arrived, and the cycle of the arrival. -/
  arr : FMap (Nat × Nat)
  /-- Every participant has arrived in the current phase: the cycle in which this tile sees it (R266). -/
  shows : Option Nat
  deriving DecidableEq, Repr, Inhabited

/-- A row on its way into a FIFO (R340): the cycle from which it is there. -/
structure FifoRow where
  cycle : Nat
  dir : Nat
  ctx : Nat
  row : Row
  /-- Number of the writing (log 6). -/
  id : Nat := 0
  deriving DecidableEq, Repr, Inhabited

/-- A matrix operand miss (R283): address, write, pipe, context, whether the shadow context runs, its
entries so far. -/
structure Miss where
  va : Nat
  write : Bool
  pipe : Nat
  ctx : Nat
  since : Nat
  kind : Nat
  /-- The status word of the fault: its kind, and the bit of a malformed entry (R381). -/
  status : Nat
  entries : Nat
  shadow : Bool
  /-- The fault is unresolved (R285): the command ends before the unit that needs the address. -/
  declined : Bool
  /-- Cause that ended the handler by a trap or an instruction it may not execute (R284). -/
  sf : Option Nat
  deriving DecidableEq, Repr, Inhabited

/-- One tile. -/
structure Tile where
  /-- The caravan that occupies the tile. -/
  occ : Option Nat
  pend : List PStore
  tags : DWord
  out : FMap Nat
  bufs : FMap Buf
  sems : FMap (BitVec 32)
  semQ : List SemOp
  bars : FMap Bar
  fifo : FMap (List (Nat × Row))
  fifoIn : List FifoRow
  /-- Pops that the sender has not learned of (R339): cycle, direction, context, rows. -/
  pops : List (Nat × Nat × Nat × Nat)
  /-- Main vector pool by physical register (R20). -/
  pool : FMap VReg
  /-- Physical granules released but not yet free, with their cycle (R256). -/
  granDue : List (Nat × Nat)
  /-- Cycle in which the clear engine has paid its debt (R255). -/
  clearAt : Nat
  /-- Matrix lease (R262): holder, commands started under the grant, last holder. -/
  holder : Option Nat
  started : Nat
  lastHolder : Option Nat
  runs : List Run
  window : List XEnt
  retx : List Pkt
  tseq : BitVec 32
  lasid : Option Nat
  scrubAt : Nat
  /-- Cycles in which the tile's exposed pipelines were held (R283): its clock's lag. -/
  lag : Nat
  miss : Option Miss
  /-- Lead only: current context, since when, vector slots in use (slot, context, end of interval). -/
  cur : Nat
  curAt : Nat
  vbusy : List (Nat × Nat × Nat)
  /-- Lead only: the timetable cycle in which it last issued (R272, R278). -/
  ttAt : Option Nat
  /-- Lead only: one more than the cycle in which its prefetch engine last expanded a line (R42). -/
  fetchAt : Nat
  /-- The micro-TLB (R385): ASID and page of its entries, newest first; their contents are the die's (log 9). -/
  micro : List (Nat × Nat)
  /-- The translation that the general stream has outstanding (R385): who asked (as in `piped`), ASID, page, first
  cycle. -/
  gen : Option (Nat × Nat × Nat × Nat)
  /-- The translation that the other of the matrix load pipes A and B has outstanding beside a miss (R385): ASID, page, first
  cycle. -/
  pipeB : Option (Nat × Nat × Nat)
  /-- Pages translated for an access that has not begun (log 91): 0 a slot's or a line of code, 1 a command of the general
  stream, 2 a matrix command; ASID, page. -/
  piped : List (Nat × Nat × Nat)
  /-- Own-scratchpad bytes overwritten in the last cycles by others than the slots, while a slot's reads are under way:
  the cycle, the storage key, the byte as it was (log 6). -/
  undo : List (Nat × Nat × Byte)
  /-- Closes of the last 2^20 cycles by contexts that have left the tile, by 16 × context + stream (R338). -/
  closes : FMap (List Nat)
  deriving DecidableEq, Repr, Inhabited

/-! ## Dies -/

/-- A queued waybill (R243). -/
structure QEnt where
  no : Nat
  img : List Byte
  deriving DecidableEq, Repr, Inhabited

/-- A waybill with placed caravans (R245, R246). -/
structure Wb where
  no : Nat
  img : List Byte
  placed : Nat
  /-- Caravans whose last context has ended. -/
  ended : Nat
  /-- Aborted under R282: no counter advances. -/
  aborted : Bool
  deriving DecidableEq, Repr, Inhabited

/-- A placed caravan. -/
structure Car where
  wb : Nat
  idx : Nat
  row : Nat
  col : Nat
  h : Nat
  w : Nat
  nctx : Nat
  asid : Nat
  mode : Nat
  fo : Bool
  prio : Nat
  lease : Nat
  readyAt : Nat
  /-- Contexts that have ended. -/
  done : List Nat
  deriving DecidableEq, Repr, Inhabited

/-- A depot slot (R293): free, filling, published; releases counted; rehaul asked (R455). -/
structure DepotSlot where
  st : Nat
  rel : Nat
  group : Nat
  rehaul : Bool
  deriving DecidableEq, Repr, Inhabited

/-- A haul list being served (R291 to R296). -/
structure Haul where
  wb : Nat
  asid : Nat
  rtgt : Nat
  nslot : Nat
  slotLg : Nat
  depot : Nat
  ent : Nat
  nent : Nat
  /-- Next entry and next group. -/
  nextEnt : Nat
  group : Nat
  slots : FMap DepotSlot
  /-- Cycle in which the group being filled is written. -/
  busy : Option Nat
  failed : Bool
  deriving DecidableEq, Repr, Inhabited

/-- A timetable domain at one die (R271 to R282). -/
structure Timetable where
  queue : Nat
  entNo : Nat
  key : Nat
  domain : Nat
  pod : Bool
  len : Nat
  issue : Nat
  istr : Nat
  rsd : Nat
  xbar : Nat
  /-- 0 waiting for its tiles, 1 armed, 2 started (S known), 3 running, 4 aborted. -/
  phase : Nat
  start : Nat
  /-- Scrubs of the fixed positions end here (R392). -/
  scrubAt : Nat
  /-- Departure entries already used; crossbar beats already used, 256 × entry + beat (log 96). -/
  depUsed : List Nat
  xbarUsed : List Nat
  /-- Issue-list entry that each caravan has reached. -/
  iptr : FMap Nat
  deriving DecidableEq, Repr, Inhabited

/-- The resolution of an import slot for one 4 KiB page (R394): a reduction group (KIND 1) or memory of a die,
the rights read, write, atomic in bits 2 to 0, and the page's address at the target. -/
structure Imp where
  group : Bool
  rights : Nat
  tasid : Nat
  module : Nat
  die : Nat
  base : Nat
  grp : Nat
  deriving DecidableEq, Repr, Inhabited

/-- The complete result of a translation of one 4 KiB page (R382, R385): aperture, physical address of the
page, attributes, and the import slot of a peer page. -/
structure XRes where
  aper : Nat
  addr : Nat
  attr : BitVec 8
  imp : Option Imp
  /-- log2 of the page that the leaf covers (R389). -/
  lg : Nat
  deriving DecidableEq, Repr, Inhabited

/-- A cached translation (R385, R386). -/
structure TlbEnt where
  asid : Nat
  page : Nat
  res : XRes
  deriving DecidableEq, Repr, Inhabited

/-- A save or load under way (R438): the target, the keys of the area's blocks, the address of the first, when it
ends, the lead and context whose bundle waits (lead 512 for the command of the control window; none where nothing
waits any more), SEQ, and the bytes that a save writes. -/
structure SaveOp where
  load : Bool
  lead : Nat
  ctx : Nat
  keys : List Nat
  addr : Nat
  done : Nat
  waiter : Option (Nat × Nat)
  seq : Nat
  img : List Byte
  /-- The ASID that translated the area's addresses, none for die-physical ones, and when it started (R390). -/
  asid : Option Nat
  since : Nat
  /-- The wait of a bundle with other slots, which does nothing yet: the save or load is made as the bundle issues (R64). -/
  dry : Bool
  deriving DecidableEq, Repr, Inhabited

/-- One queue window (R406). -/
structure QWin where
  staging : List Byte
  refused : Bool
  err : Bool
  lastent : Nat
  errent : Nat
  deriving DecidableEq, Repr, Inhabited

/-- One compute die. -/
structure Die where
  enabled : Bool
  ttc : Nat
  inc : Nat
  /-- Incarnation learned of each source die, by module × 4 + die (R333). -/
  incOf : FMap Nat
  queues : FMap (List QEnt)
  entNo : Nat
  qwin : FMap QWin
  ccnt : FMap (BitVec 32)
  /-- Registers of the control window by offset (R299, R334, R405, R445, R458). -/
  ctl : FMap DWord
  wbs : FMap Wb
  cars : FMap Car
  carNo : Nat
  /-- Cycle of the last free or replay placement (R246). -/
  lastPlace : Option Nat
  /-- RES (R246): owner, row, column, height, width. -/
  res : Option (Nat × Nat × Nat × Nat × Nat)
  tt : Option Timetable
  /-- The freeze under way: hold kind and first cycle (R278, R279). -/
  freeze : Option (Nat × Nat)
  /-- TTC of the other dies as learned: die to (TTC, cycle learned) (R279). -/
  ttcOf : FMap Nat
  hauls : List Haul
  haulTurn : Nat
  tlb : List TlbEnt
  saves : List SaveOp
  /-- Contexts that a PREQ request still waits for: lead and context (R287). -/
  preq : List (Nat × Nat)
  /-- Entries of the replay source at or past RPTR that have been used (R463). -/
  rdone : List Nat
  /-- Cycle in which RPTR last moved, or replayed work last started (R464). -/
  rsince : Nat
  /-- Cycle of the INVCMD under way (R390, R405). -/
  inv : Option Nat
  deriving DecidableEq, Repr, Inhabited

/-! ## The package -/

/-- A reduction round of one group (R402, R403). -/
structure Round where
  /-- Element to its partial: a quire image, or an S64. -/
  parts : FMap Nat
  markers : Nat
  children : List Nat
  /-- The partials have gone to the parent, and the results have not come (R403). -/
  sent : Bool
  deriving DecidableEq, Repr, Inhabited

/-- Another package of a pod, as this one has learned it over Kendom, 16 cycles behind (R280): its TTC, and the KEY with
which all its dies of a domain have armed. -/
structure PodPeer where
  ttc : Nat
  key : Option Nat
  deriving DecidableEq, Repr, Inhabited

/-- The collective die and the host side. -/
structure Coll where
  /-- Management window by offset (R407), and RGTAB in doublewords. -/
  mgmt : FMap DWord
  /-- The role with which each external port last trained (R407). -/
  trained : FMap Nat
  /-- Incarnation learned of each source die, by module × 4 + die, for the endpoints of this die (R333). -/
  incOf : FMap Nat
  rounds : FMap Round
  nextRounds : FMap Round
  /-- Reduction values that have left by Kendom ports: port, group, values; oldest first (R403). -/
  kout : List (Nat × Nat × List Nat)
  image : List Byte
  flash : List Byte
  report : List Byte
  /-- Incarnation values that the board's controller holds (R411). -/
  boardInc : FMap Nat
  /-- Retries in a row of a link (R452): external ports 0 to 35, die links 36 to 39, and 64 + 4 × (512 × die + tile) +
  direction for the link over which the FIFO of a tile in a direction receives. -/
  linkRetry : FMap Nat
  linkDown : List Nat
  /-- Die links that trained at 16 GT/s (R408). -/
  slow : List Nat
  /-- The other packages of the pod, by module number (R280, log 97). -/
  pod : FMap PodPeer
  /-- KEYs whose timetable or schedule has been found invalid, each with a die of its domain that has not armed with it yet: its
  waybill is invalid too (R271, R399). -/
  badKeys : List (Nat × Nat)
  deriving DecidableEq, Repr, Inhabited

/-- The place a slot instruction executes at, and what the bundle around it needs. -/
structure Focus where
  die : Nat
  tile : Nat
  ctx : Nat
  slot : Slot
  no : Nat
  baddr : Nat
  pos : Pos
  /-- The syllable as it issued, for a command's HDR. -/
  hdr : Syl
  dec : Decision
  deriving DecidableEq, Repr

/-- An executed slot whose scratchpad rows are read in later cycles (R101, R167, R181): what it was executed on, up to
which clock it reads, the slots that run early (R180, R268, R388), the number of its first free value, and the buffers to
whose halves its reads are bound (R321). Its results are computed again as its rows are read (log 6). -/
structure LateOp where
  focus : Focus
  instr : Instr
  ctx : Ctx
  tile : Tile
  at' : Nat
  last : Nat
  early : Bool
  free : Nat
  bufs : FMap Buf
  deriving DecidableEq, Repr

/-- A soft error that the world has put into the machine and that nothing has found yet (R447, R449, log 90). -/
inductive Upset where
  /-- In the 64-byte unit of memory that holds a key; ECC corrects it or does not. -/
  | unit (key : Nat) (fixable : Bool)
  /-- In a syllable of the loop buffer: the die, the lead, the context, the address of the record, the syllable. -/
  | code (die lead ctx addr syl : Nat)
  /-- In the buffer behind the CRC check of the links of a tile: of the next row from elsewhere that is written to its
  scratchpad. -/
  | buffer (die tile : Nat)
  /-- In the haulier's reformat path, or an LPDDR6 line that the ECC cannot correct: the die and the die-physical address
  of the granule of the depot. -/
  | haul (die addr : Nat)
  /-- The next operand that an engine of a tile reads from elsewhere arrives some cycles after its timetabled latency (R276);
  it is awaited. -/
  | late (die tile cycles : Nat) (awaited : Bool)
  deriving DecidableEq, Repr

/-- The whole machine. `agenda` lists the rows that happen next (log 5). -/
structure State where
  power : Bool
  frozen : Bool
  now : Nat
  agenda : List Instr
  focus : Focus
  freeCtr : Nat
  flitNo : Nat
  mem : Memory
  poison : List Nat
  /-- Soft errors not found yet (R447). -/
  upsets : List Upset
  /-- Slots whose scratchpad reads are under way. -/
  lates : List LateOp
  ctxs : FMap Ctx
  tiles : FMap Tile
  dies : FMap Die
  trackers : FMap Tracker
  net : List InFlight
  coll : Coll
  /-- What the last host read, debug read or attestation returned. -/
  hostOut : List Byte
  /-- MSI-X messages raised: function and vector, newest first. -/
  msix : List (Nat × Nat)
  deriving DecidableEq, Repr

/-- The focus before anything executes: DESIGN CHOICE (log 5). -/
def Focus.none : Focus :=
  ⟨0, 0, 0, .s0, 0, 0, ⟨0, 0, 0⟩, 0, default⟩

/-- A die right after its reset (R299, R405, R411): QUANTUM 0x100, JRNVER and SAVEVER 2, all else 0;
`enabled` says that the firmware has enabled its function (R409). -/
def Die.afterReset (enabled : Bool) (inc : Nat) : Die :=
  { (default : Die) with
    enabled := enabled, inc := inc, ctl := [(0x0000, 0x100), (0x00B0, 0x22)] }

/-- PHYSMAP (R407): the live dies in ascending physical order past the harvested position (R16, log 15). -/
def physmap (harv : Nat) : DWord :=
  let pd (d : Nat) : Nat := if d < harv then d else d + 1
  BitVec.ofNat 64 (harv * 4096 + pd 3 * 512 + pd 2 * 64 + pd 1 * 8 + pd 0)

/-- The collective die right after a module reset: VERS and PHYSMAP, BOOTST 0 (boot ROM), all else 0. -/
def Coll.afterReset : Coll :=
  { (default : Coll) with
    mgmt := [(0x0000, Config.vers), (0x0008, physmap Config.harvested)] }

/-- The machine right after reset (R411): powered, TTC 0, queues empty, counters zero, memory unlisted. -/
def State.reset : State :=
  { power := true, frozen := false, now := 0, agenda := [], focus := Focus.none, freeCtr := 0,
    flitNo := 0, mem := [], poison := [], upsets := [], lates := [], ctxs := [], tiles := [],
    dies := [(0, Die.afterReset false 0), (1, Die.afterReset false 0), (2, Die.afterReset false 0),
      (3, Die.afterReset false 0)],
    trackers := [], net := [], coll := Coll.afterReset, hostOut := [], msix := [] }

end Sys2Proof.Machine
end

