-- ==== Sys2Proof/Machine/Ops.lean ====
section
/-! DEFINITION. The named operations over the state: places, registers with their bounds, memory, flags,
taking a trap and its stop. -/

namespace Sys2Proof.Machine

/-! ## Places -/

/-- Key of a tile. -/
def tileKey (die tile : Nat) : Nat := die * 512 + tile
/-- Key of a context at a tile; context 4 is the shadow context (R284). -/
def ctxKey (die tile ctx : Nat) : Nat := tileKey die tile * 8 + ctx

/-- A die. -/
def State.die (s : State) (d : Nat) : Die := s.dies.get d
/-- A tile. -/
def State.tile (s : State) (d t : Nat) : Tile := s.tiles.get (tileKey d t)
/-- A context at a tile. -/
def State.ctx (s : State) (d t c : Nat) : Ctx := s.ctxs.get (ctxKey d t c)
/-- Replace a die. -/
def State.setDie (s : State) (d : Nat) (v : Die) : State := { s with dies := s.dies.set d v }
/-- Replace a tile. -/
def State.setTile (s : State) (d t : Nat) (v : Tile) : State :=
  { s with tiles := s.tiles.set (tileKey d t) v }
/-- Replace a context. -/
def State.setCtx (s : State) (d t c : Nat) (v : Ctx) : State :=
  { s with ctxs := s.ctxs.set (ctxKey d t c) v }
/-- Change a die. -/
def State.modDie (s : State) (d : Nat) (f : Die → Die) : State := s.setDie d (f (s.die d))
/-- Change a tile. -/
def State.modTile (s : State) (d t : Nat) (f : Tile → Tile) : State := s.setTile d t (f (s.tile d t))
/-- Change a context. -/
def State.modCtx (s : State) (d t c : Nat) (f : Ctx → Ctx) : State := s.setCtx d t c (f (s.ctx d t c))

/-- A register of a die's control window. -/
def State.ctl (s : State) (d off : Nat) : DWord := (s.die d).ctl.get off
/-- Set a register of a die's control window. -/
def State.setCtl (s : State) (d off : Nat) (v : DWord) : State := s.modDie d fun x => { x with ctl := x.ctl.set off v }
/-- Add 1 to a counter of the control window. -/
def State.incCtl (s : State) (d off : Nat) : State := s.setCtl d off (s.ctl d off + 1)
/-- Phase of a die's timetable; 0 where it has none. -/
def State.ttPhase (s : State) (d : Nat) : Nat := ((s.die d).tt.map fun (t : Timetable) => t.phase).getD 0
/-- The die is one of a running domain (R270). -/
def State.tracking (s : State) (d : Nat) : Bool := s.ttPhase d == 3 || s.ttPhase d == 5
/-- A retry or correction on a timed path: the die may not act in this cycle (R278). -/
def State.freezeFor (s : State) (d : Nat) : State :=
  if s.tracking d && (s.die d).freeze.isNone then s.modDie d fun x => { x with freeze := some (10, s.now) } else s

/-- The context in focus. -/
def State.fctx (s : State) : Ctx := s.ctx s.focus.die s.focus.tile s.focus.ctx
/-- The tile in focus. -/
def State.ftile (s : State) : Tile := s.tile s.focus.die s.focus.tile
/-- The die in focus. -/
def State.fdie (s : State) : Die := s.die s.focus.die
/-- Change the context in focus. -/
def State.modF (s : State) (f : Ctx → Ctx) : State := s.modCtx s.focus.die s.focus.tile s.focus.ctx f
/-- Change the tile in focus. -/
def State.modFT (s : State) (f : Tile → Tile) : State := s.modTile s.focus.die s.focus.tile f
/-- Change the registers of the context in focus. -/
def State.modR (s : State) (f : Regs → Regs) : State := s.modF fun c => { c with r := f c.r }
/-- Change the engine state of the context in focus. -/
def State.modE (s : State) (f : EngSt → EngSt) : State := s.modF fun c => { c with e := f c.e }

/-- A tile's own clock: cycles in which its pipelines were not held (R52, R283). -/
def State.clock (s : State) (d t : Nat) : Nat := s.now - (s.tile d t).lag
/-- The clock that the focus runs by: its tile's, or for the shadow context, which runs while the tile is held, the
time itself (R284). -/
def State.t (s : State) : Nat := if s.focus.ctx = 4 then s.now else s.clock s.focus.die s.focus.tile

/-- The tile clock of the focus, by which its reads of the scratchpad are dated. -/
def State.tt (s : State) : Nat := s.clock s.focus.die s.focus.tile
/-- The clock that an executed slot runs by, as `State.t`. -/
def State.clockOf (s : State) (f : Focus) : Nat := if f.ctx = 4 then s.now else s.clock f.die f.tile
/-- The next free value number (log 3). -/
def State.bump (s : State) : State := { s with freeCtr := s.freeCtr + 1 }

/-! ## Caravans -/

/-- The caravan on a tile. -/
def State.car (s : State) (d t : Nat) : Car := (s.die d).cars.get ((s.tile d t).occ.getD 0)
/-- The tile index of a caravan's lead (R19). -/
def Car.leadTile (c : Car) : Nat := 32 * c.row + c.col
/-- The tiles of a caravan in row-major order. -/
def Car.tiles (c : Car) : List Nat :=
  (upFrom 0 c.h).flatMap fun i => (upFrom 0 c.w).map fun j => 32 * (c.row + i) + c.col + j
/-- Row of a tile within the caravan. -/
def Car.crow (c : Car) (t : Nat) : Nat := t / 32 - c.row
/-- Column of a tile within the caravan. -/
def Car.ccol (c : Car) (t : Nat) : Nat := t % 32 - c.col
/-- Hops from the lead (R23). -/
def Car.hops (c : Car) (t : Nat) : Nat := c.crow t + c.ccol t
/-- A tile lies in the caravan. -/
def Car.has (c : Car) (t : Nat) : Bool :=
  c.row ≤ t / 32 && t / 32 < c.row + c.h && c.col ≤ t % 32 && t % 32 < c.col + c.w
/-- The lead tile of the caravan in focus. -/
def State.flead (s : State) : Nat := (s.car s.focus.die s.focus.tile).leadTile
/-- The focus is at the lead tile of its caravan, or belongs to the shadow context, which leads itself. -/
def State.atLead (s : State) : Bool := s.focus.tile == s.flead || s.focus.ctx == 4
/-- The stream of the context in focus at its lead. -/
def State.lead (s : State) (d l c : Nat) : Lead := (s.ctx d l c).lead
/-- Change the stream of a context at its lead. -/
def State.modLead (s : State) (d l c : Nat) (f : Lead → Lead) : State :=
  s.modCtx d l c fun x => { x with lead := f x.lead }
/-- Change a context at every tile of its caravan. -/
def State.modCar (s : State) (d : Nat) (car : Car) (c : Nat) (f : Ctx → Ctx) : State :=
  car.tiles.foldl (fun s t => s.modCtx d t c f) s
/-- The caravan runs timetabled (MODE 01). -/
def Car.timed (c : Car) : Bool := c.mode == 1

/-! ## Registers and their bounds (R52, R53, R88, R89) -/

/-- Replace the bits of a mask. -/
def mix {w : Nat} (m v a : BitVec w) : BitVec w := (a &&& ~~~m) ||| (v &&& m)

/-- A write has closed for a read at clock t (R52). -/
def PWrite.closed {w : Nat} (p : PWrite w) (reg t : Nat) : Bool := p.reg == reg && p.t0 + p.bound < t
/-- A write is open for a read at clock t: its destination is unspecified (R52). -/
def PWrite.isOpen {w : Nat} (p : PWrite w) (reg t : Nat) : Bool :=
  p.reg == reg && p.t0 < t && t ≤ p.t0 + p.bound

/-- The writes that have closed, in issue order (R53). -/
def landed {w : Nat} (l : List (PWrite w)) (reg t : Nat) (a : BitVec w) : BitVec w :=
  l.foldl (fun a p => if p.closed reg t then mix p.mask p.val a else a) a
/-- Bits under an open write read as its free value (R7). -/
def unspec {w : Nat} (l : List (PWrite w)) (reg t : Nat) (a : BitVec w) : BitVec w :=
  l.foldl (fun a p => if p.isOpen reg t then mix p.mask (Config.freeBits w p.free) a else a) a
/-- What a register reads as at clock t (R52, R53). -/
def readW {w : Nat} (base : BitVec w) (l : List (PWrite w)) (reg t : Nat) : BitVec w :=
  unspec l reg t (landed l reg t base)
/-- What a register holds when all that was issued has landed. -/
def settle {w : Nat} (base : BitVec w) (l : List (PWrite w)) (reg : Nat) : BitVec w :=
  l.foldl (fun a p => if p.reg == reg then mix p.mask p.val a else a) base

/-- Physical number of a logical predicate (R89). -/
def physP (soff n : Nat) : Nat := if n < 8 then n else 8 + (n - 8 + 8 - soff % 8) % 8
/-- Number of a logical main-file register after renaming (R89). -/
def physV (voff n : Nat) : Nat := if n < 96 then n else 96 + (n - 96 + 32 - voff % 32) % 32

/-- Scalar register n of a context at clock t; s0 reads as zero (R88). -/
def Regs.readS (r : Regs) (t n : Nat) : DWord := if n = 0 then 0 else readW (r.s.get n) r.sW n t
/-- Predicate n; p0 reads as 1 (R89). -/
def Regs.readP (r : Regs) (t n : Nat) : Bool :=
  if n = 0 then true
  else readW (r.p.get (physP r.soff n)) r.pW (physP r.soff n) t == 1
/-- Mask n. -/
def Regs.readK (r : Regs) (t n : Nat) : Mask := readW (r.k.get n) r.kW n t
/-- Quire n. -/
def Regs.readQ (r : Regs) (t n : Nat) : Row := readW (r.q.get n) r.qW n t
/-- Operand-file register n. -/
def Regs.readO (r : Regs) (t n : Nat) : VReg := readW (r.o.get n) r.oW n t

/-- Read a scalar register at the focus. -/
def State.rs (s : State) (n : BitVec 6) : DWord := s.fctx.r.readS s.t n.toNat
/-- Read a predicate at the focus. -/
def State.rp (s : State) (n : BitVec 4) : Bool := s.fctx.r.readP s.t n.toNat
/-- Read a mask at the focus. -/
def State.rk (s : State) (n : Nat) : Mask := s.fctx.r.readK s.t n
/-- Read a quire at the focus. -/
def State.rq (s : State) (n : Nat) : Row := s.fctx.r.readQ s.t n
/-- Read an operand-file register at the focus. -/
def State.ro (s : State) (n : Nat) : VReg := s.fctx.r.readO s.t n
/-- Physical register of the pool that holds a renamed main-file register (R158, R242). -/
def Ctx.poolReg (c : Ctx) (v : Nat) : Nat := c.gran.get (v / 8) * 8 + v % 8
/-- The context holds the granule of a renamed main-file register (R158). -/
def Ctx.holdsV (c : Ctx) (v : Nat) : Bool := (c.gran.find? (v / 8)).isSome
/-- Read a main-file register, by its number after renaming, at the focus. -/
def State.rv (s : State) (v : Nat) : VReg :=
  readW (s.ftile.pool.get (s.fctx.poolReg v)) s.fctx.r.vW v s.t

/-- The guard of R79. -/
def State.guard (s : State) (pg : BitVec 4) (pn : Bool) : Bool := s.rp pg != pn

/-- The write that an instruction of the focus issues now. -/
def State.pw {w : Nat} (s : State) (reg : Nat) (mask val : BitVec w) (bound : Nat) : PWrite w :=
  ⟨reg, mask, val, s.t, bound, s.freeCtr, false⟩

/-- Write a scalar register with a bound; a write to s0 is discarded (R88). -/
def State.ws (s : State) (n : BitVec 6) (v : DWord) (bound : Nat) : State :=
  if n.toNat = 0 then s
  else (s.modR fun r => { r with sW := r.sW ++ [s.pw n.toNat (BitVec.allOnes 64) v bound] }).bump
/-- Write a predicate with a bound; a write to p0 is discarded (R89). -/
def State.wp (s : State) (n : BitVec 4) (v : Bool) (bound : Nat) : State :=
  if n.toNat = 0 then s
  else (s.modR fun r =>
    { r with pW := r.pW ++ [s.pw (physP r.soff n.toNat) 1 (BitVec.ofBool v) bound] }).bump
/-- Write bits of a mask. -/
def State.wk (s : State) (n : Nat) (m v : Mask) (bound : Nat) : State :=
  (s.modR fun r => { r with kW := r.kW ++ [s.pw n m v bound] }).bump
/-- Write bits of an operand-file register. -/
def State.wo (s : State) (n : Nat) (m v : VReg) (bound : Nat) : State :=
  (s.modR fun r => { r with oW := r.oW ++ [s.pw n m v bound] }).bump
/-- Write bits of a main-file register, by its number after renaming. -/
def State.wv (s : State) (n : Nat) (m v : VReg) (bound : Nat) : State :=
  (s.modR fun r => { r with vW := r.vW ++ [s.pw n m v bound] }).bump

/-- End the open chain of a quire at clock t (R202): it stays unspecified up to t and closes there. -/
def cutChain (reg t : Nat) (p : PWrite 512) : PWrite 512 :=
  if p.reg == reg && p.chain && t < p.t0 + p.bound then { p with bound := t - p.t0, chain := false } else p
/-- Write a quire by an instruction that does not chain (R202). -/
def State.wq (s : State) (n : Nat) (v : Row) (bound : Nat) : State :=
  (s.modR fun r =>
    { r with qW := r.qW.map (cutChain n s.t) ++ [s.pw n (BitVec.allOnes 512) v bound] }).bump
/-- The open chain of a quire: the last write to it, if it chains and is open at clock t (R202). -/
def openChain (l : List (PWrite 512)) (reg t : Nat) : Option (PWrite 512) :=
  match (l.filter (fun p => p.reg == reg)).getLast? with
  | some p => if p.chain && t ≤ p.t0 + p.bound then some p else none
  | none => none
/-- Write a quire by QADD, QSUB or QDOT: the bound closes no earlier than that of the chain (R202). -/
def State.wqChain (s : State) (n : Nat) (v : Row) (bound : Nat) : State :=
  let close := match openChain s.fctx.r.qW n s.t with
    | some p => max (s.t + bound) (p.t0 + p.bound)
    | none => s.t + bound
  (s.modR fun r =>
    { r with qW := r.qW ++ [{ s.pw n (BitVec.allOnes 512) v (close - s.t) with chain := true }] }).bump

/-- Put a write before those of the same cycle, so that they stand after it (R160). -/
def beforeCycle {w : Nat} (l : List (PWrite w)) (p : PWrite w) : List (PWrite w) :=
  l.filter (fun x => x.t0 < p.t0) ++ p :: l.filter (fun x => p.t0 ≤ x.t0)
/-- A register's content becomes a free value from the next cycle until a write issued now or later lands
(R160, R259). -/
def State.killO (s : State) (n : Nat) : State :=
  let p := s.pw n (BitVec.allOnes 8192) (Config.freeBits 8192 s.freeCtr) 0
  (s.modR fun r => { r with oW := beforeCycle r.oW p }).bump
/-- The same for a main-file register, by its number after renaming. -/
def State.killV (s : State) (n : Nat) : State :=
  let p := s.pw n (BitVec.allOnes 8192) (Config.freeBits 8192 s.freeCtr) 0
  (s.modR fun r => { r with vW := beforeCycle r.vW p }).bump

/-- Something that takes effect for the next bundle. -/
def State.addLate (s : State) (l : Late) : State := s.modR fun r => { r with late := r.late ++ [l] }

/-! ## Flags (R90, R151) -/

/-- Number of a slot. -/
def slotNum : Slot → Nat
  | .s0 => 0 | .s1 => 1 | .v0 => 2 | .v1 => 3 | .m => 4 | .c => 5 | .e => 6 | .b => 7
/-- Number of what the focus writes now: its bundle and its slot (log 6). -/
def State.writeId (s : State) : Nat := s.focus.no * 16 + slotNum s.focus.slot
/-- OR flags into FSR when the result lands, in a cycle within the bound (R90, log 4). -/
def State.wf (s : State) (f : Flags) (bound : Nat) : State :=
  if f = 0 then s
  else (s.modR fun r => { r with fW := r.fW ++ [⟨s.t + Config.landing s.freeCtr bound, f, s.writeId⟩] }).bump

/-- FSR with the flags landed by clock t. -/
def Regs.readFsr (r : Regs) (t : Nat) : Flags :=
  r.fW.foldl (fun a f => if f.land ≤ t then a ||| f.flags else a) r.fsr

/-! ## Memory (R302, R318, R353, R450) -/

/-- Regions of the one memory: dies 0 to 3 by die-physical address, the LPDDR6 tier, host memory, accumulator
memory by tile. -/
def region : Nat := 4503599627370496
/-- Key of a die-physical address (R383). -/
def dieKey (d a : Nat) : Nat := d * region + a
/-- Key of an LPDDR6 address. -/
def tierKey (a : Nat) : Nat := 4 * region + a
/-- Key of a host address. -/
def hostKey (a : Nat) : Nat := 5 * region + a
/-- Key of a byte of a tile's accumulator memory (R20). -/
def accKey (d t off : Nat) : Nat := 6 * region + tileKey d t * 131072 + off
/-- Key of the first byte of a register of the main vector pool, by its physical number, and of an operand-file register of a
context: only their soft errors and their poison go by keys (R447). -/
def poolKey (d t reg : Nat) : Nat := 7 * region + tileKey d t * 131072 + 1024 * reg
/-- The same for an operand-file register. -/
def opKey (d t c reg : Nat) : Nat := 8 * region + tileKey d t * 131072 + 8192 * c + 1024 * reg
/-- Die-physical address of a tile's scratchpad byte (R383). -/
def padAddr (t x : Nat) : Nat := 0x10000000000 + t * 0x80000 + x
/-- Key of a scratchpad byte before redirection. -/
def padKey (d t x : Nat) : Nat := dieKey d (padAddr t x)
/-- Bytes of a scratchpad: addresses 0 to 0x5FFFF (R20). -/
def padSize : Nat := 0x60000

/-- The storage that an enabled descriptor redirects a scratchpad address to (R318). -/
def Buf.map (b : Buf) (x : Nat) : Option Nat :=
  if b.en && b.pub ≤ x && x < b.pub + b.size then
    some (if b.g then b.hid + (x - b.pub) else x)
  else if b.en && b.hid ≤ x && x < b.hid + b.size then
    some (if b.g then b.pub + (x - b.hid) else x)
  else none
/-- First descriptor that redirects an address; at most one does (R319). -/
def redirect (bufs : FMap Buf) (x : Nat) : Nat :=
  match bufs with
  | [] => x
  | (_, b) :: r => match b.map x with
    | some y => y
    | none => redirect r x
/-- Key of a scratchpad byte as accesses reach it. -/
def State.pad (s : State) (d t x : Nat) : Nat := padKey d t (redirect (s.tile d t).bufs x)

/-- The unit of poison: 64 bytes (R450). -/
def unitOf (k : Nat) : Nat := k / 64
/-- The unit of a soft error in memory. -/
def Upset.unit? : Upset → Option (Nat × Bool)
  | .unit k f => some (unitOf k, f)
  | _ => none
/-- The units that a predicate picks have been written whole: they lose their poison (R450) and their errors. -/
def State.cleanUnits (s : State) (p : Nat → Bool) : State :=
  { s with
    poison := s.poison.filter fun u => !p u
    upsets := s.upsets.filter fun x => !((x.unit?.map fun e => p e.1).getD false) }
/-- Write keyed bytes; a unit that is wholly written loses its poison (R450). -/
def State.store (s : State) (k : Nat) (bs : List Byte) : State :=
  { s.cleanUnits (fun u => k ≤ 64 * u && 64 * u + 64 ≤ k + bs.length) with mem := s.mem.writeN k bs }
/-- Read keyed bytes. -/
def State.load (s : State) (k n : Nat) : List Byte := s.mem.readN k n
/-- Units that deliver no bytes: poisoned ones, and those with an error that ECC does not correct (R447, R451). -/
def State.badUnits (s : State) : List Nat :=
  s.poison ++ s.upsets.filterMap fun x => match x.unit? with
    | some (u, false) => some u
    | _ => none
/-- A byte of a run of bytes lies in a unit. -/
def inUnit (k n u : Nat) : Bool := decide (64 * u < k + n ∧ k < 64 * u + 64)
/-- A byte of a run of bytes lies in a unit that delivers none. -/
def State.poisoned (s : State) (k n : Nat) : Bool := s.badUnits.any fun u => inUnit k n u
/-- The die that counts an error at a key (R448): that of the memory; for the tier and the host the reading one. -/
def errDie (d k : Nat) : Nat :=
  if k < 4 * region then k / region else if k < 6 * region then d else k % region / (512 * 131072)
/-- Units become poisoned. -/
def State.poisonUnits (s : State) (l : List Nat) : State :=
  { s with poison := l.eraseDups ++ s.poison.filter fun u => !l.contains u }
/-- A read finds the soft errors of the bytes that it reads (R447, R448): ECC corrects and counts one, which holds a
timetabled die (R278), or counts it and poisons the unit. -/
def State.meetAt (s : State) (d : Nat) (hit : Nat → Bool) : State :=
  s.upsets.foldl (fun s x => match x with
    | .unit k true =>
      if hit (unitOf k) then ({ s with upsets := s.upsets.erase x }.incCtl (errDie d k) 0x440).freezeFor (errDie d k) else s
    | .unit k false =>
      if hit (unitOf k) then
        { s with upsets := s.upsets.erase x, poison := unitOf k :: s.poison.filter (· != unitOf k) }.incCtl (errDie d k) 0x448
      else s
    | _ => s) s
/-- A read of keyed bytes for a die meets their errors. -/
def State.meet (s : State) (d k n : Nat) : State := if s.upsets.isEmpty then s else s.meetAt d (inUnit k n)

/-- The tile clock at which a write performs: one of the shadow context, which is dated by the time, from how far the clock is
behind. -/
def PStore.tick (p : PStore) (lag : Nat) : Nat := if p.ctx = 4 then p.cycle - lag else p.cycle
/-- The writes that perform by a cycle; a read of the shadow context finds the held contexts' writes standing still (R284). -/
def State.padDue (s : State) (d t cycle : Nat) : List PStore :=
  let tile := s.tile d t
  tile.pend.filter fun p =>
    p.tick tile.lag ≤ if s.focus.ctx = 4 && p.ctx != 4 then min cycle (s.clock d t) else cycle
/-- Own-scratchpad bytes as they stand after every write that performs by a cycle (R101, R302, log 6): memory with the
pending writes of that cycle or earlier, and without what has been written after it. -/
def State.padBytes (s : State) (d t : Nat) (cycle : Nat) (x n : Nat) : List Byte :=
  let tile := s.tile d t
  let patch := (sortBy (fun p => p.tick tile.lag * 16 + p.ctx) (s.padDue d t cycle)).flatMap (·.bytes)
  let bufs := tile.bufs
  (upFrom x n).map fun a =>
    match (patch.filter (fun e => redirect bufs e.1 == redirect bufs a)).getLast? with
    | some e => e.2
    | none =>
      let k := s.pad d t a
      match tile.undo.find? fun u => cycle < u.1 && u.2.1 == k with
      | some u => u.2.2
      | none => s.mem.read k
/-- A read of own-scratchpad bytes meets their errors. -/
def State.meetPad (s : State) (d t x n : Nat) : State :=
  if s.upsets.isEmpty then s
  else
    let units := (upFrom x n).map fun a => unitOf (s.pad d t a)
    s.meetAt d fun u => units.contains u
/-- Bytes of a scratchpad are about to be written while reads of executed slots are under way there: what they were is
kept (log 6). -/
def State.keepOld (s : State) (d t cycle : Nat) (keys : List Nat) : State :=
  if s.lates.any fun o => o.focus.die == d && o.focus.tile == t then
    s.modTile d t fun x => { x with undo := x.undo ++ keys.map fun k => (cycle, k, s.mem.read k) }
  else s

/-- A byte of own-scratchpad storage is still poisoned at a cycle: no write that performs by then covers its unit
(R303, R450). -/
def State.padPoisonAt (s : State) (d t cycle x n : Nat) : Bool :=
  let due := s.padDue d t cycle
  (!s.badUnits.isEmpty || due.any (·.bad)) &&
    (upFrom x n).any fun a =>
      let k := s.pad d t a
      s.poisoned k 1 && !(due.any fun p =>
        let got := p.bytes.map fun e => s.pad d t e.1
        (upFrom (64 * unitOf k) 64).all fun j => got.contains j)
        || due.any fun p => p.bad && p.bytes.any fun e => unitOf (s.pad d t e.1) == unitOf k

/-- Schedule an own-scratchpad write of the context in focus (R101, R181), in a cycle of its clock. -/
def State.padWrite (s : State) (cycle : Nat) (bs : List (Nat × Byte)) : State :=
  if bs.isEmpty then s
  else s.modFT fun t => { t with pend := t.pend ++ [⟨s.t, cycle, s.focus.ctx, bs, s.writeId, false⟩] }

/-- Bytes at consecutive addresses. -/
def atAddr (x : Nat) (bs : List Byte) : List (Nat × Byte) := (upFrom x bs.length).zip bs

/-- The tile has a scratchpad row that lies outside 0 to 0x5FFFF. -/
def padBad (x n : Nat) : Bool := padSize < x + n

/-! ## Bit vectors and bytes -/

/-- Row j of a register (R155). -/
def rowOf (v : VReg) (j : Nat) : Row := v.extractLsb' (512 * j) 512
/-- A register from its rows; missing rows are 0. -/
def ofRows (l : List Row) : VReg :=
  BitVec.ofNat 8192 (l.foldr (fun r a => r.toNat + a * 2 ^ 512) 0)
/-- The 64 bytes of a row. -/
def rowBytes (r : Row) : List Byte := leBytes 64 r.toNat
/-- A row from 64 bytes. -/
def bytesRow (l : List Byte) : Row := BitVec.ofNat 512 (leNat l)
/-- A doubleword from bytes. -/
def bytesD (l : List Byte) : DWord := BitVec.ofNat 64 (leNat l)
/-- Bits h:l of a doubleword as a number. -/
def fld (v : DWord) (h l : Nat) : Nat := v.toNat / 2 ^ l % 2 ^ (h + 1 - l)

/-! ## Code positions (R114) -/

/-- A code position as a doubleword. The index has six bits: that of a 65th bundle, or of the place behind the last of
64 bundles, is given modulo 64, DESIGN CHOICE (log 87). -/
def Pos.enc (p : Pos) : DWord := BitVec.ofNat 64 (p.seg / 16 % 2 ^ 54 * 1024 + p.idx % 64 * 16 + p.ioff % 16)
/-- A code position from a doubleword. Bit 63, which no valid position has, stays as bit 57 of the address. -/
def Pos.dec (v : DWord) : Pos := ⟨fld v 63 10 * 16, fld v 9 4, fld v 3 0⟩
/-- A position with bit 63 set, which is not valid (R115). -/
def Pos.bit63 (p : Pos) : Bool := 2 ^ 57 ≤ p.seg

/-! ## How a slot ends -/

/-- Why a slot does not execute: it must hold, with its kind (R298), or it traps. A FIFO hold adds 16 times its
direction, 64 for a push (R460). -/
inductive SlotStop where
  | hold (kind : Nat)
  | trap (t : TrapInfo)
  deriving DecidableEq, Repr

/-- An attempt that may hold or trap. -/
abbrev Try (α : Type) := Except SlotStop α
/-- A slot's attempt to execute. -/
abbrev SlotRes := Try State

/-- A hold of a kind. -/
def holdT {α : Type} (kind : Nat) : Try α := .error (.hold kind)
/-- A trap of kind B at the slot in focus (R419). -/
def trapB {α : Type} (cause eng : Nat) (status addr2 : Nat := 0) : Try α :=
  .error (.trap { cause := cause, kind := 0, eng := eng, status := status, addr2 := addr2 % 2 ^ 57 })
/-- A trap of kind B where a condition holds. -/
def trapIf (b : Bool) (cause eng : Nat) (status addr2 : Nat := 0) : Try Unit :=
  if b then trapB cause eng status addr2 else .ok ()

/-- The context in focus runs under a timetable (R277); the shadow context never does. -/
def State.timed (s : State) : Bool := (s.car s.focus.die s.focus.tile).timed && s.focus.ctx != 4

/-- A hold in timetabled mode is a deviation (R277, R281); elsewhere it is a hold. -/
def State.holdOr {α : Type} (s : State) (kind dev eng status : Nat) : Try α :=
  if s.timed then trapB dev eng status else holdT kind

/-! ## Delay windows (R56 to R58) -/

/-- A control transfer (R56). -/
def isTransfer : Instr → Bool
  | .br | .brc .. | .call _ | .ret _ | .jmpr _ => true
  | _ => false
/-- Positions that ran between two issued bundles: the idle bundles before a delayed bundle stand at its own position
(R48, R56). -/
def posBetween (hist : List Issued) (a b : Nat) : Nat :=
  (hist.filter fun h => a < h.no && h.no < b && !h.ahead).length
/-- The delay window that an issued bundle stands in: the positions still to run with it, and the transfer's decision. -/
def windowAt (hist : List Issued) (no : Nat) : Option (Nat × Decision) :=
  (hist.filter fun h => h.no < no && h.slots.any fun e => isTransfer e.2).getLast?.bind fun h =>
    let n := posBetween hist h.no no
    if n < 2 then some (2 - n, h.dec) else none
/-- Delay positions still to run and the target of a transfer pending at an issued bundle (R58, R429). -/
def pendAt (hist : List Issued) (no : Nat) : Nat × Option Pos :=
  match windowAt hist no with
  | some (n, dec) => if dec.taken then (n, some dec.tgt) else (0, none)
  | none => (0, none)
/-- What the lead issues next lies in a delay window. -/
def Lead.inWindow (x : Lead) : Bool :=
  match x.re with
  | some n => (windowAt x.hist n).isSome
  | none => x.flow.pend.isSome

/-! ## Taking a trap (R420, R427 to R431) -/

/-- TTC of a die. -/
def State.ttc (s : State) (d : Nat) : Nat := (s.die d).ttc
/-- TTHOLD of a die (R299). -/
def State.tthold (s : State) (d : Nat) : Nat := ((s.die d).ctl.get 0x18).toNat

/-- The record of a cause at a tile: what R429 fixes in the cycle the cause is raised. -/
def State.mkRec (s : State) (d t c : Nat) (info : TrapInfo) (no : Nat) (pos : Pos) (baddr : Nat) : Rec :=
  let l := s.lead d (s.car d t).leadTile c
  { info := info, no := no, hm := (s.ctx d t c).t.hm,
    ndly := (l.flow.pend.map (·.2)).getD 0, tseq := (s.tile d t).tseq.toNat,
    ttc := s.ttc d, ptime := s.ttc d + s.tthold d, pos := pos,
    baddr := info.baddr.getD baddr, ptgt := (l.flow.pend.bind (·.1)).getD ⟨0, 0, 0⟩ }

/-- Send the trap signal to the lead: one hop a cycle (R420 step 2). At the lead itself it has arrived. The lead stops
issuing at once, or, for a cause that withholds no bundle, outside a delay window (R288 step 1, R419). -/
def State.signalLead (s : State) (d t c : Nat) (atOnce : Bool) : State :=
  let car := s.car d t
  s.modLead d car.leadTile c fun l =>
    { l with sigs := l.sigs ++ [(s.now + car.hops t, t)],
             halted := l.halted || (car.hops t == 0 && (atOnce || !l.inWindow)) }

/-- A cause that withholds the bundle in which it is found, and every later one (R420 step 1): kind B or H, or a
reservation that fails at a header (R461). -/
def TrapInfo.withholds (i : TrapInfo) : Bool := i.kind ≤ 1 || i.kind == 4
/-- A tile's cause: it keeps the record and signals the lead. A tile traps at most once for one stop: a later cause leaves the
first record, and withholds its bundle where it has one (R423). -/
def State.raise (s : State) (d t c : Nat) (r : Rec) : State :=
  let w := r.info.withholds
  if (s.ctx d t c).t.cur.isNone then
    (s.modCtx d t c fun x => { x with t := { x.t with cur := some r } }).signalLead d t c w
  else if w then (s.modCtx d t c fun x => { x with t := { x.t with stuck := true } }).signalLead d t c true
  else s

/-- Take a trap at the focus: no slot has effect, the record is kept, the lead is signalled. -/
def State.takeTrap (s : State) (info : TrapInfo) : State :=
  let f := s.focus
  s.raise f.die f.tile f.ctx (s.mkRec f.die f.tile f.ctx info f.no f.pos f.baddr)

/-- Key of a hold of kind 1 of an engine's command; the key of a bundle's hold is its kind. -/
def engKey : Nat := 33
/-- Key of the first of the consecutive cycles in which the context is held (R298). -/
def heldKey : Nat := 48
/-- A key stands for a hold. -/
def isHold (k : Nat) : Bool := k < 16 || k == engKey
/-- The kinds of the holds of a context, by key. -/
def Ctx.holds (x : Ctx) : List Nat := (x.hold.map (·.1)).filter isHold
/-- A hold begins under a key. -/
def Ctx.holdKey (x : Ctx) (now k info : Nat) : Ctx :=
  if (x.hold.find? k).isSome then x
  else
    let h := if x.holds.isEmpty then x.hold.set heldKey now else x.hold
    { x with hold := (h.set k now).set (16 + k) info }
/-- A hold ends. -/
def Ctx.dropKey (x : Ctx) (k : Nat) : Ctx :=
  let y := { x with hold := (x.hold.erase k).erase (16 + k) }
  if y.holds.isEmpty then { y with hold := y.hold.erase heldKey } else y
/-- Note a hold of a context at a tile, for the watchdog (R298): its kind (modulo 16) and its first cycle. What the
journal says of it (R460) stands under the key 16 + kind. -/
def State.holdAt (s : State) (d t c kind : Nat) : State :=
  s.modCtx d t c fun x => x.holdKey s.now (kind % 16) (kind / 16)
/-- A hold kind ends when the held thing proceeds (R298). -/
def State.unhold (s : State) (d t c kind : Nat) : State := s.modCtx d t c fun x => x.dropKey kind
/-- A command of a context holds its engine, with kind 1. -/
def State.holdEng (s : State) (d t c : Nat) : State := s.modCtx d t c fun x => x.holdKey s.now engKey 0
/-- It proceeds. -/
def State.unholdEng (s : State) (d t c : Nat) : State := s.modCtx d t c fun x => x.dropKey engKey
/-- Note a hold of the context in focus. -/
def State.noteHold (s : State) (kind : Nat) : State := s.holdAt s.focus.die s.focus.tile s.focus.ctx kind

/-- A cause of kind I at the focus: the bundle goes on (R419, R451). -/
def State.raiseI (s : State) (cause eng status : Nat) (addr2 : Nat := 0) : State :=
  let f := s.focus
  s.raise f.die f.tile f.ctx (s.mkRec f.die f.tile f.ctx
    { cause := cause, kind := 5, eng := eng, status := status, addr2 := addr2 % 2 ^ 57 } f.no f.pos f.baddr)

/-- The status word of 0xA4 (R451): bit 8 says that a unit was poisoned before; how the others name the memory and the row
is a free value: DESIGN CHOICE (log 92). -/
def State.poisonStatus (s : State) (old : Bool) : Nat :=
  Config.freeNat 12 s.freeCtr % 2 ^ 23 * 512 + old.toNat * 256 + Config.freeNat 13 s.freeCtr % 256
/-- A slot reads poisoned units (R451): cause 0xA4. -/
def State.sawPoison (s : State) (old : Bool) : State := (s.raiseI 0xA4 13 (s.poisonStatus old)).bump
/-- A slot at the focus reads own-scratchpad bytes, each run in its cycle: it meets their errors, and 0xA4 where a unit
delivers nothing. -/
def State.padTake (s : State) (l : List (Nat × Nat × Nat)) : State × Bool :=
  let f := s.focus
  let bad (s : State) : Bool := l.any fun e => s.padPoisonAt f.die f.tile e.1 e.2.1 e.2.2
  let s' := l.foldl (fun s e => s.meetPad f.die f.tile e.2.1 e.2.2) s
  if bad s then (s'.sawPoison (bad { s with upsets := [] }), true) else (s', false)

/-- A slot at the focus takes n rows, stored from a key on, of a register or of a memory of its tile: it meets their errors; a
row that delivers nothing raises 0xA4 (R447, R451), and a free value stands for it (log 23). -/
def State.rowsTake (s : State) (k n : Nat) (v : VReg) : State × VReg :=
  if s.upsets.isEmpty && s.poison.isEmpty then (s, v)
  else
    let bad (s : State) (q : Nat) : Bool := q < n && s.poisoned (k + 64 * q) 64
    let any (s : State) : Bool := (upFrom 0 n).any (bad s)
    let t := s.meet s.focus.die k (64 * n)
    if any s then
      let t := t.sawPoison (any { s with upsets := [] })
      ({ t with freeCtr := t.freeCtr + 16 }, ofRows ((upFrom 0 16).map fun q =>
        if bad s q then Config.freeBits 512 (t.freeCtr + q) else rowOf v q))
    else (t, v)
/-- Read n rows of an operand-file register at the focus. -/
def State.takeO (s : State) (reg n : Nat) : State × VReg :=
  s.rowsTake (opKey s.focus.die s.focus.tile s.focus.ctx reg) n (s.ro reg)
/-- Read n rows of a main-file register, by its number after renaming, at the focus. -/
def State.takeV (s : State) (v n : Nat) : State × VReg :=
  s.rowsTake (poolKey s.focus.die s.focus.tile (s.fctx.poolReg v)) n (s.rv v)
/-- A register's write has landed: the rows that it covers lose their poison (R450). -/
def State.cleanReg (s : State) (k : Nat) (mask : VReg) : State :=
  if s.upsets.isEmpty && s.poison.isEmpty then s
  else s.cleanUnits fun u => (upFrom 0 16).any fun q => u == unitOf (k + 64 * q) && rowOf mask q == BitVec.allOnes 512

/-- The end of a slot executed by itself. -/
def finish (s : State) : SlotRes → Host.Outcome State Fault Refusal
  | .ok s' => .next s'
  | .error (.hold k) => .next (s.noteHold k)
  | .error (.trap i) => .next (s.takeTrap i)

end Sys2Proof.Machine
end

