-- ==== Sys2Proof/Machine/Operands.lean ====
section
/-! DEFINITION. The operand forms of the vector slots: elements and masks (R155, R161), sources and
destinations in registers, address-generator ports and neighbour FIFOs (R157 to R168, R339). -/

namespace Sys2Proof.Machine

/-! ## Elements and masks (R155, R156, R161, R162) -/

/-- The first n elements of w bytes of a register, by logical index. -/
def elems (w n : Nat) (v : VReg) : List Nat :=
  let x := v.toNat
  (upFrom 0 n).map fun e => x / 2 ^ (8 * w * e) % 2 ^ (8 * w)
/-- A register from its elements of w bytes; missing elements are 0. -/
def ofElems (w : Nat) (l : List Nat) : VReg :=
  BitVec.ofNat 8192 (l.foldr (fun x a => x % 2 ^ (8 * w) + a * 2 ^ (8 * w)) 0)
/-- The bits of the elements that a list marks. -/
def elemBits (w : Nat) (l : List Bool) : VReg :=
  ofElems w (l.map fun b => if b then 2 ^ (8 * w) - 1 else 0)
/-- Rows of an instruction: ROWS + 1 (R156). -/
def vh (f : VF) : Nat := f.rows.toNat + 1
/-- Elements of h rows. -/
def perRows (w h : Nat) : Nat := h * (64 / w)
/-- Element e of width w is enabled under a mask: the bit of its lowest byte (R161). -/
def enabledAt (k : Mask) (w e : Nat) : Bool := k.getLsbD (w * e)
/-- Which of n elements an instruction writes or considers (R162). -/
def State.enabled (s : State) (f : VF) (w n : Nat) : List Bool :=
  let k := s.rk f.km.toNat
  (upFrom 0 n).map fun e => !f.ke || enabledAt k w e
/-- All bits of rows 0 to h − 1. -/
def rowMask (h : Nat) : VReg := BitVec.ofNat 8192 (2 ^ (512 * h) - 1)
/-- All mask bits of rows 0 to h − 1. -/
def kRows (h : Nat) : Mask := BitVec.ofNat 1024 (2 ^ (64 * h) - 1)
/-- A mask from its elements of width w: all bits of each (R173). -/
def maskOf (w : Nat) (l : List Bool) : Mask :=
  BitVec.ofNat 1024 (l.foldr (fun b a => (if b then 2 ^ w - 1 else 0) + a * 2 ^ w) 0)

/-! ## Rows of the scratchpad -/

/-- A 64-byte row at an own-scratchpad address as it stands for a read in a cycle (R302). -/
def State.padRow (s : State) (cycle x : Nat) : Row :=
  bytesRow (s.padBytes s.focus.die s.focus.tile cycle x 64)
/-- Rows at addresses; row q is read at t0 + ⌊q ÷ 4⌋ (R167, R181). -/
def State.padRows (s : State) (t0 : Nat) (l : List Nat) : List Row :=
  (l.zip (upFrom 0 l.length)).map fun e => s.padRow (t0 + e.2 / 4) e.1
/-- An own-scratchpad run of bytes lies in storage that is poisoned when it is read in a cycle (R450). -/
def State.padPoison (s : State) (cycle x n : Nat) : Bool := s.padPoisonAt s.focus.die s.focus.tile cycle x n
/-- Schedule the writing of rows: row q at t0 + ⌊q ÷ 4⌋ (R167, R181). `m` selects bytes. -/
def State.padPutRows (s : State) (t0 : Nat) (l : List Nat) (m v : VReg) : State :=
  (l.zip (upFrom 0 l.length)).foldl (fun s e =>
    let bs := (atAddr e.1 (rowBytes (rowOf v e.2))).zip (rowBytes (rowOf m e.2))
    s.padWrite (t0 + e.2 / 4) ((bs.filter (fun b => b.2 != 0)).map (·.1))) s

/-! ## Address-generator ports (R164, R167) -/

/-- Address of the row at a port's position. -/
def Port.addr (p : Port) : Int :=
  (p.base : Int) + ((p.pos.zip p.str).map fun e => (e.1 : Int) * e.2).sum
/-- Advance the counters from a level: a counter that reaches its count wraps and carries. -/
def stepCnt : List Nat → List Nat → Bool → List Nat
  | i :: is, c :: cs, carry =>
    let i' := if carry then i + 1 else i
    if i' = c then 0 :: stepCnt is cs true else i' :: stepCnt is cs false
  | is, _, _ => is
/-- Advance a port by one row. -/
def Port.step (p : Port) : Port := { p with pos := stepCnt p.pos p.cnt true }
/-- The addresses of the next n rows, and the port after them. -/
def Port.walk (p : Port) : Nat → List Int × Port
  | 0 => ([], p)
  | n + 1 => let r := p.step.walk n; (p.addr :: r.1, r.2)
/-- A port with its four levels listed. -/
def Port.full (p : Port) : Port :=
  { p with
    cnt := (upFrom 0 4).map fun i => p.cnt.getD i 0
    str := (upFrom 0 4).map fun i => p.str.getD i 0
    pos := (upFrom 0 4).map fun i => p.pos.getD i 0 }
/-- The parameters are invalid: cause 0x44 (R164). -/
def Port.bad (p : Port) : Bool :=
  p.base % 64 != 0 || p.str.any (fun x => x % 64 != 0) || p.cnt.any (· == 0)
/-- A row address outside the scratchpad: cause 0x43 (R164, R179). -/
def rowBad (a : Int) : Bool := a < 0 || (padSize : Int) < a + 64

/-- Walk a port by n rows after the checks of R164. Invalid parameters (0x44) come before a row outside (0x43), and the ports of
an instruction are walked in the order VA, VB, VC, VD: R164 gives no order: DESIGN CHOICE (log 115). -/
def State.portWalk (s : State) (g n : Nat) : Try (State × List Nat) := do
  let p := (s.fctx.ports.get g).full
  trapIf p.bad 0x44 2 g
  let (l, p') := p.walk n
  match l.find? rowBad with
  | some a => trapB 0x43 2 0 (a % 2 ^ 57).toNat
  | none => .ok (s.modF fun c => { c with ports := c.ports.set g p' }, l.map Int.toNat)

/-! ## Neighbour FIFOs (R168, R339, R340) -/

/-- The neighbour inside the caravan in a direction: 0 north, 1 east, 2 south, 3 west. -/
def State.neighbour (s : State) (dir : Nat) : Option Nat :=
  let c := s.car s.focus.die s.focus.tile
  let t := s.focus.tile
  match dir with
  | 0 => if c.crow t = 0 then none else some (t - 32)
  | 1 => if c.ccol t + 1 < c.w then some (t + 1) else none
  | 2 => if c.crow t + 1 < c.h then some (t + 32) else none
  | _ => if c.ccol t = 0 then none else some (t - 1)

/-- Rows of a context, oldest first. -/
def fifoRows (l : List (Nat × Row)) (ctx : Nat) : List Row := (l.filter (·.1 == ctx)).map (·.2)
/-- Remove the n oldest rows of a context, passing over the others (R339). -/
def fifoDrop : List (Nat × Row) → Nat → Nat → List (Nat × Row)
  | l, _, 0 => l
  | [], _, _ => []
  | (c, r) :: l, ctx, n + 1 => if c = ctx then fifoDrop l ctx n else (c, r) :: fifoDrop l ctx (n + 1)

/-- Pop n rows from a direction (R168, R339). -/
def State.popFifo (s : State) (dir n : Nat) : Try (State × List Row) := do
  trapIf (s.neighbour dir).isNone 0x60 2 dir
  let l := s.ftile.fifo.get dir
  let mine := fifoRows l s.focus.ctx
  if mine.length < n then s.holdOr (16 * dir) 0x80 2 0
  else .ok (s.modFT fun t =>
    { t with
      fifo := t.fifo.set dir (fifoDrop l s.focus.ctx n)
      pops := t.pops ++ [(s.now, dir, s.focus.ctx, n)] }, mine.take n)

/-- A context's share of a FIFO (R339). -/
def Car.share (c : Car) : Nat := 32 / max c.nctx 1
/-- The direction seen from the other side. -/
def opposite (dir : Nat) : Nat := (dir + 2) % 4
/-- Rows of a context that the sender still counts: present, on their way, popped but not learned of. -/
def Tile.fifoUsed (t : Tile) (now dir ctx : Nat) : Nat :=
  (fifoRows (t.fifo.get dir) ctx).length
    + (t.fifoIn.filter fun r => r.dir == dir && r.ctx == ctx).length
    + ((t.pops.filter fun p => now ≤ p.1 && p.2.1 == dir && p.2.2.1 == ctx).map (·.2.2.2)).sum

/-- Push rows in a direction (R168, R340): they land within the bound, in timetabled mode at its end, and are at the neighbour
one cycle later; within their bound not before rows pushed earlier. -/
def State.pushFifo (s : State) (dir : Nat) (rows : List Row) (bound : Nat) : SlotRes :=
  match s.neighbour dir with
  | none => .ok s
  | some n =>
    let d := s.focus.die
    let x := s.focus.ctx
    let t := s.tile d n
    let back := opposite dir
    if (s.car d n).share < t.fifoUsed s.now back x + rows.length then s.holdOr (16 * dir + 64) 0x80 2 0
    else
      let land := if s.timed then bound else Config.landing s.freeCtr bound
      let last := (t.fifoIn.filter fun r => r.dir == back && r.ctx == x).foldl (fun a r => max a r.cycle) 0
      let at' := min (max (s.now + land + 1) last) (s.now + bound + 1)
      .ok (s.setTile d n { t with fifoIn := t.fifoIn ++ rows.map fun r => ⟨at', back, x, r, s.writeId⟩ }).bump

/-! ## Sources and destinations (R157 to R160, R168) -/

/-- The main-file register that a field names, after renaming (R89, R158). -/
def State.vNum (s : State) (c : BitVec 8) : Nat := physV s.fctx.r.voff (c.toNat - 128)

/-- A row of a poisoned unit delivers no byte (R451): a free value stands for it (log 23). -/
def State.cleanRow (s : State) (cycle a i : Nat) (r : Row) : Row :=
  if s.padPoison cycle a 64 then Config.freeBits 512 (s.freeCtr + i) else r

/-- Rows read by a slot at addresses, with R451: a poisoned row raises 0xA4. -/
def State.slotRows (s : State) (t0 : Nat) (l : List Nat) : State × List Row :=
  let rows := s.padRows t0 l
  let at' := l.zip (upFrom 0 l.length)
  match s.padTake (at'.map fun e => (t0 + e.2 / 4, e.1, 64)) with
  | (s', true) =>
    ({ s' with freeCtr := s'.freeCtr + l.length },
      (at'.zip rows).map fun e => s.cleanRow (t0 + e.1.2 / 4) e.1.1 e.1.2 e.2)
  | (s', false) => (s', rows)

/-- Read one source field over n rows. -/
def State.source1 (s : State) (c : BitVec 8) (n : Nat) : Try (State × VReg) :=
  if isO c then .ok (s.takeO c.toNat n)
  else if isV c then .ok (s.takeV (s.vNum c) n)
  else if isFifo c then do
    let (s, l) ← s.popFifo (c.toNat - 16) n
    .ok (s, ofRows l)
  else do
    let (s, l) ← s.portWalk (c.toNat - 8) n
    let (s, rows) := s.slotRows (s.t + 1) l
    .ok (s, ofRows rows)

/-- Read source fields with their row counts; two fields that name one FIFO or port pop it once (R77). -/
def State.sourcesFrom (s : State) (all : List (BitVec 8 × Nat)) :
    List (BitVec 8 × Nat) → List (BitVec 8 × VReg) → Try (State × List (BitVec 8 × VReg))
  | [], got => .ok (s, got)
  | (c, _) :: l, got =>
    if got.any (·.1 == c) then s.sourcesFrom all l got
    else
      let n := (all.filter (·.1 == c)).foldl (fun a e => max a e.2) 0
      match s.source1 c n with
      | .error e => .error e
      | .ok (s', v) => s'.sourcesFrom all l (got ++ [(c, v)])
/-- Read source fields. -/
def State.sources (s : State) (l : List (BitVec 8 × Nat)) : Try (State × List (BitVec 8 × VReg)) :=
  s.sourcesFrom l l []
/-- The value that a field read. -/
def pick (l : List (BitVec 8 × VReg)) (c : BitVec 8) : VReg :=
  match l.find? (·.1 == c) with
  | some e => e.2
  | none => 0

/-- Last-use bits (R160): registers so marked become unspecified from the next cycle. -/
def State.lastUse1 (s : State) (b : Bool) (c : BitVec 8) : State :=
  if !b then s else if isV c then s.killV (s.vNum c) else s.killO c.toNat
/-- The three last-use bits of an instruction. -/
def State.lastUses (s : State) (f : VF) : State :=
  ((s.lastUse1 f.lua f.va).lastUse1 f.lub f.vb).lastUse1 f.luc f.vc

/-- Write a destination field: bits `m` of `v` to a register; n whole rows to a port or a FIFO, where bits
outside `m` are zero (R162). -/
def State.dest (s : State) (c : BitVec 8) (n : Nat) (m v : VReg) (bound : Nat) : SlotRes :=
  if isO c then .ok (s.wo c.toNat m v bound)
  else if isV c then .ok (s.wv (s.vNum c) m v bound)
  else if isFifo c then s.pushFifo (c.toNat - 16) ((upFrom 0 n).map fun j => rowOf (v &&& m) j) bound
  else do
    let (s, l) ← s.portWalk (c.toNat - 8) n
    .ok (s.padPutRows (s.t + 2) l (BitVec.allOnes 8192) (v &&& m))

/-- Occupancy ⌈H ÷ 4⌉ (R163). -/
def vocc (f : VF) : Nat := (vh f + 3) / 4

end Sys2Proof.Machine
end

