-- ==== Sys2Proof/Machine/Pool.lean ====
section
/-! DEFINITION. The shared pool of a tile: granules, accumulator banks, park slots, and ALSTAT (R255 to
R260). -/

namespace Sys2Proof.Machine

/-- The context numbers of the caravan on a tile. -/
def State.ctxNums (s : State) (d t : Nat) : List Nat := upFrom 0 (s.car d t).nctx

/-- Physical granules that some context of a tile holds. -/
def State.usedGran (s : State) (d t : Nat) : List Nat :=
  (s.ctxNums d t).flatMap fun c => (s.ctx d t c).gran.map (·.2)
/-- Physical granules that an ALLOT may take, in ascending order: neither held nor still to be released
(R255, R256). -/
def State.freeGran (s : State) (d t : Nat) : List Nat :=
  let used := s.usedGran d t
  (upFrom 0 16).filter fun g =>
    !used.contains g && !(s.tile d t).granDue.any fun e => e.1 == g && s.now < e.2

/-- Banks that some context of a tile holds. -/
def State.banksHeld (s : State) (d t : Nat) : BitVec 64 :=
  (s.ctxNums d t).foldl (fun a c => a ||| (s.ctx d t c).banks) 0
/-- Park slots that some context of a tile owns. -/
def State.parksHeld (s : State) (d t : Nat) : BitVec 128 :=
  (s.ctxNums d t).foldl (fun a c => a ||| (s.ctx d t c).parks) 0
/-- No context holds a bank and no half of it holds a parked register (R257). -/
def bankFree (banks : BitVec 64) (parks : BitVec 128) (b : Nat) : Bool :=
  b < 64 && !banks.getLsbD b && !parks.getLsbD (2 * b) && !parks.getLsbD (2 * b + 1)
/-- A park slot that VPARK may take: unowned, in a bank that no context holds (R259). -/
def slotFree (banks : BitVec 64) (parks : BitVec 128) (n : Nat) : Bool :=
  n < 128 && !banks.getLsbD (n / 2) && !parks.getLsbD n

/-- The number of set bits. -/
def popCount (x : Nat) (w : Nat) : Nat := ((upFrom 0 w).filter fun i => x.testBit i).length

/-- The logical granules that a context holds, as a mask (R260 VGMASK). -/
def Ctx.vgmask (c : Ctx) : Nat := (c.gran.map fun e => 2 ^ e.1).sum

/-- ALSTAT (R260). -/
def State.alstat (s : State) : DWord :=
  let d := s.focus.die
  let t := s.focus.tile
  let c := s.fctx
  let b := s.banksHeld d t
  let p := s.parksHeld d t
  BitVec.ofNat 64
    (c.lease * 2 ^ 56 + popCount c.parks.toNat 128 * 2 ^ 48
      + ((upFrom 0 128).filter (slotFree b p)).length * 2 ^ 40
      + ((upFrom 0 64).filter (bankFree b p)).length * 2 ^ 32
      + c.vgmask * 2 ^ 16 + (s.freeGran d t).length * 2 ^ 8 + popCount c.banks.toNat 64)

end Sys2Proof.Machine
end

