-- ==== Sys2Proof/Machine/Vector.lean ====
section
/-! DEFINITION. The element-wise vector instructions (R155 to R182). Each instruction has its attempt `sem…`
and its execution by itself `exec…`. -/

namespace Sys2Proof.Machine

/-! ## Shapes -/

/-- The format of an instruction's elements (R81). -/
def vfFmt (f : VF) : Fmt := tyFmt f.ty.toNat f.es.toNat
/-- Element width in bytes (R155). -/
def vfW (f : VF) : Nat := tyW f.ty.toNat
/-- Number of elements of rows 0 to ROWS. -/
def vfN (f : VF) : Nat := perRows (vfW f) (vh f)

/-- Flags of the elements that a list marks (R151). -/
def flagsOf (en : List Bool) (l : List (Nat × Flags)) : Flags :=
  orFlags ((en.zip l).map fun e => if e.1 then e.2.2 else 0)

/-- Write element results under a list of enabled elements, and their flags (R162, R170). -/
def State.putElems (s : State) (f : VF) (en : List Bool) (l : List (Nat × Flags)) (bound : Nat) : SlotRes := do
  let w := vfW f
  let s ← s.dest f.vd (vh f) (elemBits w en) (ofElems w (l.map (·.1))) bound
  .ok (s.wf (flagsOf en l) bound)

/-- An instruction of one element operand. -/
def State.ew1 (s : State) (f : VF) (bound : Nat) (g : Nat → Nat × Flags) : SlotRes := do
  let w := vfW f
  let en := s.enabled f w (vfN f)
  let (s, got) ← s.sources [(f.va, vh f)]
  let s := s.lastUses f
  s.putElems f en ((elems w (vfN f) (pick got f.va)).map g) bound

/-- An instruction of two element operands. -/
def State.ew2 (s : State) (f : VF) (bound : Nat) (g : Nat → Nat → Nat × Flags) : SlotRes := do
  let w := vfW f
  let en := s.enabled f w (vfN f)
  let (s, got) ← s.sources [(f.va, vh f), (f.vb, vh f)]
  let s := s.lastUses f
  let a := elems w (vfN f) (pick got f.va)
  let b := elems w (vfN f) (pick got f.vb)
  s.putElems f en ((a.zip b).map fun e => g e.1 e.2) bound

/-- An instruction of three element operands. -/
def State.ew3 (s : State) (f : VF) (bound : Nat) (g : Nat → Nat → Nat → Nat × Flags) : SlotRes := do
  let w := vfW f
  let en := s.enabled f w (vfN f)
  let (s, got) ← s.sources [(f.va, vh f), (f.vb, vh f), (f.vc, vh f)]
  let s := s.lastUses f
  let a := elems w (vfN f) (pick got f.va)
  let b := elems w (vfN f) (pick got f.vb)
  let c := elems w (vfN f) (pick got f.vc)
  s.putElems f en ((a.zip (b.zip c)).map fun e => g e.1 e.2.1 e.2.2) bound

/-! ## Element results (R170, R172) -/

/-- Arithmetic of two operands: integers wrap or clamp, other types round once (R170). -/
def arith2 (f : VF) (gi : Int → Int → Int) (gv : Val → Val → Res) (a b : Nat) : Nat × Flags :=
  match vfFmt f with
  | .i w s => fitI w s f.sat (gi (readI w s a) (readI w s b))
  | m => m.deliver f.rm.toNat (gv (m.dec a) (m.dec b))

/-- vfma's element (R170). -/
def fma3 (f : VF) (a b c : Nat) : Nat × Flags :=
  let sg (n : Bool) (x : Int) : Int := if n then -x else x
  let sv (n : Bool) (x : Val) : Val := if n then x.negate else x
  match vfFmt f with
  | .i w s => fitI w s f.sat (sg f.na (readI w s a * readI w s b) + sg f.nc (readI w s c))
  | m => m.deliver f.rm.toNat (fmaV (sv f.na (m.dec a)) (m.dec b) (sv f.nc (m.dec c)))

/-- The high half of a product (R170). -/
def mulh2 (f : VF) (a b : Nat) : Nat × Flags :=
  match vfFmt f with
  | .i w s => (((readI w s a * readI w s b).fdiv (2 ^ w) % 2 ^ w).toNat, 0)
  | _ => (0, 0)

/-- The canonical NaN of an IEEE element that is NaN, otherwise a change of its sign bit (R170). -/
def signF (ff : FF) (a : Nat) (set : Bool → Bool) : Nat × Flags :=
  match ff.dec a with
  | .nan sig => (ff.nanCode, flagIf sig fNV)
  | v => (a % 2 ^ (ff.eb + ff.fb) + ff.signBit (set v.sign), 0)

/-- vabs's element (R170). -/
def abs1 (f : VF) (a : Nat) : Nat × Flags :=
  match vfFmt f with
  | .i w s => if s then fitI w s f.sat (readI w s a).natAbs else (a, 0)
  | .t n _ => (if a.testBit (n - 1) then (2 ^ n - a) % 2 ^ n else a, 0)
  | .f ff => signF ff a fun _ => false
  | .e8 => (a, 0)

/-- vneg's element (R170). -/
def neg1 (f : VF) (a : Nat) : Nat × Flags :=
  match vfFmt f with
  | .i w s => fitI w s f.sat (-(readI w s a))
  | .t n _ => ((2 ^ n - a) % 2 ^ n, 0)
  | .f ff => signF ff a fun n => !n
  | .e8 => (a, 0)

/-- vshl's element (R172): n is VB mod 8W. -/
def shl2 (f : VF) (a b : Nat) : Nat × Flags :=
  match vfFmt f with
  | .i w s => fitI w s f.sat (readI w s a * 2 ^ (b % w))
  | _ => (a, 0)

/-- The bound of add and subtract: O + 2 for integers, O + 4 otherwise (R163). -/
def addBound (f : VF) : Nat := if tyIsI f.ty.toNat then vocc f + 2 else vocc f + 4
/-- The bound of vfma: O + 4 for integers, O + 6 otherwise (R163). -/
def fmaBound (f : VF) : Nat := if tyIsI f.ty.toNat then vocc f + 4 else vocc f + 6

/-! ## Arithmetic (R170) -/

/-- vadd: a + b (R170). -/
def semVadd (f : VF) (s : State) : SlotRes :=
  s.ew2 f (addBound f) (arith2 f (· + ·) addV)
/-- VADD by itself. -/
def execVadd (f : VF) (s : State) : Host.Outcome State Fault Refusal := finish s (semVadd f s)

/-- vsub: a − b (R170). -/
def semVsub (f : VF) (s : State) : SlotRes :=
  s.ew2 f (addBound f) (arith2 f (· - ·) fun a b => addV a b.negate)
/-- VSUB by itself. -/
def execVsub (f : VF) (s : State) : Host.Outcome State Fault Refusal := finish s (semVsub f s)

/-- vmul: a × b (R170). -/
def semVmul (f : VF) (s : State) : SlotRes :=
  s.ew2 f (vocc f + 4) (arith2 f (· * ·) mulV)
/-- VMUL by itself. -/
def execVmul (f : VF) (s : State) : Host.Outcome State Fault Refusal := finish s (semVmul f s)

/-- vmulh: bits 16W − 1 to 8W of the product (R170). -/
def semVmulh (f : VF) (s : State) : SlotRes :=
  s.ew2 f (vocc f + 4) (mulh2 f)
/-- VMULH by itself. -/
def execVmulh (f : VF) (s : State) : Host.Outcome State Fault Refusal := finish s (semVmulh f s)

/-- vfma: ±a × b ± c, one rounding (R170). -/
def semVfma (f : VF) (s : State) : SlotRes :=
  s.ew3 f (fmaBound f) (fma3 f)
/-- VFMA by itself. -/
def execVfma (f : VF) (s : State) : Host.Outcome State Fault Refusal := finish s (semVfma f s)

/-- vmin (R144). -/
def semVmin (f : VF) (s : State) : SlotRes :=
  s.ew2 f (vocc f + 2) ((vfFmt f).minmax false)
/-- VMIN by itself. -/
def execVmin (f : VF) (s : State) : Host.Outcome State Fault Refusal := finish s (semVmin f s)

/-- vmax (R144). -/
def semVmax (f : VF) (s : State) : SlotRes :=
  s.ew2 f (vocc f + 2) ((vfFmt f).minmax true)
/-- VMAX by itself. -/
def execVmax (f : VF) (s : State) : Host.Outcome State Fault Refusal := finish s (semVmax f s)

/-- vabs (R170). -/
def semVabs (f : VF) (s : State) : SlotRes :=
  s.ew1 f (vocc f + 2) (abs1 f)
/-- VABS by itself. -/
def execVabs (f : VF) (s : State) : Host.Outcome State Fault Refusal := finish s (semVabs f s)

/-- vneg (R170). -/
def semVneg (f : VF) (s : State) : SlotRes :=
  s.ew1 f (vocc f + 2) (neg1 f)
/-- VNEG by itself. -/
def execVneg (f : VF) (s : State) : Host.Outcome State Fault Refusal := finish s (semVneg f s)

/-! ## Bits and shifts (R171, R172) -/

/-- vand. -/
def semVand (f : VF) (s : State) : SlotRes :=
  s.ew2 f (vocc f + 2) fun a b => (a &&& b, 0)
/-- VAND by itself. -/
def execVand (f : VF) (s : State) : Host.Outcome State Fault Refusal := finish s (semVand f s)

/-- vor. -/
def semVor (f : VF) (s : State) : SlotRes :=
  s.ew2 f (vocc f + 2) fun a b => (a ||| b, 0)
/-- VOR by itself. -/
def execVor (f : VF) (s : State) : Host.Outcome State Fault Refusal := finish s (semVor f s)

/-- vxor. -/
def semVxor (f : VF) (s : State) : SlotRes :=
  s.ew2 f (vocc f + 2) fun a b => (a ^^^ b, 0)
/-- VXOR by itself. -/
def execVxor (f : VF) (s : State) : Host.Outcome State Fault Refusal := finish s (semVxor f s)

/-- vandn: a AND NOT b. -/
def semVandn (f : VF) (s : State) : SlotRes :=
  s.ew2 f (vocc f + 2) fun a b => (a ^^^ (a &&& b), 0)
/-- VANDN by itself. -/
def execVandn (f : VF) (s : State) : Host.Outcome State Fault Refusal := finish s (semVandn f s)

/-- vshl: a << n, wrapped or clamped (R172). -/
def semVshl (f : VF) (s : State) : SlotRes :=
  s.ew2 f (vocc f + 2) (shl2 f)
/-- VSHL by itself. -/
def execVshl (f : VF) (s : State) : Host.Outcome State Fault Refusal := finish s (semVshl f s)

/-- vshr: zeros in. -/
def semVshr (f : VF) (s : State) : SlotRes :=
  s.ew2 f (vocc f + 2) fun a b => (a / 2 ^ (b % (8 * vfW f)), 0)
/-- VSHR by itself. -/
def execVshr (f : VF) (s : State) : Host.Outcome State Fault Refusal := finish s (semVshr f s)

/-- vsar: the top bit in, whatever the signedness. -/
def semVsar (f : VF) (s : State) : SlotRes :=
  s.ew2 f (vocc f + 2) fun a b =>
    (((readI (8 * vfW f) true a).fdiv (2 ^ (b % (8 * vfW f))) % 2 ^ (8 * vfW f)).toNat, 0)
/-- VSAR by itself. -/
def execVsar (f : VF) (s : State) : Host.Outcome State Fault Refusal := finish s (semVsar f s)

/-! ## Compare, select, mask logic (R173 to R175) -/

/-- vcmp: the bits of every enabled element in kd (R173); rows above ROWS keep theirs. -/
def semVcmp (f : VF) (s : State) : SlotRes :=
  do
  let w := vfW f
  let n := vfN f
  let en := s.enabled f w n
  let (s, got) ← s.sources [(f.va, vh f), (f.vb, vh f)]
  let s := s.lastUses f
  let a := elems w n (pick got f.va)
  let b := elems w n (pick got f.vb)
  let r := (a.zip b).map fun e => (vfFmt f).compare f.vc.toNat e.1 e.2
  let on := (en.zip r).map fun e => e.1 && e.2.1
  let fl := orFlags ((en.zip r).map fun e => if e.1 then e.2.2 else 0)
  .ok ((s.wk f.vd.toNat (kRows (vh f)) (maskOf w on) (vocc f + 2)).wf fl (vocc f + 2))
/-- VCMP by itself. -/
def execVcmp (f : VF) (s : State) : Host.Outcome State Fault Refusal := finish s (semVcmp f s)

/-- vsel: a where enabled under KM, else b (R174). -/
def semVsel (f : VF) (s : State) : SlotRes :=
  do
  let w := vfW f
  let k := s.rk f.km.toNat
  let on := (upFrom 0 (vfN f)).map (enabledAt k w)
  let (s, got) ← s.sources [(f.va, vh f), (f.vb, vh f)]
  let s := s.lastUses f
  let m := elemBits w on
  s.dest f.vd (vh f) (rowMask (vh f)) (mix m (pick got f.va) (pick got f.vb)) (vocc f + 2)
/-- VSEL by itself. -/
def execVsel (f : VF) (s : State) : Host.Outcome State Fault Refusal := finish s (semVsel f s)

/-- vclz: leading zero bits (R172). -/
def semVclz (f : VF) (s : State) : SlotRes :=
  s.ew1 f (vocc f + 2) fun a => (8 * vfW f - bitLen a, 0)
/-- VCLZ by itself. -/
def execVclz (f : VF) (s : State) : Host.Outcome State Fault Refusal := finish s (semVclz f s)

/-- vpopc: one bits (R172). -/
def semVpopc (f : VF) (s : State) : SlotRes :=
  s.ew1 f (vocc f + 2) fun a => (popCount a (8 * vfW f), 0)
/-- VPOPC by itself. -/
def execVpopc (f : VF) (s : State) : Host.Outcome State Fault Refusal := finish s (semVpopc f s)

/-- One byte of CrcUpdate (R182). -/
def crcByte (c x : Nat) : Nat :=
  (upFrom 0 8).foldl (fun c _ => if c % 2 = 1 then (c / 2) ^^^ 0x82F63B78 else c / 2) (c ^^^ x)
/-- CrcUpdate (R182). -/
def crcUpdate (c : Nat) (bs : List Byte) : Nat :=
  (bs.foldl (fun c b => crcByte c b.toNat) (c ^^^ 0xFFFFFFFF)) ^^^ 0xFFFFFFFF

/-- vcrc: CRC-32C of the bytes of VA, from the running value in VB row 0 (R182); one row is written. -/
def semVcrc (f : VF) (s : State) : SlotRes :=
  do
  let (s, got) ← s.sources [(f.va, vh f), (f.vb, 1)]
  let s := s.lastUses f
  let bs := leBytes (64 * vh f) (pick got f.va).toNat
  let c := crcUpdate ((pick got f.vb).toNat % 2 ^ 32) bs
  s.dest f.vd 1 (rowMask 1) (BitVec.ofNat 8192 c) (vocc f + 8)
/-- VCRC by itself. -/
def execVcrc (f : VF) (s : State) : Host.Outcome State Fault Refusal := finish s (semVcrc f s)

/-- vmov: bit for bit under the mask (R176). -/
def semVmov (f : VF) (s : State) : SlotRes :=
  s.ew1 f (vocc f + 2) fun a => (a, 0)
/-- VMOV by itself. -/
def execVmov (f : VF) (s : State) : Host.Outcome State Fault Refusal := finish s (semVmov f s)

/-- klog: a truth table over mask bits of rows 0 to ROWS (R175). -/
def semKlog (f : VF) (s : State) : SlotRes :=
  let a := s.rk f.va.toNat
  let b := s.rk f.vb.toNat
  let tt (n : Nat) (x : Mask) : Mask := if f.vc.getLsbD n then x else 0
  let v := tt 0 (~~~a &&& ~~~b) ||| tt 1 (~~~a &&& b) ||| tt 2 (a &&& ~~~b) ||| tt 3 (a &&& b)
  .ok (s.wk f.vd.toNat (kRows (vh f)) v (vocc f + 2))
/-- KLOG by itself. -/
def execKlog (f : VF) (s : State) : Host.Outcome State Fault Refusal := finish s (semKlog f s)

/-! ## Splat, extract, insert (R177, R178) -/

/-- A scalar register named in a vector field. -/
def State.rsV (s : State) (c : BitVec 8) : DWord := s.rs (c.setWidth 6)

/-- vsplat: the low 8W bits of s[VA] in every enabled element (R177). -/
def semVsplat (f : VF) (s : State) : SlotRes :=
  let w := vfW f
  let x := (s.rsV f.va).toNat % 2 ^ (8 * w)
  let en := s.enabled f w (vfN f)
  s.dest f.vd (vh f) (elemBits w en) (ofElems w ((upFrom 0 (vfN f)).map fun _ => x)) (vocc f + 2)
/-- VSPLAT by itself. -/
def execVsplat (f : VF) (s : State) : Host.Outcome State Fault Refusal := finish s (semVsplat f s)

/-- vext: element s[VB] mod (1,024 ÷ W) of VA, sign-extended for S types (R178). -/
def semVext (f : VF) (s : State) : SlotRes :=
  let w := vfW f
  let n := (s.rsV f.vb).toNat % (1024 / w)
  let q := n * w / 64
  let (s, row) := s.rowsTake (opKey s.focus.die s.focus.tile s.focus.ctx f.va.toNat + 64 * q) 1 (s.ro f.va.toNat >>> (512 * q))
  let x := (elems w (64 / w) row).getD (n % (64 / w)) 0
  let v := if tyIsS f.ty.toNat then BitVec.ofInt 64 (readI (8 * w) true x) else BitVec.ofNat 64 x
  .ok ((s.lastUses f).ws (f.vd.setWidth 6) v 4)
/-- VEXT by itself. -/
def execVext (f : VF) (s : State) : Host.Outcome State Fault Refusal := finish s (semVext f s)

/-- vins: VD as it stands at issue with element s[VB] replaced (R178). -/
def semVins (f : VF) (s : State) : SlotRes :=
  let w := vfW f
  let n := (s.rsV f.vb).toNat % (1024 / w)
  let x := (s.rsV f.va).toNat % 2 ^ (8 * w)
  let (s, old) := s.takeO f.vd.toNat 16
  let v := mix (ofElems w ((upFrom 0 (1024 / w)).map fun e => if e = n then 2 ^ (8 * w) - 1 else 0))
    (ofElems w ((upFrom 0 (1024 / w)).map fun e => if e = n then x else 0)) old
  .ok (s.wo f.vd.toNat (BitVec.allOnes 8192) v 3)
/-- VINS by itself. -/
def execVins (f : VF) (s : State) : Host.Outcome State Fault Refusal := finish s (semVins f s)

/-! ## Scratchpad access (R179 to R181) -/

/-- The row addresses of VLD and VST, after the checks of R179: a misaligned base before a row outside the scratchpad, an order
that R179 leaves open: DESIGN CHOICE (log 86). -/
def State.vAddrs (s : State) (f : VF) : Try (List Nat) := do
  let a := (s.rsV f.va).toNat
  let l := (upFrom 0 (vh f)).map fun q => a + 64 * q
  trapIf (a % 64 != 0) 0x42 2 0 a
  match l.find? fun x => padBad x 64 with
  | some x => trapB 0x43 2 0 x
  | none => .ok l

/-- vld: row group g read at issue + 1 + g, under the mask (R179, R181); a poisoned row delivers nothing. A row of
which no element is enabled is not accessed (R162). -/
def semVld (f : VF) (s : State) : SlotRes :=
  do
  let l ← s.vAddrs f
  let w := vfW f
  let m := elemBits w (s.enabled f w (vfN f))
  let v := ofRows (s.padRows (s.t + 1) l)
  let at' := (l.zip (upFrom 0 l.length)).map fun e => (s.t + 1 + e.2 / 4, e.1, 64)
  let bad := at'.map fun e => s.padPoison e.1 e.2.1 e.2.2
  let (s, _) := s.padTake ((at'.zip (upFrom 0 (vh f))).filter fun e => rowOf m e.2 != 0).unzip.1
  let ok := ofRows (bad.map fun b => if b then 0 else BitVec.allOnes 512)
  s.dest f.vd (vh f) (m &&& ok) v (vocc f + 2)
/-- VLD by itself. -/
def execVld (f : VF) (s : State) : Host.Outcome State Fault Refusal := finish s (semVld f s)

/-- vst: row group g written at issue + 2 + g, enabled elements only (R179, R181). -/
def semVst (f : VF) (s : State) : SlotRes :=
  do
  let l ← s.vAddrs f
  let w := vfW f
  let m := elemBits w (s.enabled f w (vfN f))
  let (s, got) ← s.sources [(f.vb, vh f)]
  .ok ((s.lastUses f).padPutRows (s.t + 2) l m (pick got f.vb))
/-- VST by itself. -/
def execVst (f : VF) (s : State) : Host.Outcome State Fault Refusal := finish s (semVst f s)

/-- The index operand of VGATHER and VSCATTER (R180): rows of a read port were read before the bundle; the
port advances when the bundle executes. -/
def State.indexSource (s : State) (f : VF) : Try (State × VReg) :=
  match s.fctx.early.find? (slotNum s.focus.slot) with
  | some v =>
    if isReadPort f.vb then do
      let (s, _) ← s.portWalk (f.vb.toNat - 8) (vh f)
      .ok (s, v)
    else s.source1 f.vb (vh f)
  | none => s.source1 f.vb (vh f)

/-- Element addresses s[VA] + VB[e], exact (R13), with the checks of R180 on the enabled ones: the first misaligned
element before the first outside the scratchpad, DESIGN CHOICE (log 86). -/
def gatherAddrs (a : DWord) (en : List Bool) (idx : List Nat) : Try (List Nat) := do
  let l := idx.map fun i => a.toNat + i
  let on := ((en.zip l).filter (·.1)).map (·.2)
  match on.find? fun x => x % 4 != 0 with
  | some x => trapB 0x42 2 0 x
  | none => match on.find? fun x => padBad x 4 with
    | some x => trapB 0x43 2 0 x
    | none => .ok l

/-- vgather: row q read at issue + 1 + q (R180). -/
def semVgather (f : VF) (s : State) : SlotRes :=
  do
  let n := vfN f
  let en := s.enabled f 4 n
  let (s, iv) ← s.indexSource f
  let l ← gatherAddrs (s.rsV f.va) en (elems 4 n iv)
  let s := s.lastUses f
  let d := s.focus.die
  let t := s.focus.tile
  let vals := ((en.zip l).zip (upFrom 0 n)).map fun e =>
    if e.1.1 then leNat (s.padBytes d t (s.t + 1 + e.2 / 16) e.1.2 4) else 0
  let at' := ((en.zip l).zip (upFrom 0 n)).map fun e => (e.1.1, s.t + 1 + e.2 / 16, e.1.2, 4)
  let bad := at'.map fun e => e.1 && s.padPoison e.2.1 e.2.2.1 e.2.2.2
  let (s, _) := s.padTake ((at'.filter (·.1)).map (·.2))
  let on := (en.zip bad).map fun e => e.1 && !e.2
  s.dest f.vd (vh f) (elemBits 4 on) (ofElems 4 vals) (vh f + 3)
/-- VGATHER by itself. -/
def execVgather (f : VF) (s : State) : Host.Outcome State Fault Refusal := finish s (semVgather f s)

/-- vscatter: row q written at issue + 2 + q; of elements that name one word the highest stays (R180). -/
def semVscatter (f : VF) (s : State) : SlotRes :=
  do
  let n := vfN f
  let en := s.enabled f 4 n
  let (s, iv) ← s.indexSource f
  let l ← gatherAddrs (s.rsV f.va) en (elems 4 n iv)
  let (s, dv) ←
    if f.vc = f.vb then .ok (s, iv) else s.source1 f.vc (vh f)
  let s := s.lastUses f
  let puts := (en.zip l).zip (elems 4 n dv)
  .ok ((upFrom 0 (vh f)).foldl (fun s q =>
    s.padWrite (s.t + 2 + q) (((puts.drop (16 * q)).take 16).flatMap fun e =>
      if e.1.1 then atAddr e.1.2 (leBytes 4 e.2) else [])) s)
/-- VSCATTER by itself. -/
def execVscatter (f : VF) (s : State) : Host.Outcome State Fault Refusal := finish s (semVscatter f s)

/-! ## Port parameters (R165, R166) -/

/-- A port's parameters from the first 40 bytes of a row, position 0 (R165). -/
def portOfRow (r : Row) : Port :=
  let x := r.toNat
  let w (i : Nat) : Nat := x / 2 ^ (32 * i) % 2 ^ 32
  { base := x % 2 ^ 19, cnt := [w 2, w 4, w 6, w 8], str := [3, 5, 7, 9].map fun i => readI 32 true (w i),
    pos := [0, 0, 0, 0] }

/-- gset: parameters and position for bundles issued later (R165, R166). -/
def semGset (f : VF) (s : State) : SlotRes :=
  do
  let (s, got) ← s.sources [(f.va, 1)]
  .ok ((s.lastUses f).addLate (.gset f.vc.toNat (rowOf (pick got f.va) 0)))
/-- GSET by itself. -/
def execGset (f : VF) (s : State) : Host.Outcome State Fault Refusal := finish s (semGset f s)

/-- greset: positions to 0 for bundles issued later (R165, R166). -/
def semGreset (f : VF) (s : State) : SlotRes :=
  .ok (s.addLate (.greset f.vc.toNat))
/-- GRESET by itself. -/
def execGreset (f : VF) (s : State) : Host.Outcome State Fault Refusal := finish s (semGreset f s)

end Sys2Proof.Machine
end

