-- ==== Sys2Proof/Machine/Axis.lean ====
section
/-! DEFINITION. Vector instructions over an axis, top-k, conversions, and special functions (R183 to R198). -/

namespace Sys2Proof.Machine

/-- A of R183 as rows of elements. -/
def grid (w h : Nat) (v : VReg) : List (List Nat) :=
  let l := elems w (perRows w h) v
  (upFrom 0 h).map fun j => (l.drop (j * (64 / w))).take (64 / w)
/-- Element of a grid. -/
def cell (g : List (List Nat)) (j i : Nat) : Nat := (g.getD j []).getD i 0
/-- The elements of h rows by a function of row and position. -/
def tabulate (w h : Nat) (g : Nat → Nat → Nat) : List Nat :=
  (upFrom 0 h).flatMap fun j => (upFrom 0 (64 / w)).map fun i => g j i

/-- A movement under the mask: n is s[VB], read at issue as unsigned (R186). -/
def State.moveOp (s : State) (f : VF) (bound : Nat) (g : List (List Nat) → Nat → Nat → Nat → Nat → Nat → Nat) :
    SlotRes := do
  let w := vfW f
  let h := vh f
  let n := (s.rsV f.vb).toNat
  let en := s.enabled f w (vfN f)
  let (s, got) ← s.sources [(f.va, h)]
  let s := s.lastUses f
  let a := grid w h (pick got f.va)
  s.dest f.vd h (elemBits w en) (ofElems w (tabulate w h (g a n (64 / w) h))) bound

/-! ## Reductions and scans (R189 to R191) -/

/-- Exact addition through a quire, rounded once (R150, R190). -/
def quireAll (m : Fmt) (rm : Nat) (l : List Nat) : Nat × Flags :=
  let q := quireSum m.isF 0 (l.map m.dec)
  let r := quireRound m rm q.1
  (r.1, q.2 ||| r.2)

/-- Combine (R190): the value of a leaf sequence, absent leaves none. -/
def combine (f : VF) (l : List (Option Nat)) : Nat × Flags :=
  let m := vfFmt f
  let on := l.filterMap id
  match opnOf f with
  | 0 => match m with
    | .i w s => fitI w s f.sat ((on.map (readI w s)).sum)
    | .t .. => quireAll m 0 on
    | _ => if qBit f then quireAll m f.rm.toNat on else canonOp (m.addNode f.rm.toNat) l
  | 1 => canonOp (m.minmax false) l
  | 2 => canonOp (m.minmax true) l
  | 3 => (match on with
    | [] => 0
    | x :: r => r.foldl (· &&& ·) x, 0)
  | 4 => (on.foldl (· ||| ·) 0, 0)
  | _ => (on.foldl (· ^^^ ·) 0, 0)

/-- The leaves of the source as rows; a disabled element is absent (R190). -/
def leaves (f : VF) (en : List Bool) (v : VReg) : List (List (Option Nat)) :=
  let w := vfW f
  let l := (en.zip (elems w (vfN f) v)).map fun e => if e.1 then some e.2 else none
  (upFrom 0 (vh f)).map fun j => (l.drop (j * (64 / w))).take (64 / w)
/-- The columns of a grid of leaves. -/
def columns (p : Nat) (g : List (List (Option Nat))) : List (List (Option Nat)) :=
  (upFrom 0 p).map fun i => g.map fun r => (r[i]?).getD none

/-- Bounds of a reduction or scan (R184). -/
def redBound (f : VF) (col : Bool) : Nat :=
  let ty := f.ty.toNat
  let o := vocc f
  if opnOf f = 0 && (tyIsT ty || (tyIsF ty && qBit f)) then o + 12
  else if opnOf f = 0 && tyIsF ty then (if col then o + 10 else o + 8)
  else if col then o + 6 else o + 4

/-- The source of a reduction as leaves. -/
def State.redSource (s : State) (f : VF) : Try (State × List (List (Option Nat))) := do
  let en := s.enabled f (vfW f) (vfN f)
  let (s, got) ← s.sources [(f.va, vh f)]
  .ok (s.lastUses f, leaves f en (pick got f.va))

/-- Write one row of results, zeros after them (R191). -/
def State.putRow (s : State) (f : VF) (l : List (Nat × Flags)) (bound : Nat) : SlotRes := do
  let s ← s.dest f.vd 1 (rowMask 1) (ofElems (vfW f) (l.map (·.1))) bound
  .ok (s.wf (orFlags (l.map (·.2))) bound)

/-- Write every element of h rows (R191). -/
def State.putScan (s : State) (f : VF) (l : List (Nat × Flags)) (bound : Nat) : SlotRes := do
  let s ← s.dest f.vd (vh f) (rowMask (vh f)) (ofElems (vfW f) (l.map (·.1))) bound
  .ok (s.wf (orFlags (l.map (·.2))) bound)

/-- The values of the cut sequences 0 to i (R191). -/
def scanOf (f : VF) (l : List (Option Nat)) : List (Nat × Flags) :=
  (upFrom 1 l.length).map fun n => combine f (l.take n)

/-! ## Top-k (R146, R192) -/

/-- TopKBefore over codes (R146). -/
def topkBefore (m : Fmt) (a b : Nat × Nat) : Bool :=
  let nan (x : Nat) : Bool := match m with
    | .i .. => false
    | m => (m.dec x).isNan
  let na := nan a.1
  let nb := nan b.1
  if na != nb then nb
  else if !na && (m.lt a.1 b.1 || m.lt b.1 a.1) then m.lt b.1 a.1
  else a.2 < b.2

/-- Insert behind every entry that is not after the new one. -/
def rankIn (m : Fmt) (x : Nat × Nat) : List (Nat × Nat) → List (Nat × Nat)
  | [] => [x]
  | y :: l => if topkBefore m x y then x :: y :: l else y :: rankIn m x l
/-- Candidates in order of TopKBefore; equal ones keep the order of their elements (R192). -/
def ranked (m : Fmt) (l : List (Nat × Nat)) : List (Nat × Nat) := l.foldl (fun a x => rankIn m x a) []

/-! ## Conversion layouts (R196, R197) -/

/-- The source format of vcvt. -/
def cvtSrc (f : VF) : Fmt := if cvtXS f then xFmt f.ty.toNat else tyFmt f.ty.toNat f.es.toNat
/-- The destination format of vcvt. -/
def cvtDst (f : VF) : Fmt := if cvtXD f then xFmt (cvtDty f) else tyFmt (cvtDty f) (cvtDes f)
/-- Elements of a format in a row: by its width, 64 for every X format (R197). -/
def perRow (m : Fmt) : Nat := if m.bits = 32 then 16 else if m.bits = 16 then 32 else 64
/-- Bit position of element e of a format in a register (R136, R197). -/
def cvtPos (m : Fmt) (e : Nat) : Nat := 512 * (e / perRow m) + m.bits * (e % perRow m)

/-- Place codes at bit positions. -/
def placeBits (l : List (Nat × Nat)) : VReg :=
  BitVec.ofNat 8192 ((l.map fun e => e.2 * 2 ^ e.1).sum)

/-- The result register of vcvt from the old one (R197): enabled elements are written, the padding of a whole
destination row is zero, everything else keeps its bits. -/
def cvtInto (d : Fmt) (n : Nat) (en : List Bool) (codes : List Nat) (old : VReg) : VReg :=
  let p := perRow d
  let ones := 2 ^ d.bits - 1
  let pos := (upFrom 0 n).map (cvtPos d)
  let m := placeBits ((en.zip pos).map fun e => (e.2, if e.1 then ones else 0))
  let v := placeBits ((en.zip (pos.zip codes)).map fun e => (e.2.1, if e.1 then e.2.2 else 0))
  let pad := if p * d.bits < 512 then
      placeBits ((upFrom 0 (n / p)).map fun j => (512 * j + p * d.bits, 2 ^ (512 - p * d.bits) - 1))
    else 0
  mix (m ||| pad) v old

/-! ## Rotate, broadcast, transpose, shuffle (R186 to R188) -/

/-- vrotr: D[j, i] ← A[j, (i + n) mod P]. -/
def semVrotr (f : VF) (s : State) : SlotRes :=
  s.moveOp f (vocc f + 2) fun a n p _ j i => cell a j ((i + n) % p)
/-- VROTR by itself. -/
def execVrotr (f : VF) (s : State) : Host.Outcome State Fault Refusal := finish s (semVrotr f s)

/-- vrotc: D[j, i] ← A[(j + n) mod H, i]. -/
def semVrotc (f : VF) (s : State) : SlotRes :=
  s.moveOp f (vocc f + 6) fun a n _ h j i => cell a ((j + n) % h) i
/-- VROTC by itself. -/
def execVrotc (f : VF) (s : State) : Host.Outcome State Fault Refusal := finish s (semVrotc f s)

/-- vbcr: D[j, i] ← A[j, n mod P]. -/
def semVbcr (f : VF) (s : State) : SlotRes :=
  s.moveOp f (vocc f + 2) fun a n p _ j _ => cell a j (n % p)
/-- VBCR by itself. -/
def execVbcr (f : VF) (s : State) : Host.Outcome State Fault Refusal := finish s (semVbcr f s)

/-- vbcc: D[j, i] ← A[n mod H, i]. -/
def semVbcc (f : VF) (s : State) : SlotRes :=
  s.moveOp f (vocc f + 6) fun a n _ h _ i => cell a (n % h) i
/-- VBCC by itself. -/
def execVbcc (f : VF) (s : State) : Host.Outcome State Fault Refusal := finish s (semVbcc f s)

/-- vredr: row j's sequence to element j of row 0 (R191). -/
def semVredr (f : VF) (s : State) : SlotRes :=
  do
  let (s, g) ← s.redSource f
  s.putRow f (g.map (combine f)) (redBound f false)
/-- VREDR by itself. -/
def execVredr (f : VF) (s : State) : Host.Outcome State Fault Refusal := finish s (semVredr f s)

/-- vredc: position i's sequence to element i of row 0 (R191). -/
def semVredc (f : VF) (s : State) : SlotRes :=
  do
  let (s, g) ← s.redSource f
  s.putRow f ((columns (64 / vfW f) g).map (combine f)) (redBound f true)
/-- VREDC by itself. -/
def execVredc (f : VF) (s : State) : Host.Outcome State Fault Refusal := finish s (semVredc f s)

/-- vscan.r: row j's sequence cut to 0 to i (R191). -/
def semVscanR (f : VF) (s : State) : SlotRes :=
  do
  let (s, g) ← s.redSource f
  s.putScan f (g.flatMap (scanOf f)) (redBound f false)
/-- VSCANR by itself. -/
def execVscanR (f : VF) (s : State) : Host.Outcome State Fault Refusal := finish s (semVscanR f s)

/-- vscan.c: position i's sequence cut to rows 0 to j (R191). -/
def semVscanC (f : VF) (s : State) : SlotRes :=
  do
  let (s, g) ← s.redSource f
  let c := (columns (64 / vfW f) g).map (scanOf f)
  s.putScan f ((upFrom 0 (vh f)).flatMap fun j => c.map fun x => x.getD j (0, 0)) (redBound f true)
/-- VSCANC by itself. -/
def execVscanC (f : VF) (s : State) : Host.Outcome State Fault Refusal := finish s (semVscanC f s)

/-- vtrn: each block of 16 × 16 elements transposed (R188). -/
def semVtrn (f : VF) (s : State) : SlotRes :=
  do
  let w := vfW f
  let (s, got) ← s.sources [(f.va, 16)]
  let s := s.lastUses f
  let a := grid w 16 (pick got f.va)
  let v := ofElems w (tabulate w 16 fun j i => cell a (i % 16) (i / 16 * 16 + j))
  s.dest f.vd 16 (rowMask 16) v 10
/-- VTRN by itself. -/
def execVtrn (f : VF) (s : State) : Host.Outcome State Fault Refusal := finish s (semVtrn f s)

/-- vshfr: D[j, i] ← A[j, B[j, i] mod P] (R187). -/
def semVshfr (f : VF) (s : State) : SlotRes :=
  do
  let w := vfW f
  let h := vh f
  let en := s.enabled f w (vfN f)
  let (s, got) ← s.sources [(f.va, h), (f.vb, h)]
  let s := s.lastUses f
  let a := grid w h (pick got f.va)
  let b := grid w h (pick got f.vb)
  let v := ofElems w (tabulate w h fun j i => cell a j (cell b j i % (64 / w)))
  s.dest f.vd h (elemBits w en) v (vocc f + 2)
/-- VSHFR by itself. -/
def execVshfr (f : VF) (s : State) : Host.Outcome State Fault Refusal := finish s (semVshfr f s)

/-- vtopk: the first k candidates by TopKBefore, values in row 0, indices in row 1 (R192). -/
def semVtopk (f : VF) (s : State) : SlotRes :=
  do
  let h := vh f
  let n := vfN f
  let k := min 16 (s.rsV f.vc).toNat
  let en := s.enabled f 4 n
  let (s, got) ← s.sources [(f.va, h), (f.vb, h)]
  let s := s.lastUses f
  let cand := (en.zip ((elems 4 n (pick got f.va)).zip (elems 4 n (pick got f.vb)))).filterMap fun e =>
    if e.1 then some e.2 else none
  let l := (ranked (vfFmt f) cand).take k
  let row0 := (upFrom 0 16).map fun t => ((l[t]?).map (·.1)).getD 0
  let row1 := (upFrom 0 16).map fun t => ((l[t]?).map (·.2)).getD 0xFFFFFFFF
  s.dest f.vd 2 (rowMask 2) (ofElems 4 (row0 ++ row1)) (h + 12)
/-- VTOPK by itself. -/
def execVtopk (f : VF) (s : State) : Host.Outcome State Fault Refusal := finish s (semVtopk f s)

/-! ## Conversion (R196 to R198) -/

/-- vcvt: N = H × min(Ps, Pd) elements, from ⌈N ÷ Ps⌉ source rows to ⌈N ÷ Pd⌉ destination rows (R197). -/
def semVcvt (f : VF) (s : State) : SlotRes :=
  do
  let sm := cvtSrc f
  let d := cvtDst f
  let pm := min (perRow sm) (perRow d)
  let n := vh f * pm
  let rs := (n + perRow sm - 1) / perRow sm
  let rd := (n + perRow d - 1) / perRow d
  let k := s.rk f.km.toNat
  let en := (upFrom 0 n).map fun e => !f.ke || k.getLsbD (64 * (e / pm) + e % pm * (64 / pm))
  let kept := if en.all id then 0 else rd
  let (s, old) := if isO f.vd then s.takeO f.vd.toNat kept else if isV f.vd then s.takeV (s.vNum f.vd) kept else (s, 0)
  let (s, got) ← s.sources [(f.va, rs)]
  let s := s.lastUses f
  let x := (pick got f.va).toNat
  let res := (upFrom 0 n).map fun e =>
    convert sm d f.rm.toNat f.sat (x / 2 ^ cvtPos sm e % 2 ^ sm.bits)
  let v := cvtInto d n en (res.map (·.1)) old
  let s ← s.dest f.vd rd (rowMask rd) v (vocc f + 4)
  .ok (s.wf (flagsOf en res) (vocc f + 4))
/-- VCVT by itself. -/
def execVcvt (f : VF) (s : State) : Host.Outcome State Fault Refusal := finish s (semVcvt f s)

/-! ## Special functions (R193 to R195) -/

/-- vrcp: 1 ÷ a. -/
def semVrcp (f : VF) (s : State) : SlotRes :=
  s.ew1 f (vocc f + 10) fun a => (vfFmt f).deliver f.rm.toNat (rcpV ((vfFmt f).dec a))
/-- VRCP by itself. -/
def execVrcp (f : VF) (s : State) : Host.Outcome State Fault Refusal := finish s (semVrcp f s)

/-- vrsq: 1 ÷ √a. -/
def semVrsq (f : VF) (s : State) : SlotRes :=
  s.ew1 f (vocc f + 10) fun a => (vfFmt f).deliver f.rm.toNat (rsqV ((vfFmt f).dec a))
/-- VRSQ by itself. -/
def execVrsq (f : VF) (s : State) : Host.Outcome State Fault Refusal := finish s (semVrsq f s)

/-- vsqrt: √a. -/
def semVsqrt (f : VF) (s : State) : SlotRes :=
  s.ew1 f (vocc f + 10) fun a => (vfFmt f).deliver f.rm.toNat (sqrtV ((vfFmt f).dec a))
/-- VSQRT by itself. -/
def execVsqrt (f : VF) (s : State) : Host.Outcome State Fault Refusal := finish s (semVsqrt f s)

/-- vdiv: a ÷ b. -/
def semVdiv (f : VF) (s : State) : SlotRes :=
  s.ew2 f (vocc f + 12) fun a b =>
    (vfFmt f).deliver f.rm.toNat (divV ((vfFmt f).dec a) ((vfFmt f).dec b))
/-- VDIV by itself. -/
def execVdiv (f : VF) (s : State) : Host.Outcome State Fault Refusal := finish s (semVdiv f s)

/-- vexp2: 2^a. -/
def semVexp2 (f : VF) (s : State) : SlotRes :=
  s.ew1 f (vocc f + 10) (Fn.apply .exp2 (vfFmt f) f.rm.toNat)
/-- VEXP2 by itself. -/
def execVexp2 (f : VF) (s : State) : Host.Outcome State Fault Refusal := finish s (semVexp2 f s)

/-- vlog2: log2 a. -/
def semVlog2 (f : VF) (s : State) : SlotRes :=
  s.ew1 f (vocc f + 10) (Fn.apply .log2 (vfFmt f) f.rm.toNat)
/-- VLOG2 by itself. -/
def execVlog2 (f : VF) (s : State) : Host.Outcome State Fault Refusal := finish s (semVlog2 f s)

/-- vexp: e^a. -/
def semVexp (f : VF) (s : State) : SlotRes :=
  s.ew1 f (vocc f + 14) (Fn.apply .exp (vfFmt f) f.rm.toNat)
/-- VEXP by itself. -/
def execVexp (f : VF) (s : State) : Host.Outcome State Fault Refusal := finish s (semVexp f s)

/-- vlog: ln a. -/
def semVlog (f : VF) (s : State) : SlotRes :=
  s.ew1 f (vocc f + 14) (Fn.apply .log (vfFmt f) f.rm.toNat)
/-- VLOG by itself. -/
def execVlog (f : VF) (s : State) : Host.Outcome State Fault Refusal := finish s (semVlog f s)

/-- vtanh: tanh a. -/
def semVtanh (f : VF) (s : State) : SlotRes :=
  s.ew1 f (vocc f + 14) (Fn.apply .tanh (vfFmt f) f.rm.toNat)
/-- VTANH by itself. -/
def execVtanh (f : VF) (s : State) : Host.Outcome State Fault Refusal := finish s (semVtanh f s)

/-- vsig: 1 ÷ (1 + e^−a). -/
def semVsig (f : VF) (s : State) : SlotRes :=
  s.ew1 f (vocc f + 14) (Fn.apply .sig (vfFmt f) f.rm.toNat)
/-- VSIG by itself. -/
def execVsig (f : VF) (s : State) : Host.Outcome State Fault Refusal := finish s (semVsig f s)

/-- vsin: sin a. -/
def semVsin (f : VF) (s : State) : SlotRes :=
  s.ew1 f (vocc f + 18) (Fn.apply .sin (vfFmt f) f.rm.toNat)
/-- VSIN by itself. -/
def execVsin (f : VF) (s : State) : Host.Outcome State Fault Refusal := finish s (semVsin f s)

/-- vcos: cos a. -/
def semVcos (f : VF) (s : State) : SlotRes :=
  s.ew1 f (vocc f + 18) (Fn.apply .cos (vfFmt f) f.rm.toNat)
/-- VCOS by itself. -/
def execVcos (f : VF) (s : State) : Host.Outcome State Fault Refusal := finish s (semVcos f s)

end Sys2Proof.Machine
end

