-- ==== Sys2Proof/Machine/Xlate.lean ====
section
/-! DEFINITION. Translation (R378 to R386), the address space of a context (R300, R301), imports (R394 to
R396), and the endpoints that addresses belong to (R324). -/

namespace Sys2Proof.Machine

/-! ## Tables in memory -/

/-- A doubleword at a die-physical address. -/
def State.readD (s : State) (d a : Nat) : DWord := bytesD (s.load (dieKey d a) 8)
/-- Bit n of a doubleword. -/
def bit (v : DWord) (n : Nat) : Bool := v.getLsbD n

/-- Address of an ASID entry (R378). -/
def State.asidAt (s : State) (d asid : Nat) : Nat := fld (s.ctl d 0x80) 51 0 + 32 * asid
/-- The ASID is enabled (R378); with the base 0 none is (R411). -/
def State.asidEn (s : State) (d asid : Nat) : Bool :=
  fld (s.ctl d 0x80) 51 0 != 0 && bit (s.readD d (s.asidAt d asid)) 63
/-- The ASID may run the isolation instructions (R378). -/
def State.asidSys (s : State) (d asid : Nat) : Bool := bit (s.readD d (s.asidAt d asid)) 62
/-- Address of entry n of an ASID's range table (R380). -/
def State.rangeAt (s : State) (d asid n : Nat) : Nat :=
  fld (s.readD d (s.asidAt d asid + 8)) 51 0 + 32 * n

/-- A range entry is well-formed (R379). -/
def rangeOk (e0 e1 e2 e3 : DWord) : Bool :=
  fld e0 62 57 == 0 && fld e1 63 57 == 0 && fld e2 63 52 == 0 && fld e3 55 0 == 0
    && fld e0 11 0 == 0 && fld e1 11 0 == 0 && fld e2 11 0 == 0 && fld e0 56 0 < fld e1 56 0

/-- A fault of translation: the kind of R310 and the malformed bit of R381. -/
structure XFault where
  kind : Nat
  mal : Bool := false
  deriving DecidableEq, Repr

/-- The status word of a translation fault. -/
def XFault.status (f : XFault) : Nat := f.kind + (if f.mal then 16 else 0)

/-- Aperture, physical address, attributes and log2 of the leaf's page, before the import slot is resolved. -/
abbrev Phys := Nat × Nat × BitVec 8 × Nat

/-- The first range entry that covers an address (R379), from entry n on. A physical address has 52 bits (R383): what a
range reaches past them wraps: DESIGN CHOICE (log 94). -/
def State.rangeFind (s : State) (d asid va : Nat) : Nat → Nat → Option Phys
  | _, 0 => none
  | n, k + 1 =>
    let a := s.rangeAt d asid n
    let e0 := s.readD d a
    let e1 := s.readD d (a + 8)
    let e2 := s.readD d (a + 16)
    let e3 := s.readD d (a + 24)
    if bit e0 63 && rangeOk e0 e1 e2 e3 && fld e0 56 0 ≤ va && va < fld e1 56 0 then
      some (fld e3 63 62, (fld e2 51 0 + (va - fld e0 56 0)) % 2 ^ 52, BitVec.ofNat 8 (fld e3 63 56), 12)
    else s.rangeFind d asid va (n + 1) k

/-- Low address bits that a leaf of a level must have zero (R381). -/
def leafBits (lvl : Nat) (p64 : Bool) : Nat :=
  if lvl = 1 then 30 else if lvl = 2 then 21 else if p64 then 16 else 12

/-- The page walk (R381) from a table at a level; `left` counts the levels that remain. -/
def State.walk (s : State) (d va : Nat) : Nat → Nat → Nat → Except XFault Phys
  | 0, _, _ => .error ⟨0, false⟩
  | left + 1, lvl, table =>
    let idx := if lvl = 0 then va / 2 ^ 39 % 2 ^ 18 else va / 2 ^ (39 - 9 * lvl) % 512
    let e := s.readD d (table + 8 * idx)
    let addr := fld e 51 12 * 4096
    if !bit e 0 then .error ⟨0, false⟩
    else if fld e 55 52 != 0 || fld e 11 3 != 0 then .error ⟨0, true⟩
    else if bit e 1 then
      let n := leafBits lvl (bit e 2)
      if lvl = 0 || (bit e 2 && lvl != 3) || addr % 2 ^ n != 0 then .error ⟨0, true⟩
      else .ok (fld e 63 62, addr + va % 2 ^ n, BitVec.ofNat 8 (fld e 63 56), n)
    else if lvl = 3 || bit e 2 || fld e 63 56 != 0 then .error ⟨0, true⟩
    else s.walk d va left (lvl + 1) addr

/-- Walk from the ASID's level-0 table (R378, R381). -/
def State.walkRoot (s : State) (d asid va : Nat) : Except XFault Phys :=
  let l0 := fld (s.readD d (s.asidAt d asid)) 51 0
  if l0 = 0 then .error ⟨0, false⟩ else s.walk d va 4 0 l0

/-! ## Import slots (R394) -/

/-- A slot is well-formed: no reserved bit, aligned, a length in range. Bits 40:6 of TLEN count as reserved under KIND 1: DESIGN
CHOICE (log 113). -/
def slotOk (e0 e1 e2 : DWord) : Bool :=
  fld e0 58 48 == 0 && fld e0 13 0 == 0 && fld e1 63 52 == 0 && fld e2 63 41 == 0
    && (if bit e0 62 then fld e2 40 6 == 0
      else fld e1 11 0 == 0 && fld e2 11 0 == 0 && fld e2 40 0 != 0 && fld e2 40 0 ≤ 2 ^ 40)

/-- Resolve the page of a peer address: slot in bits 51:40, offset in bits 39:0 (R383, R394). None where the slot is not
valid or the offset is beyond its region. -/
def State.resolveSlot (s : State) (d addr : Nat) : Option Imp :=
  let a := fld (s.ctl d 0x88) 51 0 + 32 * (addr / 2 ^ 40)
  let x := addr % 2 ^ 40
  let e0 := s.readD d a
  let e1 := s.readD d (a + 8)
  let e2 := s.readD d (a + 16)
  if !bit e0 63 || !slotOk e0 e1 e2 then none
  else
    let i : Imp := { group := bit e0 62, rights := fld e0 61 59, tasid := fld e0 47 32,
                     module := fld e0 31 16, die := fld e0 15 14, base := fld e1 51 0 + x, grp := fld e2 5 0 }
    if i.group then some { i with base := x }
    else if fld e2 40 0 ≤ x then none else some i

/-! ## Translate (R379, R383, R385, R386) -/

/-- HBM4 addresses of a die: the two stacks (R383). -/
def hbmEnd : Nat := 0x2000000000

/-- A fresh translation of the 4 KiB page that holds an address. -/
def State.translateFresh (s : State) (d asid va : Nat) : Except XFault XRes := do
  let page := va / 4096 * 4096
  let (aper, addr, attr, lg) ← match s.rangeFind d asid page 0 64 with
    | some p => .ok p
    | none => s.walkRoot d asid page
  match aper with
  | 0 => if addr < hbmEnd then .ok ⟨0, addr, attr, none, lg⟩ else .error ⟨0, false⟩
  | 1 => if addr < 2 ^ 40 then .ok ⟨1, addr, attr, none, lg⟩ else .error ⟨0, false⟩
  | 2 => .ok ⟨2, addr, attr, s.resolveSlot d addr, lg⟩
  | _ => .ok ⟨3, addr, attr, none, lg⟩

/-- Translate an address, with the translations that the die may still hold (R386, log 9): where a held one differs from
the tables, which of them is used is a free choice, one for each 64-byte row in each cycle. -/
def State.translate (s : State) (d asid va : Nat) : State × Except XFault XRes :=
  let page := va / 4096
  let fresh := s.translateFresh d asid va
  let keep (r : XRes) : State := s.modDie d fun x =>
    { x with tlb := (⟨asid, page, r⟩ :: x.tlb.filter fun e => !(e.asid == asid && e.page == page)).take 16384 }
  match (s.die d).tlb.find? fun e => e.asid == asid && e.page == page with
  | none => match fresh with
    | .ok r => (keep r, .ok r)
    | .error f => (s, .error f)
  | some e =>
    if fresh = .ok e.res then (s, fresh)
    else if Config.freeNat 9 ((s.now * 65536 + asid) * 2 ^ 51 + va / 64) % 2 = 0 then (s, .ok e.res)
    else match fresh with
      | .ok r => (keep r, .ok r)
      | .error f => (s, .error f)

/-! ## Agents and rights (R384) -/

/-- Who accesses (R384). -/
inductive Agent where
  | fetch | read | write | update | marker | signal | xfetch
  deriving DecidableEq, Repr

/-- Reads need R; writes and updates need W with TRO clear (R384). -/
def Agent.reads : Agent → Bool
  | .read => true
  | _ => false

/-- The regions of R300. -/
inductive VRegion where
  | own | window | hole | peer | xlate | bad
  deriving DecidableEq, Repr

/-- The region of a virtual address; 57 bits (R300, log 24). -/
def vregion (va : Nat) : VRegion :=
  if va < padSize then .own
  else if 0x1000000000 ≤ va && va < 0x1010000000 then
    (if va % 0x80000 < padSize then .window else .hole)
  else if 0x180000000000000 ≤ va && va < 0x200000000000000 then .peer
  else if 0x200000000000000 ≤ va then .bad
  else .xlate

/-- The aperture of a leaf is one that the agent may use, for an address of the region (R384). A scatter update to an address of
the peer window may go to the local stacks, as R471 has it against R384's last sentence: DEDUCED (log 111). -/
def aperOk (g : Agent) (region : VRegion) (aper : Nat) : Bool :=
  match aper, g with
  | 0, .update => true
  | 0, _ => region != .peer
  | 1, .fetch => region != .peer
  | 1, _ => false
  | 2, .fetch => false
  | 2, _ => region == .peer
  | _, .update => false
  | _, .xfetch => false
  | _, _ => region != .peer
/-- A group slot admits markers and updates alone (R384). -/
def groupOk (g : Agent) (i : Imp) : Bool := !i.group || g == .update || g == .marker
/-- The right of the leaf that the agent needs; the fault's kind where it is lacking. An update needs RAP last: `noRap`
where that alone is lacking (R384). -/
def noRap : Nat := 8
def leafRight (g : Agent) (a : BitVec 8) : Option Nat :=
  match g with
  | .fetch => if a.getLsbD 2 then none else some 1
  | .read => if a.getLsbD 0 then none else some 1
  | .update | .xfetch => if !a.getLsbD 1 || a.getLsbD 3 then some 1 else if a.getLsbD 5 then none else some noRap
  | _ => if a.getLsbD 1 && !a.getLsbD 3 then none else some 1
/-- RIGHTS of an import slot grant what the agent needs (R394): bit 2 read, 1 write, 0 atomic. -/
def slotRight (g : Agent) (i : Imp) : Bool :=
  match g with
  | .fetch => true
  | .read => i.rights.testBit 2
  | .update | .xfetch => i.rights.testBit 0
  | _ => i.rights.testBit 1
/-- The fault of an RSTF at a group slot, which is remote address invalid (R384, R328). -/
def noGroup : Nat := 9
/-- Check a leaf for an agent: the kind of the first check that fails. The leaf comes first, poison-hold before aperture
(R384); then its import slot (R394), what a group slot admits, the leaf's right and, last, the slot's (R467, log 28). -/
def checkLeaf (g : Agent) (region : VRegion) (r : XRes) : Option Nat :=
  if r.attr.getLsbD 4 then some 2
  else if !aperOk g region r.aper then some 3
  else match r.imp with
    | none => if r.aper = 2 then some 0 else leafRight g r.attr
    | some i =>
      if !groupOk g i then some (if g = .signal then noGroup else 3)
      else match leafRight g r.attr with
        | some k => some k
        | none => if slotRight g i then none else some 1

/-- The role with which a port last trained (R407). -/
def State.portRole (s : State) (p : Nat) : Nat := s.coll.trained.get p
/-- The negotiated level of a port (R407 LVL). -/
def State.portLevel (s : State) (p : Nat) : Nat := fld (s.coll.mgmt.get (0x200 + 8 * p)) 59 56
/-- A port of the collective die that is trained and up, with its role enabled (R407). -/
def State.portUsable (s : State) (p : Nat) : Bool :=
  p < 36 && s.portRole p != 0 && s.portLevel p != 0 && bit (s.coll.mgmt.get (0x200 + 8 * p)) 55
/-- This module's number (R407). -/
def State.modnum (s : State) : Nat := fld (s.coll.mgmt.get 0x10) 15 0
/-- The external port that a module number is routed to (R407). -/
def State.routeFrom (s : State) (m : Nat) : Nat → Nat → Option Nat
  | _, 0 => none
  | i, k + 1 =>
    let e := s.coll.mgmt.get (0x1000 + 8 * i)
    if bit e 63 && s.portUsable (fld e 61 56) && (m &&& fld e 47 32) == (fld e 15 0 &&& fld e 47 32) then
      some (fld e 61 56)
    else s.routeFrom m (i + 1) k
/-- The route of a module (R397). -/
def State.route (s : State) (m : Nat) : Option Nat :=
  if s.coll.mgmt.any fun e => 0x1000 ≤ e.1 && e.1 < 0x3000 then s.routeFrom m 0 1024 else none

/-- Where an access goes. -/
inductive Place where
  /-- Local HBM4 or, through the peer window, any die-physical address. -/
  | die (d addr : Nat)
  | host (addr : Nat)
  | tier (addr : Nat)
  /-- The tile window. -/
  | tile (t x : Nat)
  /-- The peer window: module, die, die-physical address, TASID. -/
  | peer (m d addr tasid : Nat)
  /-- A reduction group, by byte offset. -/
  | group (g off : Nat)
  deriving DecidableEq, Repr

/-- Endpoint of a die-physical address (R324). -/
def dieEndpoint (m d addr : Nat) : Endpoint :=
  if 0x10000000000 ≤ addr then ⟨m, d, 0, (addr - 0x10000000000) / 0x80000⟩
  else ⟨m, d, 1, addr / 0x1000000000⟩
/-- The endpoint of a place (R324). -/
def State.endpoint (s : State) (die : Nat) : Place → Endpoint
  | .die d a => dieEndpoint s.modnum d a
  | .host _ => ⟨s.modnum, 0, 2, 0⟩
  | .tier _ => ⟨s.modnum, 0, 4, 0⟩
  | .tile t _ => ⟨s.modnum, die, 0, t⟩
  | .peer m d a _ => dieEndpoint m d a
  | .group _ _ => ⟨s.modnum, 0, 3, 0⟩
/-- Key of an endpoint's tracker. -/
def Endpoint.key (e : Endpoint) : Nat := e.kind * 4096 + e.die * 1024 + e.idx

/-- The place of an address outside the own scratchpad for an agent, or the kind of its fault (R300, R310,
R384, R397). `asid` is that of the access, and `mask` the attributes of the leaf that count. -/
def State.reachBy (s : State) (mask : BitVec 8) (d asid : Nat) (g : Agent) (va : Nat) : State × Except XFault Place :=
  match vregion va with
  | .own => (s, .error ⟨3, false⟩)
  | .hole => (s, .error ⟨if g = .fetch then 3 else 4, false⟩)
  | .window =>
    let x := va - 0x1000000000
    if g = .fetch then (s, .error ⟨3, false⟩) else (s, .ok (.tile (x / 0x80000) (x % 0x80000)))
  | .bad => (s, .error ⟨0, false⟩)
  | region =>
    if region = .peer && g = .fetch then (s, .error ⟨3, false⟩)
    else
      let (s, r) := s.translate d asid va
      match r with
      | .error f => (s, .error f)
      | .ok r =>
        match checkLeaf g region { r with attr := r.attr &&& mask } with
        | some k => (s, .error ⟨k, false⟩)
        | none =>
          let off := va % 4096
          (s, match r.imp with
            | some i =>
              if i.group then .ok (.group i.grp (i.base + off))
              else if i.module != s.modnum && (s.route i.module).isNone then .error ⟨0, false⟩
              else .ok (.peer i.module i.die (i.base + off) i.tasid)
            | none => .ok (match r.aper with
              | 0 => .die d (r.addr + off)
              | 1 => .tier (r.addr + off)
              | _ => .host (r.addr + off)))

/-- The place of an address for an agent, every attribute of the leaf counting. -/
def State.reach (s : State) (d asid : Nat) (g : Agent) (va : Nat) : State × Except XFault Place :=
  s.reachBy (BitVec.allOnes 8) d asid g va
/-- The same with poison-hold left out. -/
def State.reachHeld (s : State) (d asid : Nat) (g : Agent) (va : Nat) : State × Except XFault Place :=
  s.reachBy 0xEF d asid g va

/-! ## The check at the target (R301, R396) -/

/-- The ASID of the caravan that occupies a tile; none where there is none. -/
def State.tileAsid (s : State) (d t : Nat) : Option Nat :=
  match (s.tile d t).occ with
  | some c => some ((s.die d).cars.get c).asid
  | none => none

/-- Source key of a request (R396): the die for this module, the module map for another. -/
def State.sourceKey (s : State) (d m srcDie : Nat) : Option Nat :=
  if m = s.modnum then some srcDie
  else
    let t := fld (s.ctl d 0x90) 51 0
    (upFrom 4 252).find? fun k =>
      let e := s.readD d (t + 0x40000 + 8 * k)
      bit e 63 && fld e 15 0 == m

/-- A source range entry is well-formed (R396): its reserved bits are zero and its base is a multiple of 4 KiB. -/
def srcOk (e0 e1 e2 e3 : DWord) : Bool :=
  fld e0 59 52 == 0 && fld e1 63 52 == 0 && e2 == 0 && e3 == 0 && fld e0 11 0 == 0

/-- Some range of a key covers the bytes with a right (bit 2 read, 1 write, 0 atomic) (R396). -/
def State.sourceAllows (s : State) (d key right addr n : Nat) : Bool :=
  (upFrom 0 32).any fun r =>
    let a := fld (s.ctl d 0x90) 51 0 + 1024 * key + 32 * r
    let e0 := s.readD d a
    let e1 := s.readD d (a + 8)
    bit e0 63 && srcOk e0 e1 (s.readD d (a + 16)) (s.readD d (a + 24))
      && (fld e0 62 60).testBit right && fld e0 51 0 ≤ addr && addr + n ≤ fld e1 51 0

/-- The check of an arriving peer request (R396): none, or the kind with which it is refused. -/
def State.peerRefused (s : State) (d m srcDie right addr n tasid : Nat) : Option Nat :=
  match s.sourceKey d m srcDie with
  | none => some 1
  | some k =>
    if !s.sourceAllows d k right addr n then some 1
    else if 0x10000000000 ≤ addr && s.tileAsid d ((addr - 0x10000000000) / 0x80000) != some tasid then some 5
    else none

/-- The key of the bytes at a place, with the redirection of a scratchpad byte (R318). -/
def State.placeKey (s : State) (d : Nat) : Place → Nat
  | .die d a => dieKey d a
  | .host a => hostKey a
  | .tier a => tierKey a
  | .tile t x => s.pad d t x
  | .peer _ d a _ =>
    if 0x10000000000 ≤ a then s.pad d ((a - 0x10000000000) / 0x80000) (a % 0x80000) else dieKey d a
  | .group _ _ => 0

end Sys2Proof.Machine
end

