-- ==== Sys2Proof/Machine/Code.lean ====
section
/-! DEFINITION. Code as the lead sees it: segment records, loop-buffer halves, bundles in a body, code positions,
and the checks of a bundle that need no register (R36 to R58, R65, R158, R339). -/

namespace Sys2Proof.Machine

/-! ## Segment records (R36, R37) -/

/-- Bits h to l of a number. -/
def nbits (v h l : Nat) : Nat := v / 2 ^ l % 2 ^ (h + 1 - l)
/-- The record of a segment as one number, from its syllables. -/
def recOf (l : List Syl) : Nat := (l.take 4).foldr (fun w a => w.toNat + a * 2 ^ 32) 0
/-- LEN, in syllables. -/
def recLen (v : Nat) : Nat := nbits v 127 118
/-- PFA. -/
def recPfa (v : Nat) : Bool := v.testBit 116
/-- ALTV. -/
def recAltv (v : Nat) : Bool := v.testBit 115
/-- NEXTV. -/
def recNextv (v : Nat) : Bool := v.testBit 114
/-- Address of the segment at ALT. -/
def recAlt (v : Nat) : Nat := nbits v 105 53 * 16
/-- Address of the segment at NEXT. -/
def recNext (v : Nat) : Nat := nbits v 52 0 * 16
/-- The record is malformed (R37). -/
def recBad (v : Nat) : Bool :=
  v.testBit 117 || nbits v 113 106 != 0 || recLen v == 0 || 832 < recLen v || (recPfa v && !recAltv v)
    || (!recNextv v && recNext v != 0) || (!recAltv v && recAlt v != 0)

/-! ## Halves of a loop buffer (R41) -/

/-- The current half. -/
def Lead.cur (l : Lead) : Half := if l.sel then l.h1 else l.h0
/-- The spare half. -/
def Lead.spare (l : Lead) : Half := if l.sel then l.h0 else l.h1
/-- Replace the current half. -/
def Lead.setCur (l : Lead) (h : Half) : Lead := if l.sel then { l with h1 := h } else { l with h0 := h }
/-- Replace the spare half. -/
def Lead.setSpare (l : Lead) (h : Half) : Lead := if l.sel then { l with h0 := h } else { l with h1 := h }
/-- A half holds a segment. -/
def Half.has (h : Half) (a : Nat) : Bool := h.valid && h.addr == a
/-- The record has been read. -/
def Half.recRead (h : Half) : Bool := 4 ≤ h.syls.length
/-- The record. -/
def Half.record (h : Half) : Nat := recOf h.syls
/-- The body as far as it has been read. -/
def Half.body (h : Half) : List Syl := (h.syls.drop 4).take (recLen h.record)
/-- The whole body has been read. -/
def Half.whole (h : Half) : Bool := 4 + recLen h.record ≤ h.syls.length
/-- Nothing more is fetched: the whole has been read, the record is malformed, or a line failed. -/
def Half.ended (h : Half) : Bool := h.fail.isSome || (h.recRead && (h.whole || recBad h.record))

/-- Syllables of the bundle at the head of a list, 0 where they end before it does. -/
def bundleLen (ws : List Syl) : Nat :=
  match ws with
  | [] => 0
  | h :: rest => match cutSlots Slot.all h rest with
    | some (_, left) => ws.length - left.length
    | none => 0

/-- What the expansion shows at a bundle index. -/
inductive Look where
  /-- Not read yet. -/
  | wait
  /-- In or past a line that could not be fetched; the bundle's offset in the body where it is known (R50). -/
  | poison (off : Option Nat)
  /-- Beyond the body. -/
  | past
  /-- The bundle's offset in the body, and the body from there on. -/
  | found (off : Nat) (ws : List Syl)
  deriving DecidableEq, Repr

/-- Where the syllables end before the bundle does. -/
def shortLook (h : Half) (off : Option Nat) : Look := if h.fail.isSome then .poison off else .wait
/-- Walk the body to a bundle. -/
def seek (h : Half) : Nat → Nat → List Syl → Look
  | 0, off, ws =>
    if ws.isEmpty && h.whole then .past
    else if bundleLen ws = 0 && !h.whole then shortLook h (some off)
    else .found off ws
  | k + 1, off, ws =>
    let n := bundleLen ws
    if n = 0 then (if h.whole then .past else shortLook h none) else seek h k (off + n) (ws.drop n)
/-- The bundle at an index of a half. -/
def Half.look (h : Half) (idx : Nat) : Look :=
  if !h.recRead then shortLook h (if idx = 0 then some 0 else none) else seek h idx 0 h.body
/-- IDLE of the bundle at an index, where it is known. -/
def Half.idle (h : Half) (idx : Nat) : Option Nat :=
  match h.look idx with
  | .found _ (w :: _) => some (hdrIdle w)
  | _ => none
/-- Byte address of a syllable of the body. -/
def bodyAddr (seg off : Nat) : Nat := seg + 16 + 4 * off
/-- The body ends with the bundle at an index: its offset and its length make LEN. -/
def Half.lastAt (h : Half) (idx : Nat) : Bool :=
  match h.look idx with
  | .found off ws => recLen h.record ≤ off + bundleLen ws
  | _ => false
/-- Positions after a bundle within its segment, 2 at most (R56); none while the line that tells is still to come.
Behind a line that cannot be fetched the delay positions are taken to be there, and raise its fault (R50). -/
def Half.left (h : Half) (idx : Nat) : Option Nat :=
  let i := (h.idle idx).getD 0
  if h.lastAt idx then some (min i 2)
  else if 1 ≤ i then some 2
  else match h.look (idx + 1) with
    | .past => some (min i 2)
    | .found _ (w :: _) => some (if 1 ≤ hdrIdle w || !h.lastAt (idx + 1) then 2 else 1)
    | .found _ [] => some 2
    | .poison _ => some 2
    | .wait => none

/-! ## Reading code ahead of the loop buffer -/

/-- One 64-byte line of code: its bytes from an address on, or why it cannot be fetched (R37, R50). -/
def State.fetchLine (s : State) (d asid a : Nat) : State × Except FetchFail (List Syl) :=
  let n := 64 - a % 64
  let (s, r) := s.reach d asid .fetch a
  match r with
  | .error f => (s, .error ⟨0x40, f.status, a / 64 * 64⟩)
  | .ok p =>
    let k := s.placeKey d p
    let s := s.meet d k n
    if s.poisoned k n then (s, .error ⟨0xA0, 0, a / 64 * 64⟩)
    else
      let v := leNat (s.load k n)
      (s, .ok ((upFrom 0 (n / 4)).map fun i => BitVec.ofNat 32 (v / 2 ^ (32 * i))))
/-- A segment as memory holds it, for a position that follows a CALL's second delay position. -/
def State.peekLines (s : State) (d asid a : Nat) : Nat → List Syl
  | 0 => []
  | k + 1 => match (s.fetchLine d asid a).2 with
    | .error _ => []
    | .ok l => l ++ s.peekLines d asid (a / 64 * 64 + 64) k
/-- The half that holds a segment, or the segment as memory holds it. -/
def State.halfOf (s : State) (d l c a : Nat) : Half :=
  let x := s.lead d l c
  if x.cur.has a then x.cur
  else if x.spare.has a && x.spare.ended then x.spare
  else
    let r := recOf (s.peekLines d (s.car d l).asid a 2)
    ⟨true, a, s.peekLines d (s.car d l).asid a ((4 * recLen r + 16 + a % 64 + 63) / 64), none, none⟩

/-! ## Code positions (R40) -/

/-- The position of R40 as the lead's own, with the idle bundle that is next. -/
def Pos.inside (p : Pos) : Pos := if p.ioff = 0 then p else { p with ioff := p.ioff + 1 }
/-- The bundle after one at an index: the next of its segment, or the first of the segment at NEXT (R39). -/
def nextBundle (h : Half) (seg idx : Nat) : Pos :=
  match h.look (idx + 1) with
  | .past => if recNextv h.record then ⟨recNext h.record, 0, 0⟩ else ⟨seg, idx + 1, 0⟩
  | _ => ⟨seg, idx + 1, 0⟩
/-- The position after one position has run: the lead's own. -/
def State.posAfter (s : State) (d l c : Nat) (p : Pos) : Pos :=
  let h := s.halfOf d l c p.seg
  if p.ioff < (h.idle p.idx).getD 0 then { p with ioff := p.ioff + 1 } else nextBundle h p.seg p.idx
/-- The lead's own position as that of R40. The point after a bundle and before its first idle bundle has no
name: the next point that has one stands for it (log 27). -/
def State.outPos (s : State) (d l c : Nat) (p : Pos) : Pos :=
  if p.ioff = 0 then p
  else
    let h := s.halfOf d l c p.seg
    let k := if p.ioff = 1 then 1 else p.ioff - 1
    if k < (h.idle p.idx).getD 0 then { p with ioff := k } else nextBundle h p.seg p.idx

/-! ## Destinations and duplicates (R53) -/

/-- Destinations of a vector field by its role. -/
def roleDest (r : VRole) (c : BitVec 8) : List Nat :=
  match r with
  | .dst => if isO c || isV c then [300 + c.toNat] else []
  | .oReg => [300 + c.toNat]
  | .mask => [200 + c.toNat]
  | .scalar => [c.toNat]
  | .quire => [700 + c.toNat]
  | _ => []
/-- Registers that an instruction writes, by number: s 0, p 100, k 200, o and v 300, q 700, staging 800,
ports 1000, control 1100. s0 and p0 are discarded (R53). -/
def destsOf (i : Instr) : List Nat :=
  let p (n : BitVec 4) : List Nat := [100 + n.toNat]
  let l : List Nat := match i with
    | .add f | .sub f | .mul f | .mulh f | .mulhz f | .div f | .divz f | .rem f | .remz f | .and f | .or f
    | .xor f | .andn f | .shl f | .shr f | .sar f | .rotl f | .clz f | .ctz f | .popc f | .min f | .max f
    | .minz f | .maxz f | .addsh f | .sel f => [f.sd.toNat]
    | .addi f => [f.sd.toNat]
    | .movi f | .movhi f => [f.sd.toNat]
    | .cmp f | .fcmp f => p f.pd
    | .pset f => p f.pd
    | .plog f => p f.pd
    | .ld f => [f.sd.toNat]
    | .fadd f | .fsub f | .fmul f | .fma f | .fdiv f | .fsqrt f | .fmin f | .fmax f | .fcvt f | .fclass f =>
      [f.sd.toNat]
    | .movsys f | .movctlRead f => [f.sd.toNat]
    | .movctlWrite f =>
      if f.sel.toNat = 3 then (upFrom 101 15) ++ [1103] else [1100 + f.sel.toNat]
    | .movstg f => [800 + f.eng.toNat * 16 + f.idx.toNat]
    | .rdstg f => [f.sd.toNat]
    | .rld f => [f.sd.toNat]
    | .gset f => [1000 + f.vc.toNat]
    | .call bx => [bx.toNat]
    | .loop bx _ => [bx.toNat]
    | .loopRot bx _ => [bx.toNat, 108, 1101, 1102]
    | .allot bx _ => [bx.toNat]
    | .balloc bx _ _ => [bx.toNat]
    | .vpark bx _ => [bx.toNat]
    | .vunpark _ n => [428 + n.toNat]
    | .launch _ b _ | .ttstart _ b _ => [b.toNat]
    | .bartst b _ => p b
    | .ffr bx _ => [bx.toNat]
    | i => match i.vrow with
      | some (r, f) => roleDest r.vd f.vd
      | none => []
  l.filter fun n => n != 0 && n != 100
/-- Ports that GRESET resets: they clash with a GSET of the port, not with each other (R166). -/
def resetsOf : Instr → List Nat
  | .greset f => ((upFrom 0 8).filter fun n => f.vc.getLsbD n).map (1000 + ·)
  | _ => []
/-- Two slots of a bundle write one register (R53, R166). -/
def dupDest : List (Slot × Instr) → Bool
  | [] => false
  | (_, i) :: l =>
    (l.any fun e => ((destsOf i).any fun n => (destsOf e.2 ++ resetsOf e.2).contains n)
      || (resetsOf i).any fun n => (destsOf e.2).contains n) || dupDest l

/-! ## Checks of a bundle's fields against its place (R56, R113, R116) -/

/-- A loop's head lies above the loop bundle (R116). -/
def loopAbove (idx : Nat) : Instr → Bool
  | .loop _ n | .loopRot _ n | .loopw _ _ n => idx < n.toNat
  | _ => false
/-- The end of the segment chain that a transfer meets (R56, R113): it names ALT where ALTV is clear, or the segment has
neither NEXT nor two delay positions. None while that is not yet known. -/
def chainEnd (h : Half) (idx : Nat) (i : Instr) : Option Bool :=
  let room : Option Bool := if recNextv h.record then some false else (h.left idx).map fun n => n < 2
  match i with
  | .br | .brc .. | .call _ => if recAltv h.record then room else some true
  | .ret _ | .jmpr _ => room
  | _ => some false

/-! ## Allotment (R158) -/

/-- Main-file registers, by field code less 128, that an instruction names. -/
def mainRegs (i : Instr) : List Nat :=
  match i with
  | .vpark _ n | .vunpark _ n => [n.toNat]
  | i => match i.vrow with
    | some (r, f) =>
      (if r.vd = .dst && isV f.vd then [f.vd.toNat - 128] else [])
        ++ if r.va = .srcV && isV f.va then [f.va.toNat - 128] else []
    | none => []
/-- A slot names a main-file register outside the context's allotment (R118, R158). -/
def Ctx.outside (c : Ctx) (i : Instr) : Bool :=
  ((mainRegs i).any fun n => !c.holdsV (physV c.r.voff n))
    || match i with
      | .loopRot _ _ => (upFrom 12 4).any fun g => (c.gran.find? g).isNone
      | _ => false

/-! ## Slot occupancy (R54, R163, R184, R201) -/

/-- Cycles for which a vector instruction keeps its slot busy. -/
def vbusyOf (i : Instr) : Nat :=
  match i with
  | .vgather f | .vscatter f | .vtopk f => vh f
  | .vtrn _ => 4
  | .gset _ | .greset _ | .vext _ | .vins _ => 1
  | i => match i.vrow with
    | some (_, f) => vocc f
    | none => 0

/-! ## Rows that FIFOs and ports move (R156, R168, R339) -/

/-- Rows that a destination field takes. -/
def destRows (i : Instr) (f : VF) : Nat :=
  match i with
  | .vcrc _ | .vredr _ | .vredc _ | .qtov _ => 1
  | .vtopk _ => 2
  | .vtrn _ => 16
  | .vcvt _ =>
    let n := vh f * min (perRow (cvtSrc f)) (perRow (cvtDst f))
    (n + perRow (cvtDst f) - 1) / perRow (cvtDst f)
  | _ => vh f
/-- Rows that the source fields take. -/
def srcRows (i : Instr) (f : VF) : List (BitVec 8 × Nat) :=
  match i with
  | .vcrc _ => [(f.va, vh f), (f.vb, 1)]
  | .vtrn _ => [(f.va, 16)]
  | .vcvt _ =>
    let n := vh f * min (perRow (cvtSrc f)) (perRow (cvtDst f))
    [(f.va, (n + perRow (cvtSrc f) - 1) / perRow (cvtSrc f))]
  | i => match i.vrow with
    | some (r, f) =>
      let one (q : VRole) (c : BitVec 8) : List (BitVec 8 × Nat) :=
        if q = .src || q = .srcV || q = .oFifo then [(c, vh f)] else []
      one r.va f.va ++ one r.vb f.vb ++ one r.vc f.vc
    | none => []
/-- Rows that a bundle pops from a direction; fields of one instruction that name one FIFO pop it once (R77). -/
def popRows (l : List (Slot × Instr)) (dir : Nat) : Nat :=
  (l.map fun e => match e.2.vrow with
    | some (_, f) => ((srcRows e.2 f).filter fun x => x.1.toNat == 16 + dir).foldl (fun a x => max a x.2) 0
    | none => 0).sum
/-- Rows that a bundle pushes in a direction. -/
def pushRows (l : List (Slot × Instr)) (dir : Nat) : Nat :=
  (l.map fun e => match e.2.vrow with
    | some (r, f) => if r.vd = .dst && f.vd.toNat == 16 + dir then destRows e.2 f else 0
    | none => 0).sum
/-- The status of a transfer that exceeds the share (R339), if there is one. -/
def overShare (l : List (Slot × Instr)) (share : Nat) : Option Nat :=
  match (upFrom 0 4).find? fun dir => share < popRows l dir with
  | some dir => some dir
  | none => ((upFrom 0 4).find? fun dir => share < pushRows l dir).map (· + 4)

/-! ## When a slot's last scratchpad access performs (R101, R167, R180, R181, R204, R266) -/

/-- Cycles from an instruction's issue to its last access of the scratchpad; none where it makes none. -/
def lastAccess (i : Instr) : Option Nat :=
  match i with
  | .ld _ => some 1
  | .st _ => some 2
  | .qload _ => some 1
  | .qsave _ => some 2
  | .vld f => some (1 + (vh f - 1) / 4)
  | .vst f => some (2 + (vh f - 1) / 4)
  | .vgather f => some (vh f)
  | .vscatter f => some (1 + vh f)
  | i => match i.vrow with
    | some (r, f) =>
      let rd := ((srcRows i f).filter fun x => isReadPort x.1).foldl (fun a x => max a (1 + (x.2 - 1) / 4)) 0
      let wr := if r.vd = .dst && isWritePort f.vd then 2 + (destRows i f - 1) / 4 else 0
      if max rd wr = 0 then none else some (max rd wr)
    | none => none

end Sys2Proof.Machine
end

