-- ==== Sys2Proof/Machine/Scalar.lean ====
section
/-! DEFINITION. The scalar slots: integers, predicates, scratchpad access, floating point, system and staging
registers (R88 to R111). Each instruction has its attempt `sem…` and its execution by itself `exec…`. -/

namespace Sys2Proof.Machine

/-! ## Shapes -/

/-- b of R92: s[SB], or the sign-extended literal (R49). -/
def State.srB (s : State) (f : SR) : DWord :=
  match f.lit with
  | some l => l.signExtend 64
  | none => s.rs f.sb

/-- An SR instruction (R92): guarded, s[SD] ← g a b within a bound. -/
def State.srOp (s : State) (f : SR) (bound : Nat) (g : DWord → DWord → DWord) : SlotRes :=
  .ok (if s.guard f.pg f.pn then s.ws f.sd (g (s.rs f.sa) (s.srB f)) bound else s)

/-- A division (R93): DZ where the divisor is 0. -/
def State.divOp (s : State) (f : SR) (g : DWord → DWord → DWord) (zero : DWord → DWord) : SlotRes :=
  let a := s.rs f.sa
  let b := s.srB f
  .ok (if !s.guard f.pg f.pn then s
    else if b = 0 then (s.ws f.sd (zero a) 18).wf fDZ 18
    else s.ws f.sd (g a b) 18)

/-- Leading zero bits of a w-bit number. -/
def clzN (w x : Nat) : Nat := w - bitLen x
/-- Trailing zero bits of a w-bit number. -/
def ctzN (w x : Nat) : Nat := ((upFrom 0 w).find? fun i => x.testBit i).getD w

/-- Width of a load or store by SZ: 0 z8, 1 z16, 2 z32, 3 64, 4 s8, 5 s16, 6 s32 (R78). -/
def szBytes (sz : BitVec 3) : Nat := 2 ^ (sz.toNat % 4)

/-- The address of LD and ST (R99). -/
def State.smAddr (s : State) (f : SM) : Nat :=
  (s.rs f.sa + (f.lit.getD 0).signExtend 64).toNat

/-- The checks of R100 on an access of n bytes, in the order of that rule. -/
def scalarCheck (a n : Nat) : Try Unit := do
  trapIf (padBad a n) 0x41 1 0 a
  trapIf (a % n != 0) 0x42 1 0 a

/-- Loaded bytes as a register value: zero-extended, or sign-extended for .s8 to .s32 (R99). -/
def loadValue (sz : BitVec 3) (bs : List Byte) : DWord :=
  let n := 8 * bs.length
  if 4 ≤ sz.toNat then BitVec.ofInt 64 (readI n true (leNat bs)) else BitVec.ofNat 64 (leNat bs)

/-- The scalar floating format of FM (R102). -/
def fmFmt (fm : Bool) : Fmt := if fm then .f ff64 else .f ff32
/-- A floating operand: bits 31:0 for F32 (R102). -/
def fmBits (fm : Bool) (v : DWord) : Nat := if fm then v.toNat else v.toNat % 2 ^ 32

/-- Write a floating result and its flags within a bound; an F32 result has bits 63:32 zero (R102). -/
def State.wfp (s : State) (sd : BitVec 6) (r : Nat × Flags) (bound : Nat) : State :=
  (s.ws sd (BitVec.ofNat 64 r.1) bound).wf r.2 bound

/-- An arithmetic SF instruction of two operands (R103). Format SF has no guard (log 20). -/
def State.sfOp (s : State) (f : SF) (bound : Nat) (g : Val → Val → Res) : SlotRes :=
  let m := fmFmt f.fm
  let a := m.dec (fmBits f.fm (s.rs f.sa))
  let b := m.dec (fmBits f.fm (s.rs f.sb))
  .ok (s.wfp f.sd (m.deliver f.rm.toNat (g a b)) bound)

/-- The bound of FDIV and FSQRT (R91). -/
def divBound (fm : Bool) : Nat := if fm then 18 else 12

/-- FMIN and FMAX (R104). -/
def State.sfMin (s : State) (f : SF) (mx : Bool) : SlotRes :=
  .ok (s.wfp f.sd ((fmFmt f.fm).minmax mx (fmBits f.fm (s.rs f.sa)) (fmBits f.fm (s.rs f.sb))) 2)

/-- The class bit of a code (R106). -/
def classBit (m : Fmt) (ff : FF) (w : Nat) : Nat :=
  match m.dec w with
  | .nan sig => if sig then 8 else 9
  | .inf n => if n then 0 else 7
  | .fin n x _ =>
    if x = 0 then (if n then 3 else 4)
    else if x < 2 ^ ff.fb then (if n then 2 else 5)
    else if n then 1 else 6

/-! ## Integers (R92, R93, R96) -/

/-- add: a + b (R92). -/
def semAdd (f : SR) (s : State) : SlotRes :=
  s.srOp f 1 fun a b => a + b
/-- ADD by itself. -/
def execAdd (f : SR) (s : State) : Host.Outcome State Fault Refusal := finish s (semAdd f s)

/-- sub: a − b. -/
def semSub (f : SR) (s : State) : SlotRes :=
  s.srOp f 1 fun a b => a - b
/-- SUB by itself. -/
def execSub (f : SR) (s : State) : Host.Outcome State Fault Refusal := finish s (semSub f s)

/-- mul: the low 64 bits of the product. -/
def semMul (f : SR) (s : State) : SlotRes :=
  s.srOp f 3 fun a b => a * b
/-- MUL by itself. -/
def execMul (f : SR) (s : State) : Host.Outcome State Fault Refusal := finish s (semMul f s)

/-- mulh: bits 127:64 of the signed product. -/
def semMulh (f : SR) (s : State) : SlotRes :=
  s.srOp f 3 fun a b => BitVec.ofInt 64 ((a.toInt * b.toInt).fdiv (2 ^ 64))
/-- MULH by itself. -/
def execMulh (f : SR) (s : State) : Host.Outcome State Fault Refusal := finish s (semMulh f s)

/-- mulhz: bits 127:64 of the unsigned product. -/
def semMulhz (f : SR) (s : State) : SlotRes :=
  s.srOp f 3 fun a b => BitVec.ofNat 64 (a.toNat * b.toNat / 2 ^ 64)
/-- MULHZ by itself. -/
def execMulhz (f : SR) (s : State) : Host.Outcome State Fault Refusal := finish s (semMulhz f s)

/-- div: signed quotient, truncated; −2^63 ÷ −1 gives −2^63; all ones and DZ for divisor 0 (R93). -/
def semDiv (f : SR) (s : State) : SlotRes :=
  s.divOp f (fun a b => BitVec.ofInt 64 (a.toInt.tdiv b.toInt)) fun _ => BitVec.allOnes 64
/-- DIV by itself. -/
def execDiv (f : SR) (s : State) : Host.Outcome State Fault Refusal := finish s (semDiv f s)

/-- divz: unsigned quotient; all ones and DZ for divisor 0. -/
def semDivz (f : SR) (s : State) : SlotRes :=
  s.divOp f (fun a b => BitVec.ofNat 64 (a.toNat / b.toNat)) fun _ => BitVec.allOnes 64
/-- DIVZ by itself. -/
def execDivz (f : SR) (s : State) : Host.Outcome State Fault Refusal := finish s (semDivz f s)

/-- rem: a − b × quotient, with the sign of a; a and DZ for divisor 0. -/
def semRem (f : SR) (s : State) : SlotRes :=
  s.divOp f (fun a b => BitVec.ofInt 64 (a.toInt.tmod b.toInt)) fun a => a
/-- REM by itself. -/
def execRem (f : SR) (s : State) : Host.Outcome State Fault Refusal := finish s (semRem f s)

/-- remz: unsigned remainder; a and DZ for divisor 0. -/
def semRemz (f : SR) (s : State) : SlotRes :=
  s.divOp f (fun a b => BitVec.ofNat 64 (a.toNat % b.toNat)) fun a => a
/-- REMZ by itself. -/
def execRemz (f : SR) (s : State) : Host.Outcome State Fault Refusal := finish s (semRemz f s)

/-- and. (R92) -/
def semAnd (f : SR) (s : State) : SlotRes :=
  s.srOp f 1 fun a b => a &&& b
/-- AND by itself. -/
def execAnd (f : SR) (s : State) : Host.Outcome State Fault Refusal := finish s (semAnd f s)

/-- or. (R92) -/
def semOr (f : SR) (s : State) : SlotRes :=
  s.srOp f 1 fun a b => a ||| b
/-- OR by itself. -/
def execOr (f : SR) (s : State) : Host.Outcome State Fault Refusal := finish s (semOr f s)

/-- xor. (R92) -/
def semXor (f : SR) (s : State) : SlotRes :=
  s.srOp f 1 fun a b => a ^^^ b
/-- XOR by itself. -/
def execXor (f : SR) (s : State) : Host.Outcome State Fault Refusal := finish s (semXor f s)

/-- andn: a AND NOT b. (R92) -/
def semAndn (f : SR) (s : State) : SlotRes :=
  s.srOp f 1 fun a b => a &&& ~~~b
/-- ANDN by itself. -/
def execAndn (f : SR) (s : State) : Host.Outcome State Fault Refusal := finish s (semAndn f s)

/-- shl by b[5:0]. (R92) -/
def semShl (f : SR) (s : State) : SlotRes :=
  s.srOp f 1 fun a b => a <<< (b.toNat % 64)
/-- SHL by itself. -/
def execShl (f : SR) (s : State) : Host.Outcome State Fault Refusal := finish s (semShl f s)

/-- shr by b[5:0], zeros in. (R92) -/
def semShr (f : SR) (s : State) : SlotRes :=
  s.srOp f 1 fun a b => a >>> (b.toNat % 64)
/-- SHR by itself. -/
def execShr (f : SR) (s : State) : Host.Outcome State Fault Refusal := finish s (semShr f s)

/-- sar by b[5:0], a[63] in. (R92) -/
def semSar (f : SR) (s : State) : SlotRes :=
  s.srOp f 1 fun a b => a.sshiftRight (b.toNat % 64)
/-- SAR by itself. -/
def execSar (f : SR) (s : State) : Host.Outcome State Fault Refusal := finish s (semSar f s)

/-- rotl by b[5:0]. (R92) -/
def semRotl (f : SR) (s : State) : SlotRes :=
  s.srOp f 1 fun a b => a.rotateLeft (b.toNat % 64)
/-- ROTL by itself. -/
def execRotl (f : SR) (s : State) : Host.Outcome State Fault Refusal := finish s (semRotl f s)

/-- clz: leading zero bits, 0 to 64. (R92) -/
def semClz (f : SR) (s : State) : SlotRes :=
  s.srOp f 1 fun a _ => BitVec.ofNat 64 (clzN 64 a.toNat)
/-- CLZ by itself. -/
def execClz (f : SR) (s : State) : Host.Outcome State Fault Refusal := finish s (semClz f s)

/-- ctz: trailing zero bits, 0 to 64. (R92) -/
def semCtz (f : SR) (s : State) : SlotRes :=
  s.srOp f 1 fun a _ => BitVec.ofNat 64 (ctzN 64 a.toNat)
/-- CTZ by itself. -/
def execCtz (f : SR) (s : State) : Host.Outcome State Fault Refusal := finish s (semCtz f s)

/-- popc: one bits. (R92) -/
def semPopc (f : SR) (s : State) : SlotRes :=
  s.srOp f 1 fun a _ => BitVec.ofNat 64 (popCount a.toNat 64)
/-- POPC by itself. -/
def execPopc (f : SR) (s : State) : Host.Outcome State Fault Refusal := finish s (semPopc f s)

/-- min, signed. (R92) -/
def semMin (f : SR) (s : State) : SlotRes :=
  s.srOp f 1 fun a b => if a.toInt < b.toInt then a else b
/-- MIN by itself. -/
def execMin (f : SR) (s : State) : Host.Outcome State Fault Refusal := finish s (semMin f s)

/-- max, signed. (R92) -/
def semMax (f : SR) (s : State) : SlotRes :=
  s.srOp f 1 fun a b => if a.toInt < b.toInt then b else a
/-- MAX by itself. -/
def execMax (f : SR) (s : State) : Host.Outcome State Fault Refusal := finish s (semMax f s)

/-- minz, unsigned. (R92) -/
def semMinz (f : SR) (s : State) : SlotRes :=
  s.srOp f 1 fun a b => if a.toNat < b.toNat then a else b
/-- MINZ by itself. -/
def execMinz (f : SR) (s : State) : Host.Outcome State Fault Refusal := finish s (semMinz f s)

/-- maxz, unsigned. (R92) -/
def semMaxz (f : SR) (s : State) : SlotRes :=
  s.srOp f 1 fun a b => if a.toNat < b.toNat then b else a
/-- MAXZ by itself. -/
def execMaxz (f : SR) (s : State) : Host.Outcome State Fault Refusal := finish s (semMaxz f s)

/-- addsh: a + (b << 6). (R92) -/
def semAddsh (f : SR) (s : State) : SlotRes :=
  s.srOp f 1 fun a b => a + (b <<< 6)
/-- ADDSH by itself. -/
def execAddsh (f : SR) (s : State) : Host.Outcome State Fault Refusal := finish s (semAddsh f s)

/-- sel: a where p[PG] XOR PN is 1, else b; never guarded off (R79, R96). -/
def semSel (f : SR) (s : State) : SlotRes :=
  .ok (s.ws f.sd (if s.guard f.pg f.pn then s.rs f.sa else s.srB f) 1)
/-- SEL by itself. -/
def execSel (f : SR) (s : State) : Host.Outcome State Fault Refusal := finish s (semSel f s)

/-- addi: a + I6 (R92). -/
def semAddi (f : SI) (s : State) : SlotRes :=
  .ok (if s.guard f.pg f.pn then s.ws f.sd (s.rs f.sa + f.imm.signExtend 64) 1 else s)
/-- ADDI by itself. -/
def execAddi (f : SI) (s : State) : Host.Outcome State Fault Refusal := finish s (semAddi f s)

/-- v of R94: the literal, or I12, sign-extended. -/
def slImm (f : SL) : DWord :=
  match f.lit with
  | some l => l.signExtend 64
  | none => f.imm.signExtend 64

/-- movi (R94). -/
def semMovi (f : SL) (s : State) : SlotRes :=
  .ok (if s.guard f.pg f.pn then s.ws f.sd (slImm f) 1 else s)
/-- MOVI by itself. -/
def execMovi (f : SL) (s : State) : Host.Outcome State Fault Refusal := finish s (semMovi f s)

/-- movhi: s[SD] << 31 with the low 31 bits of the immediate; s[SD] is read at issue (R94). -/
def semMovhi (f : SL) (s : State) : SlotRes :=
  .ok (if s.guard f.pg f.pn then s.ws f.sd ((s.rs f.sd <<< 31) ||| (slImm f &&& 0x7FFFFFFF)) 1 else s)
/-- MOVHI by itself. -/
def execMovhi (f : SL) (s : State) : Host.Outcome State Fault Refusal := finish s (semMovhi f s)

/-! ## Predicates (R97, R98, R105) -/

/-- The integer comparison of R97. -/
def cmpHolds (cond : Nat) (a b : DWord) : Bool :=
  match cond with
  | 0 => a == b
  | 1 => a != b
  | 2 => a.toInt < b.toInt
  | 3 => b.toInt ≤ a.toInt
  | 4 => a.toInt ≤ b.toInt
  | 5 => b.toInt < a.toInt
  | 6 => a.toNat < b.toNat
  | 7 => b.toNat ≤ a.toNat
  | 8 => a.toNat ≤ b.toNat
  | _ => b.toNat < a.toNat

/-- The second operand of an SC instruction. -/
def State.scB (s : State) (f : SC) : DWord :=
  match f.lit with
  | some l => l.signExtend 64
  | none => s.rs f.sb

/-- cmp (R97): no guard, no flag. -/
def semCmp (f : SC) (s : State) : SlotRes :=
  .ok (s.wp f.pd (cmpHolds f.cond.toNat (s.rs f.sa) (s.scB f)) 1)
/-- CMP by itself. -/
def execCmp (f : SC) (s : State) : Host.Outcome State Fault Refusal := finish s (semCmp f s)

/-- pset: p[PD] ← s[SA][BIT] (R98). -/
def semPset (f : SQ) (s : State) : SlotRes :=
  .ok (s.wp f.pd ((s.rs f.sa).getLsbD f.bit.toNat) 1)
/-- PSET by itself. -/
def execPset (f : SQ) (s : State) : Host.Outcome State Fault Refusal := finish s (semPset f s)

/-- plog: p[PD] ← TT[2·p[PA] + p[PB]] (R98). -/
def semPlog (f : SP) (s : State) : SlotRes :=
  .ok (s.wp f.pd (f.tt.getLsbD (2 * (s.rp f.pa).toNat + (s.rp f.pb).toNat)) 1)
/-- PLOG by itself. -/
def execPlog (f : SP) (s : State) : Host.Outcome State Fault Refusal := finish s (semPlog f s)

/-! ## Scratchpad access (R99 to R101) -/

/-- ld: read at issue + 1 (R99 to R101); a poisoned row delivers nothing (R451). -/
def semLd (f : SM) (s : State) : SlotRes :=
  if !s.guard f.pg f.pn then .ok s
  else do
    let a := s.smAddr f
    let n := szBytes f.sz
    scalarCheck a n
    let (s', bad) := s.padTake [(s.tt + 1, a, n)]
    if bad then .ok s'
    else .ok (s'.ws f.sd (loadValue f.sz (s.padBytes s.focus.die s.focus.tile (s.tt + 1) a n)) 3)
/-- LD by itself. -/
def execLd (f : SM) (s : State) : Host.Outcome State Fault Refusal := finish s (semLd f s)

/-- st: s[SD] read at issue, written at issue + 2 (R99 to R101). -/
def semSt (f : SM) (s : State) : SlotRes :=
  if !s.guard f.pg f.pn then .ok s
  else do
    let a := s.smAddr f
    let n := szBytes f.sz
    scalarCheck a n
    .ok (s.padWrite (s.t + 2) (atAddr a (leBytes n (s.rs f.sd).toNat)))
/-- ST by itself. -/
def execSt (f : SM) (s : State) : Host.Outcome State Fault Refusal := finish s (semSt f s)

/-! ## Floating point (R102 to R108) -/

/-- fadd (R103). -/
def semFadd (f : SF) (s : State) : SlotRes :=
  s.sfOp f 4 addV
/-- FADD by itself. -/
def execFadd (f : SF) (s : State) : Host.Outcome State Fault Refusal := finish s (semFadd f s)

/-- fsub (R103). -/
def semFsub (f : SF) (s : State) : SlotRes :=
  s.sfOp f 4 fun a b => addV a b.negate
/-- FSUB by itself. -/
def execFsub (f : SF) (s : State) : Host.Outcome State Fault Refusal := finish s (semFsub f s)

/-- fmul (R103). -/
def semFmul (f : SF) (s : State) : SlotRes :=
  s.sfOp f 4 mulV
/-- FMUL by itself. -/
def execFmul (f : SF) (s : State) : Host.Outcome State Fault Refusal := finish s (semFmul f s)

/-- fma: a × b + s[SD], rounded once; s[SD] is read at issue (R103). -/
def semFma (f : SF) (s : State) : SlotRes :=
  s.sfOp f 5 fun a b => fmaV a b ((fmFmt f.fm).dec (fmBits f.fm (s.rs f.sd)))
/-- FMA by itself. -/
def execFma (f : SF) (s : State) : Host.Outcome State Fault Refusal := finish s (semFma f s)

/-- fdiv (R103). -/
def semFdiv (f : SF) (s : State) : SlotRes :=
  s.sfOp f (divBound f.fm) divV
/-- FDIV by itself. -/
def execFdiv (f : SF) (s : State) : Host.Outcome State Fault Refusal := finish s (semFdiv f s)

/-- fsqrt (R103). -/
def semFsqrt (f : SF) (s : State) : SlotRes :=
  s.sfOp f (divBound f.fm) fun a _ => sqrtV a
/-- FSQRT by itself. -/
def execFsqrt (f : SF) (s : State) : Host.Outcome State Fault Refusal := finish s (semFsqrt f s)

/-- fmin (R104). -/
def semFmin (f : SF) (s : State) : SlotRes :=
  s.sfMin f false
/-- FMIN by itself. -/
def execFmin (f : SF) (s : State) : Host.Outcome State Fault Refusal := finish s (semFmin f s)

/-- fmax (R104). -/
def semFmax (f : SF) (s : State) : SlotRes :=
  s.sfMin f true
/-- FMAX by itself. -/
def execFmax (f : SF) (s : State) : Host.Outcome State Fault Refusal := finish s (semFmax f s)

/-- fcmp (R105): no guard. -/
def semFcmp (f : SC) (s : State) : SlotRes :=
  let r := (fmFmt f.fm).compare f.cond.toNat (fmBits f.fm (s.rs f.sa)) (fmBits f.fm (s.rs f.sb))
  .ok ((s.wp f.pd r.1 2).wf r.2 2)
/-- FCMP by itself. -/
def execFcmp (f : SC) (s : State) : Host.Outcome State Fault Refusal := finish s (semFcmp f s)

/-- The conversion that CV selects (R107): 0 FM to the other format, 1 FM to S64, 2 S64 to FM, 3 Z64 to FM. -/
def fcvtOf (fm : Bool) (cv rm : Nat) (v : DWord) : Nat × Flags :=
  match cv with
  | 0 => convert (fmFmt fm) (fmFmt (!fm)) rm false (fmBits fm v)
  | 1 => convert (fmFmt fm) (.i 64 true) rm false (fmBits fm v)
  | 2 => convert (.i 64 true) (fmFmt fm) rm false v.toNat
  | _ => convert (.i 64 false) (fmFmt fm) rm false v.toNat

/-- fcvt (R107). -/
def semFcvt (f : SF) (s : State) : SlotRes :=
  .ok (s.wfp f.sd (fcvtOf f.fm f.cv.toNat f.rm.toNat (s.rs f.sa)) 4)
/-- FCVT by itself. -/
def execFcvt (f : SF) (s : State) : Host.Outcome State Fault Refusal := finish s (semFcvt f s)

/-- fclass (R106): one-hot, no flag. -/
def semFclass (f : SF) (s : State) : SlotRes :=
  let w := fmBits f.fm (s.rs f.sa)
  .ok (s.ws f.sd (BitVec.ofNat 64 (2 ^ classBit (fmFmt f.fm) (if f.fm then ff64 else ff32) w)) 2)
/-- FCLASS by itself. -/
def execFclass (f : SF) (s : State) : Host.Outcome State Fault Refusal := finish s (semFclass f s)

/-- fchk (R108): traps where FSR and the mask meet, FSR unchanged. -/
def semFchk (f : SF) (s : State) : SlotRes :=
  let x := s.fctx.r.readFsr s.t &&& (s.rs f.sa).setWidth 8
  if x != 0 then trapB 0x20 1 x.toNat else .ok s
/-- FCHK by itself. -/
def execFchk (f : SF) (s : State) : Host.Outcome State Fault Refusal := finish s (semFchk f s)

/-! ## System registers (R109, R110, R428) -/

/-- MPROG (R224). -/
def EngSt.mprogWord (e : EngSt) : DWord :=
  BitVec.ofNat 64 (e.msat.toNat * 2 ^ 63 + e.mvalid.toNat * 2 ^ 62 + e.mprog % 2 ^ 32)

/-- The value of a MOVSYS selector (R109). -/
def State.sysReg (s : State) (sel : Nat) : DWord :=
  let f := s.focus
  let c := s.car f.die f.tile
  match sel with
  | 0x000 => BitVec.ofNat 64 (f.tile / 32)
  | 0x001 => BitVec.ofNat 64 (f.tile % 32)
  | 0x002 => BitVec.ofNat 64 f.tile
  | 0x003 => BitVec.ofNat 64 (c.crow f.tile)
  | 0x004 => BitVec.ofNat 64 (c.ccol f.tile)
  | 0x005 => BitVec.ofNat 64 c.h
  | 0x006 => BitVec.ofNat 64 c.w
  | 0x007 => BitVec.ofNat 64 f.die
  | 0x008 => BitVec.ofNat 64 (if f.ctx < 4 then f.ctx else (s.ftile.miss.map (·.ctx)).getD 0)
  | 0x009 => BitVec.ofNat 64 c.asid
  | 0x00A => BitVec.ofNat 64 c.idx
  | 0x00B => s.fctx.wid
  | 0x00C => BitVec.ofNat 64 (s.ttc f.die)
  | 0x00D => s.ftile.tseq.zeroExtend 64
  | 0x00E => BitVec.ofNat 64 s.fdie.inc
  | 0x010 => s.alstat
  | 0x011 => s.ftile.tags
  | _ => s.fctx.e.mprogWord

/-- preds: bit n is logical pn, bit 0 reads 1 (R110). -/
def Regs.preds (r : Regs) (t : Nat) : DWord :=
  BitVec.ofNat 64 ((upFrom 0 16).map fun n => (r.readP t n).toNat * 2 ^ n).sum

/-- fills (R110). -/
def EngSt.fills (e : EngSt) : DWord := BitVec.ofNat 64 (e.fill.toNat + e.busy.toNat * 16)

/-- TSTAT (R428). -/
def TrapSt.tstat (t : TrapSt) : DWord :=
  BitVec.ofNat 64 (t.hm.toNat * 2 ^ 63 + t.trapped.toNat * 2 ^ 62 + t.dmg.toNat * 2 ^ 61)

/-- The value of a MOVCTL selector (R110, R428). -/
def State.ctlReg (s : State) (sel : Nat) : DWord :=
  let c := s.fctx
  match sel with
  | 0x000 => (c.r.readFsr s.t).zeroExtend 64
  | 0x001 => BitVec.ofNat 64 c.r.voff
  | 0x002 => BitVec.ofNat 64 c.r.soff
  | 0x003 => c.r.preds s.t
  | 0x004 => c.e.fills
  | 0x100 => c.t.tvec
  | 0x101 => c.t.tdeleg
  | 0x102 => c.t.tstat
  | 0x110 => if c.t.hm then c.t.trpos else 0
  | n => if n < 0x110 then c.t.trec.getD (n - 0x108) 0 else c.t.tscr.get (n - 0x118)

/-- Write predicates p1 to p15 from a doubleword (R110); bit 0 is ignored. -/
def State.wpreds (s : State) (v : DWord) : State :=
  (upFrom 1 15).foldl (fun s n => s.wp (BitVec.ofNat 4 n) (v.getLsbD n) 1) s

/-- The effect of a MOVCTL write (R110, R428): reserved bits read zero, read-only registers keep their
values, the others change for the next bundle. -/
def State.ctlWrite (s : State) (sel : Nat) (v : DWord) : State :=
  match sel with
  | 0x000 => s.addLate (.fsr (v.setWidth 8))
  | 0x001 => s.addLate (.voff (v.toNat % 32))
  | 0x002 => s.addLate (.soff (v.toNat % 8))
  | 0x003 => s.wpreds v
  | 0x100 => s.addLate (.tvec (v &&& 0xFFFFFFFFFFFFFC00))
  | 0x101 => s.addLate (.tdeleg (v &&& 0xF))
  | 0x110 => if s.atLead && s.fctx.t.hm then s.addLate (.trpos v) else s
  | n => if 0x118 ≤ n then s.addLate (.tscr (n - 0x118) v) else s

/-- movsys (R109). -/
def semMovsys (f : SS) (s : State) : SlotRes :=
  .ok (if s.guard f.pg f.pn then s.ws f.sd (s.sysReg f.sel.toNat) 2 else s)
/-- MOVSYS by itself. -/
def execMovsys (f : SS) (s : State) : Host.Outcome State Fault Refusal := finish s (semMovsys f s)

/-- movctl, read (R110, R428). -/
def semMovctlRead (f : SS) (s : State) : SlotRes :=
  .ok (if s.guard f.pg f.pn then s.ws f.sd (s.ctlReg f.sel.toNat) 2 else s)
/-- MOVCTLREAD by itself. -/
def execMovctlRead (f : SS) (s : State) : Host.Outcome State Fault Refusal := finish s (semMovctlRead f s)

/-- movctl, write (R110, R428). -/
def semMovctlWrite (f : SS) (s : State) : SlotRes :=
  .ok (if s.guard f.pg f.pn then s.ctlWrite f.sel.toNat (s.rs f.sd) else s)
/-- MOVCTLWRITE by itself. -/
def execMovctlWrite (f : SS) (s : State) : Host.Outcome State Fault Refusal := finish s (semMovctlWrite f s)

/-! ## Staging registers (R59 to R61, R111) -/

/-- Key of a staging register. -/
def stgKey (set : Bool) (eng idx : Nat) : Nat := set.toNat * 64 + eng * 16 + idx
/-- The set that FILL names, true for B. -/
def EngSt.fillOf (e : EngSt) (eng : Nat) : Bool := e.fill.getLsbD eng
/-- A set is busy (R61). -/
def EngSt.busyOf (e : EngSt) (eng : Nat) (set : Bool) : Bool := e.busy.getLsbD (2 * eng + set.toNat)

/-- movstg (R111): into the set that FILL names; a busy set holds (R61). A reserved field keeps what is written, so that the
checks of R209 and R310 find it at commit, and rdstg reads it back: DESIGN CHOICE (log 100). -/
def semMovstg (f : SG) (s : State) : SlotRes :=
  if !s.guard f.pg f.pn then .ok s
  else
    let e := s.fctx.e
    let set := e.fillOf f.eng.toNat
    if e.busyOf f.eng.toNat set then s.holdOr 1 0x82 1 0
    else
      let v := match f.lit with
        | some l => l.signExtend 64
        | none => s.rs f.sd
      let p := s.pw (stgKey set f.eng.toNat f.idx.toNat) (BitVec.allOnes 64) v 1
      .ok (s.modE fun e => { e with stgW := e.stgW ++ [p] }).bump
/-- MOVSTG by itself. -/
def execMovstg (f : SG) (s : State) : Host.Outcome State Fault Refusal := finish s (semMovstg f s)

/-- rdstg (R111). -/
def semRdstg (f : SG) (s : State) : SlotRes :=
  let k := stgKey f.set f.eng.toNat f.idx.toNat
  .ok (if s.guard f.pg f.pn then s.ws f.sd (readW (s.fctx.e.stg.get k) s.fctx.e.stgW k s.t) 2 else s)
/-- RDSTG by itself. -/
def execRdstg (f : SG) (s : State) : Host.Outcome State Fault Refusal := finish s (semRdstg f s)

end Sys2Proof.Machine
end

