-- ==== Sys2Proof/Machine/Streams.lean ====
section
/-! DEFINITION. Streams and packets at the source: bindings, numbers, closes, latencies, and the remote
instructions (R325 to R329, R337, R338, R276, R485). -/

namespace Sys2Proof.Machine

/-! ## Latencies (R276, R485), the earliest of each path (log 16) -/

/-- Hops between two tiles of a die. -/
def hopsOf (a b : Nat) : Nat :=
  (a / 32 - b / 32) + (b / 32 - a / 32) + (a % 32 - b % 32) + (b % 32 - a % 32)
/-- Physical position of a logical die (R407). -/
def State.physPos (s : State) (d : Nat) : Nat := fld (s.coll.mgmt.get 8) (3 * d + 2) (3 * d)
/-- The one-way crossing between two dies (R276), less the allowance of R485 in free mode. -/
def State.crossing (s : State) (timed : Bool) (a b : Nat) : Nat :=
  let h := fld (s.coll.mgmt.get 8) 14 12
  let x := min (s.physPos a) (s.physPos b)
  let y := max (s.physPos a) (s.physPos b)
  12 * (max a b - min a b + 1) + (if timed || (x < h && h < y) then 4 else 0)
/-- The one-way crossing between a compute die and the collective die (R485). -/
def crossD : Nat := 24

/-- Local figure of a write: a tile at some hops, or HBM4 (R276). -/
def localWrite (tile addr : Nat) : Nat :=
  if 0x10000000000 ≤ addr then 4 + hopsOf tile ((addr - 0x10000000000) / 0x80000) else 260
/-- Local figure of a read (R276). -/
def localRead (tile addr : Nat) : Nat :=
  if 0x10000000000 ≤ addr then 8 + 2 * hopsOf tile ((addr - 0x10000000000) / 0x80000) else 520

/-- Cycles until a write to a place performs (R276, R485). -/
def State.writeLat (s : State) (timed : Bool) (d t : Nat) : Place → Nat
  | .die _ _ => 260
  | .host _ => crossD + 4
  | .tier _ => 2 * crossD + 600
  | .tile t' _ => 4 + hopsOf t t'
  | .peer m d' a _ =>
    if m = s.modnum then localWrite t a + s.crossing timed d d' else crossD + 64 + localWrite t a
  | .group _ _ => crossD + 4
/-- Cycles until data read from a place arrive (R276, R485); the host's completion time is an input (log 13). -/
def State.readLat (s : State) (timed : Bool) (d t : Nat) : Place → Nat
  | .die _ _ => 520
  | .host _ => 2 * crossD
  | .tier _ => 2 * crossD + 600
  | .tile t' _ => 8 + 2 * hopsOf t t'
  | .peer m d' a _ =>
    if m = s.modnum then localRead t a + 2 * s.crossing timed d d' else 2 * (crossD + 64) + localRead t a
  | .group _ _ => 2 * crossD
/-- Cycles from a commit to its acknowledgement at the source tile (R485); a timetable counts the worst crossing. From an HBM4
stack of the source's own die, which the table does not name, it is 4: DESIGN CHOICE (log 16). -/
def State.ackLat (s : State) (timed : Bool) (d t : Nat) (e : Endpoint) : Nat :=
  if e.module != s.modnum then crossD + 64
  else if 2 ≤ e.kind then crossD
  else if e.die != d then s.crossing timed d e.die
  else if e.kind = 0 then 4 + hopsOf t e.idx else 4

/-! ## Bindings (R325, R338) -/

/-- A stream of a context. -/
def State.strm (s : State) (d t c n : Nat) : Stream := (s.ctx d t c).streams.get n
/-- The endpoint that a stream is bound to, or to which the window still has entries of it (R349). -/
def State.strmTo (s : State) (d t c n : Nat) : Option Endpoint :=
  (s.strm d t c n).bound.orElse fun _ =>
    (s.tile d t).window.findSome? fun e => if e.ctx == c && e.stm == n then e.tgt else none
/-- Change a stream. -/
def State.modStrm (s : State) (d t c n : Nat) (f : Stream → Stream) : State :=
  s.modCtx d t c fun x => { x with streams := x.streams.set n (f (x.streams.get n)) }
/-- Source fields of a stream (R326). -/
def State.source (s : State) (d t c n : Nat) : Source := ⟨s.modnum, d, t, c, n⟩

/-- Unacknowledged packets of a binding of a source. -/
def State.unackedAt (s : State) (d t c n epoch : Nat) : List Pkt :=
  (s.tile d t).retx.filter fun p => p.src.ctx == c && p.src.stm == n && p.epoch == epoch
/-- Unacknowledged packets of a source's current binding. -/
def State.unacked (s : State) (d t c n : Nat) : List Pkt := s.unackedAt d t c n (s.strm d t c n).epoch
/-- The packet with the lowest number among those of a binding, whose numbers lie within half of the 4,096 of one another
(R325). -/
def lowestPkt : List Pkt → Option Pkt
  | [] => none
  | p :: l => some (match lowestPkt l with
    | some q => if (q.seq + 4096 - p.seq) % 4096 < 2048 then p else q
    | none => p)
/-- Lowest unacknowledged number of a stream, for records (R331). -/
def State.lowestUnacked (s : State) (d t c n : Nat) : Nat :=
  let st := s.strm d t c n
  if st.broken then st.low
  else ((lowestPkt (s.unacked d t c n)).map (·.seq)).getD st.next

/-- Closes within the last 2^20 cycles (R338). -/
def recentCloses (now : Nat) (l : List Nat) : List Nat := l.filter fun c => now < c + 1048576

/-- A stream is bound, or a new binding of it may be opened (R338). -/
def State.mayBind (s : State) (d t c n : Nat) : Bool :=
  let st := s.strm d t c n
  st.bound.isSome || (recentCloses s.now st.closes).length < 127
/-- A packet of a binding may depart: the limits of R325, R331 and, for a new binding, R338. -/
def State.mayDepartAt (s : State) (d t c n epoch : Nat) : Bool :=
  (s.unackedAt d t c n epoch).length < 1024 && (s.tile d t).retx.length < 4096
    && (epoch != (s.strm d t c n).epoch || s.mayBind d t c n)
/-- A packet of the current or the next binding may depart. -/
def State.mayDepart (s : State) (d t c n : Nat) : Bool := s.mayDepartAt d t c n (s.strm d t c n).epoch

/-- The binding ends: unbound, the next epoch, number 0 (R325, R337). -/
def Stream.unbind (st : Stream) (now : Nat) : Stream :=
  { bound := none, broken := false, epoch := (st.epoch + 1) % 256, next := 0,
    closes := recentCloses now st.closes ++ [now] }

/-- A caravan's packets follow a departure table (R273). -/
def State.timedTile (s : State) (d t : Nat) : Bool := (s.car d t).timed

/-- Put a packet on the network: it arrives after a latency. -/
def State.launchPkt (s : State) (p : Pkt) (lat : Nat) : State :=
  { s with net := s.net ++ [⟨s.flitNo, s.now + lat, s.now, .pkt p⟩], flitNo := s.flitNo + 1 }

/-- What a packet asks for, without its place in a binding. -/
structure PktBody where
  kind : PktKind
  place : Place
  data : List Byte := []
  len : Nat := 0
  sem : Nat := 0
  cl : Bool := false
  upd : Update := default
  reg : Nat := 0
  baddr : Nat := 0
  cmd : Option Nat := none
  eng : Nat := 9
  /-- The order number of its command; else it takes its place as it is sent. -/
  ord : Option Nat := none
  /-- Its page is in poison-hold. -/
  ph : Bool := false

/-- Address of a place at its endpoint: die-physical, or a host address, or a group and its offset. -/
def Place.addr : Place → Nat
  | .die _ a => a
  | .host a => a
  | .tier a => a
  | .tile t x => padAddr t x
  | .peer _ _ a _ => a
  | .group g x => g * 2 ^ 40 + x

/-- Send a packet of a stream with a given number: it enters the retransmit buffer and, outside a
timetable, departs at once (R325, R331). -/
def State.emit (s : State) (d t c n seq epoch : Nat) (b : PktBody) : State :=
  let p : Pkt :=
    { src := s.source d t c n, seq := seq, epoch := epoch, opn := seq == 0, inc := (s.die d).inc,
      kind := b.kind, dst := s.endpoint d b.place, addr := b.place.addr, data := b.data, len := b.len,
      sem := b.sem, cl := b.cl, upd := b.upd, asid := (s.car d t).asid,
      tasid := match b.place with
        | .tile _ _ => some (s.car d t).asid
        | .peer _ _ _ x => some x
        | _ => none
      peer := match b.place with
        | .peer .. => true
        | _ => false
      reg := b.reg, baddr := b.baddr, cmd := b.cmd, eng := b.eng,
      tries := if s.timedTile d t then 0 else 1, sent := s.now, born := s.now
      ord := b.ord.getD s.flitNo, ph := b.ph }
  let s := { s with flitNo := s.flitNo + 1 }
  let s := s.modTile d t fun x => { x with retx := x.retx ++ [p] }
  if s.timedTile d t then s else s.launchPkt p (s.writeLat false d t b.place)

/-- Bind a stream where it is unbound (R325). -/
def Stream.bindTo (st : Stream) (e : Endpoint) : Stream :=
  if st.bound.isSome then st else { st with bound := some e }

/-- The next packet of a stream (R325); with `cl` the binding then ends (R329, R337). -/
def State.sendNext (s : State) (d t c n : Nat) (b : PktBody) : State :=
  let s := s.modStrm d t c n fun st => st.bindTo (s.endpoint d b.place)
  let st := s.strm d t c n
  let s := s.emit d t c n st.next st.epoch b
  s.modStrm d t c n fun st =>
    let st := { st with next := (st.next + 1) % 4096 }
    if b.cl then st.unbind s.now else st

/-- The place of a close packet: the endpoint itself (R337). -/
def endpointPlace (m : Nat) (e : Endpoint) : Place :=
  match e.kind with
  | 0 => .peer e.module e.die (padAddr e.idx 0) 0
  | 1 => if e.module = m then .die e.die (e.idx * 0x1000000000) else .peer e.module e.die (e.idx * 0x1000000000) 0
  | 2 => .host 0
  | _ => .group 0 0

/-- Close a stream (R337): a broken one is unbound without sending; an unbound one stays. -/
def State.closeStream (s : State) (d t c n baddr : Nat) : State :=
  let st := s.strm d t c n
  match st.bound with
  | none => s
  | some e =>
    if st.broken then s.modStrm d t c n fun st => st.unbind s.now
    else s.sendNext d t c n
      { kind := .close, place := endpointPlace s.modnum e, cl := true, baddr := baddr }

/-- The close of a stream may depart now, or nothing has to depart (R325, R331, R337). -/
def State.mayClosing (s : State) (d t c n : Nat) : Bool :=
  let st := s.strm d t c n
  st.bound.isNone || st.broken || s.mayDepart d t c n
/-- Close the bound streams of a context whose closes may depart (R121, R337, R437): whether none is left. -/
def State.closeAll (s : State) (d t c : Nat) : State × Bool :=
  (upFrom 0 16).foldl (fun (a : State × Bool) n =>
    if a.1.mayClosing d t c n then (a.1.closeStream d t c n 0, a.2) else (a.1, false)) (s, true)

/-! ## Checks of the remote instructions (R328) -/

/-- The page of an address is in poison-hold for a remote instruction. -/
def State.heldPage (s : State) (va : Nat) (g : Agent) : Bool :=
  vregion va != .hole && match (s.reach s.focus.die (s.car s.focus.die s.focus.tile).asid g va).2 with
    | .error f => f.kind == 2
    | .ok _ => false
/-- The place that a remote instruction names, precise at the bundle (R328). A window hole is found at the endpoint, and so is a
page in poison-hold, which R328's table does not name and R332 does: DEDUCED (log 114). -/
def State.remotePlace (s : State) (va n : Nat) (g : Agent) : Try (State × Place) := do
  trapIf (va < padSize || va % n != 0) 0x49 9 0 va
  match vregion va with
  | .hole => .ok (s, .tile ((va - 0x1000000000) / 0x80000) ((va - 0x1000000000) % 0x80000))
  | _ =>
    let asid := (s.car s.focus.die s.focus.tile).asid
    let held := (s.reachHeld s.focus.die asid g va).2
    let (s, r) := s.reach s.focus.die asid g va
    let no (f : XFault) : Try (State × Place) :=
      if f.kind = noGroup then trapB 0x49 9 0 va else trapB 0x4A 9 f.status va
    match r, held with
    | .ok p, _ => .ok (s, p)
    | .error f, .ok p => if f.kind = 2 then .ok (s, p) else no f
    | .error f, .error _ => no f

/-- The stream checks of R328 and the limits of R325, R331, R338 (hold kind 1). -/
def State.remoteStream (s : State) (n : Nat) (p : Place) : Try Unit := do
  let f := s.focus
  let st := s.strm f.die f.tile f.ctx n
  match s.strmTo f.die f.tile f.ctx n with
  | some e => trapIf (e != s.endpoint f.die p) 0x62 9 n
  | none => .ok ()
  trapIf (st.bound.isSome && st.broken) 0x63 9 (n + 16 * s.lowestUnacked f.die f.tile f.ctx n)
  if s.mayDepart f.die f.tile f.ctx n then .ok () else s.holdOr 1 0x82 1 0

/-- Width of a remote access by RZ (R78). -/
def rzBytes (rz : BitVec 2) : Nat := 2 ^ rz.toNat

/-- rst: the low bytes of s[SD], committed at the address as one write (R329). Through an import slot of
KIND 1 it is a round marker (R402). -/
def semRst (f : ST) (s : State) : SlotRes :=
  if !s.guard f.pg f.pn then .ok s
  else do
    let n := rzBytes f.rz
    let held := s.heldPage (s.rs f.sa).toNat .marker
    let (s, p) ← s.remotePlace (s.rs f.sa).toNat n .marker
    s.remoteStream f.stm.toNat p
    .ok (s.sendNext s.focus.die s.focus.tile s.focus.ctx f.stm.toNat
      { kind := .store, place := p, data := leBytes n (s.rs f.sd).toNat, len := n, baddr := s.focus.baddr, ph := held })
/-- RST by itself. -/
def execRst (f : ST) (s : State) : Host.Outcome State Fault Refusal := finish s (semRst f s)

/-- rstf: 8 bytes, or none where SD is 0, then semaphore SEM of the endpoint tile gains 1; with CL the
binding ends (R329). No guard. -/
def semRstf (f : STF) (s : State) : SlotRes := do
  let va := (s.rs f.sa).toNat
  let held := s.heldPage va .signal
  let (s, p) ← s.remotePlace va 8 .signal
  trapIf ((s.endpoint s.focus.die p).kind != 0) 0x49 9 0 va
  s.remoteStream f.stm.toNat p
  let n := if f.sd.toNat = 0 then 0 else 8
  .ok (s.sendNext s.focus.die s.focus.tile s.focus.ctx f.stm.toNat
    { kind := .signal, place := p, data := leBytes n (s.rs f.sd).toNat, len := n, sem := f.sem.toNat, cl := f.cl,
      baddr := s.focus.baddr, ph := held })
/-- RSTF by itself. -/
def execRstf (f : STF) (s : State) : Host.Outcome State Fault Refusal := finish s (semRstf f s)

/-- Number of a load among a context's waiting loads. -/
def rldId (stm epoch seq : Nat) : Nat := (stm * 256 + epoch) * 4096 + seq

/-- rld: served in its place in the binding's order; the next bundle waits for the value (R329), except
under a timetable (R352), where the register is unspecified until it lands. -/
def semRld (f : ST) (s : State) : SlotRes :=
  if !s.guard f.pg f.pn then .ok s
  else do
    let n := rzBytes f.rz
    let held := s.heldPage (s.rs f.sa).toNat .read
    let (s, p) ← s.remotePlace (s.rs f.sa).toNat n .read
    s.remoteStream f.stm.toNat p
    let x := s.focus
    let s := s.modStrm x.die x.tile x.ctx f.stm.toNat fun st => st.bindTo (s.endpoint x.die p)
    let st := s.strm x.die x.tile x.ctx f.stm.toNat
    let s := if s.timed then s.ws f.sd (Config.freeBits 64 s.freeCtr) 0
      else s.modF fun c => { c with rld := c.rld ++ [rldId f.stm.toNat st.epoch st.next] }
    .ok (s.sendNext x.die x.tile x.ctx f.stm.toNat
      { kind := .load, place := p, len := n, reg := f.sd.toNat, baddr := x.baddr, ph := held })
/-- RLD by itself. -/
def execRld (f : ST) (s : State) : Host.Outcome State Fault Refusal := finish s (semRld f s)

end Sys2Proof.Machine
end

