-- ==== Sys2Proof/Machine/Commit.lean ====
section
/-! DEFINITION. Committing a command: staging sets, queue entries, tags, and the traps of kind H (R59 to R63,
R83, R217, R314, R430). -/

namespace Sys2Proof.Machine

/-- A trap precise at the command header (R419). ENG is 4 plus the engine's number (R430). -/
def State.trapH {α : Type} (s : State) (cause eng : Nat) (status addr2 : Nat := 0) : Try α :=
  .error (.trap { cause := cause, kind := 1, eng := 4 + eng, status := status, addr2 := addr2 % 2 ^ 57,
                  cmdidx := s.fctx.e.count.get eng })
/-- A trap of kind H where a condition holds. -/
def State.hIf (s : State) (b : Bool) (cause eng : Nat) (status addr2 : Nat := 0) : Try Unit :=
  if b then s.trapH cause eng status addr2 else .ok ()

/-- Registers of a staging set: 16 for the matrix and copy engines, 8 for the others (R59). -/
def stgSize (eng : Nat) : Nat := if eng < 2 then 16 else 8

/-- A staging set of an engine, as it stands after every MOVSTG issued so far. -/
def EngSt.stgOf (e : EngSt) (eng : Nat) (set : Bool) : List DWord :=
  (upFrom 0 (stgSize eng)).map fun i =>
    let k := stgKey set eng i
    settle (e.stg.get k) e.stgW k
/-- The set that FILL names (R61). -/
def State.stgCopy (s : State) (eng : Nat) : List DWord := s.fctx.e.stgOf eng (s.fctx.e.fillOf eng)

/-- Commands of an engine that have not started (R61). -/
def EngSt.waiting (e : EngSt) (eng : Nat) : List Cmd := e.queue.filter fun c => c.eng == eng

/-- SETX of a header must name the set that FILL names (R62). -/
def State.setOk (s : State) (eng : Nat) (setx : Bool) : Try Unit := trapIf (setx != s.fctx.e.fillOf eng) 0x09 0
/-- The engine and the SETX of a command header that commits a staging set (R62). -/
def setxOf : Instr → Option (Nat × Bool)
  | .mma f => some (0, f.setx)
  | .mdrain f => some (0, f.setx)
  | .mload f | .mstore f => some (0, f.setx)
  | .copy f => some (1, f.setx)
  | .bufset f | .bufsetOff f => some (1, f.setx)
  | .quant f | .dequant f => some (2, f.setx)
  | .sqld f => some (2, f.setx)
  | .xcfg f => some (3, f.setx)
  | _ => none
/-- Some header's SETX differs from the FILL of its engine (R62). -/
def EngSt.wrongSet (e : EngSt) (b : List (Slot × Instr)) : Bool :=
  b.any fun x => match setxOf x.2 with
    | some (eng, v) => v != e.fillOf eng
    | none => false
/-- A staging set or a queue would hold: in timetabled mode deviation: engine, precise at the bundle (R281, R446). -/
def State.engineFull (s : State) (eng : Nat) : Try Unit :=
  if s.timed then .error (.trap { cause := 0x82, kind := 0, eng := 4 + eng, cmdidx := s.fctx.e.count.get eng }) else holdT 1
/-- Whether the header may enter the queue (R61, R62, R83): SETX, then the busy set, then the two entries. -/
def State.mayCommit (s : State) (eng : Nat) (setx : Option Bool) : Try Unit := do
  let e := s.fctx.e
  match setx with
  | some b =>
    s.setOk eng b
    if e.busyOf eng (e.fillOf eng) || 2 ≤ (e.waiting eng).length then s.engineFull eng else .ok ()
  | none => if 2 ≤ (e.waiting eng).length then s.engineFull eng else .ok ()

/-- The operands that XPUSH and XFETCH read at issue (R347). -/
structure CmdOps where
  ix : VReg := 0
  vx : VReg := 0
  mask : Mask := BitVec.allOnes 1024
  rsv : Option (Nat × Nat) := none
  ents : Nat := 0

/-- Enter a command (R61): its copy of the set, the set busy, FILL switched, the count advanced. CMDIDX of a command (R430) is
the count before it advances, so that the first has 0: DESIGN CHOICE (log 117). -/
def State.enter (s : State) (eng : Nat) (i : Instr) (staged : Bool) (stg : List DWord) (x : CmdOps := {}) :
    State :=
  let f := s.focus
  let set := s.fctx.e.fillOf eng
  let c : Cmd :=
    { eng := eng, instr := i, hdr := f.hdr, stg := stg, set := if staged then some set else none,
      idx := s.fctx.e.count.get eng, at' := s.t, ord := s.flitNo, prog := 0, rsv := x.rsv, ix := x.ix,
      vx := x.vx, mask := x.mask, baddr := f.baddr, ents := x.ents }
  let b : BitVec 8 := if staged then BitVec.ofNat 8 (2 ^ (2 * eng + set.toNat)) else 0
  let fl : BitVec 4 := if staged then BitVec.ofNat 4 (2 ^ eng) else 0
  { s.modE fun e =>
      { e with
        queue := e.queue ++ [c], busy := e.busy ||| b, fill := e.fill ^^^ fl,
        count := e.count.set eng ((e.count.get eng + 1) % 65536) } with flitNo := s.flitNo + 1 }

/-- The context owns a tag (R217). -/
def State.ownsTag (s : State) (tag : Nat) : Bool := s.fctx.tagm.getLsbD tag
/-- The tag check of a header (R217). -/
def State.tagH (s : State) (eng tag : Nat) : Try Unit := s.hIf (!s.ownsTag tag) 0x61 eng tag

/-- A command that names a tag is entered: TAGS cleared, OUT counted (R314). -/
def State.tagOut (s : State) (tag : Nat) : State :=
  s.modFT fun t =>
    { t with tags := t.tags &&& ~~~(BitVec.ofNat 64 (2 ^ tag)), out := t.out.set tag (t.out.get tag + 1) }
/-- A command that names a tag finishes: OUT drops, and TAGS is set when it reaches 0 (R314). -/
def Tile.tagDone (t : Tile) (tag : Nat) : Tile :=
  let n := t.out.get tag - 1
  { t with
    out := t.out.set tag n
    tags := if n = 0 then t.tags ||| BitVec.ofNat 64 (2 ^ tag) else t.tags }

/-- Bits h to l of staging register n. -/
def sreg (l : List DWord) (n h lo : Nat) : Nat := fld (l.getD n 0) h lo
/-- A staging register read as signed. -/
def sregS (l : List DWord) (n : Nat) : Int := (l.getD n 0).toInt

end Sys2Proof.Machine
end

