-- ==== Sys2Proof/Machine/Control.lean ====
section
/-! DEFINITION. Control transfers, loops, yield and exit (R112 to R121): decided at the lead, followed at the other
tiles. -/

namespace Sys2Proof.Machine

/-! ## Decisions of the lead (R24, R112, R421, R422) -/

/-- The tile that leads the context in focus; the shadow context leads itself (R284). -/
def State.leadOf (s : State) : Nat := if s.focus.ctx = 4 then s.focus.tile else s.flead
/-- The stream of the context in focus. -/
def State.myLead (s : State) : Lead := s.lead s.focus.die s.leadOf s.focus.ctx
/-- Change the stream of the context in focus. -/
def State.modMyLead (s : State) (f : Lead → Lead) : State := s.modLead s.focus.die s.leadOf s.focus.ctx f
/-- Change where the stream of the context in focus stands. -/
def State.modFlow (s : State) (f : Flow → Flow) : State := s.modMyLead fun l => { l with flow := f l.flow }
/-- The focus is at the lead, and the bundle is not one that the history reissues. -/
def State.deciding (s : State) : Bool := s.atLead && s.myLead.re.isNone
/-- The lead's decision for an instruction: taken now at the lead, else as the bundle carries it. -/
def State.decOf (s : State) (own : Decision) : Decision := if s.deciding then own else s.focus.dec
/-- The segment of the bundle in focus. -/
def State.myHalf (s : State) : Half := s.halfOf s.focus.die s.leadOf s.focus.ctx s.focus.pos.seg

/-! ## Transfers (R56, R113 to R115) -/

/-- The static checks of a transfer: ALT valid where it names ALT (R113), and room for two delay positions (R56). -/
def State.mayTransfer (s : State) (alt : Bool) : Try Unit :=
  if !s.deciding then .ok ()
  else do
    let h := s.myHalf
    trapIf (alt && !recAltv h.record) 0x04 0
    trapIf (!recNextv h.record && ((h.left s.focus.pos.idx).map fun n => decide (n < 2)) == some true) 0x04 0
/-- Two delay positions follow; then control goes to the target, if the transfer is taken (R56). -/
def State.transfer (s : State) (d : Decision) : State :=
  if s.deciding then s.modFlow fun f => { f with pend := some (if d.taken then some d.tgt else none, 2) } else s

/-- The first bundle of the ALT segment. -/
def State.altPos (s : State) : Pos := ⟨recAlt s.myHalf.record, 0, 0⟩
/-- The return position (R113): the one that follows the second delay position. -/
def State.returnPos (s : State) : DWord :=
  let f := s.focus
  let step (p : Pos) : Pos := s.posAfter f.die s.leadOf f.ctx p
  (s.outPos f.die s.leadOf f.ctx (step (step (step f.pos)))).enc

/-- br. -/
def decBr (s : State) : Decision := { (default : Decision) with taken := true, tgt := s.altPos }
/-- br: transfer to ALT. -/
def semBr (s : State) : SlotRes := do
  s.mayTransfer true
  .ok (s.transfer (decBr s))
/-- BR by itself. -/
def execBr (s : State) : Host.Outcome State Fault Refusal := finish s (semBr s)

/-- brc: p[BP] XOR BN at the lead. -/
def decBrc (bp : BitVec 4) (bn : Bool) (s : State) : Decision :=
  { (default : Decision) with taken := s.guard bp bn, tgt := s.altPos }
/-- brc: transfer to ALT where the condition holds. -/
def semBrc (bp : BitVec 4) (bn : Bool) (s : State) : SlotRes := do
  s.mayTransfer true
  .ok (s.transfer (decBrc bp bn s))
/-- BRC by itself. -/
def execBrc (bp : BitVec 4) (bn : Bool) (s : State) : Host.Outcome State Fault Refusal := finish s (semBrc bp bn s)

/-- call. -/
def decCall (s : State) : Decision :=
  { (default : Decision) with taken := true, tgt := s.altPos, ret := s.returnPos }
/-- call: s[BX] ← return position at every tile; transfer to ALT. -/
def semCall (bx : BitVec 6) (s : State) : SlotRes := do
  s.mayTransfer true
  let d := s.decOf (decCall s)
  .ok ((s.transfer d).ws bx d.ret 1)
/-- CALL by itself. -/
def execCall (bx : BitVec 6) (s : State) : Host.Outcome State Fault Refusal := finish s (semCall bx s)

/-- ret: the code position in s[BX] at the lead. -/
def decRet (bx : BitVec 6) (s : State) : Decision :=
  { (default : Decision) with taken := true, tgt := (Pos.dec (s.rs bx)).inside }
/-- ret: bit 63 must be clear. -/
def semRet (bx : BitVec 6) (s : State) : SlotRes := do
  trapIf (s.deciding && (s.rs bx).getLsbD 63) 0x0A 3
  s.mayTransfer false
  .ok (s.transfer (decRet bx s))
/-- RET by itself. -/
def execRet (bx : BitVec 6) (s : State) : Host.Outcome State Fault Refusal := finish s (semRet bx s)

/-- jmpr: the record address in s[BX] at the lead. -/
def decJmpr (bx : BitVec 6) (s : State) : Decision :=
  { (default : Decision) with taken := true, tgt := ⟨(s.rs bx).toNat, 0, 0⟩ }
/-- jmpr: bits 3:0 and 63:57 must be clear. -/
def semJmpr (bx : BitVec 6) (s : State) : SlotRes := do
  trapIf (s.deciding && (fld (s.rs bx) 3 0 != 0 || fld (s.rs bx) 63 57 != 0)) 0x0A 3
  s.mayTransfer false
  .ok (s.transfer (decJmpr bx s))
/-- JMPR by itself. -/
def execJmpr (bx : BitVec 6) (s : State) : Host.Outcome State Fault Refusal := finish s (semJmpr bx s)

/-! ## Loops (R116 to R119) -/

/-- A head above the loop bundle is an illegal encoding (R116). -/
def State.mayLoop (s : State) (n : Nat) : Try Unit := trapIf (s.deciding && s.focus.pos.idx < n) 0x00 0 2
/-- The iteration edge is taken after the idle count, without delay positions. -/
def State.loopEdge (s : State) (d : Decision) (n : Nat) : State :=
  if s.deciding && d.taken then s.modFlow fun f => { f with edge := some n } else s

/-- loop: u(s[BX]) > 0 at the lead. -/
def decLoop (bx : BitVec 6) (s : State) : Decision := { (default : Decision) with taken := s.rs bx != 0 }
/-- loop: each tile applies the lead's case to its own register (R117). -/
def semLoop (bx : BitVec 6) (imm : BitVec 7) (s : State) : SlotRes := do
  s.mayLoop imm.toNat
  let d := s.decOf (decLoop bx s)
  let s := s.loopEdge d imm.toNat
  .ok (if d.taken then s.ws bx (s.rs bx - 1) 1 else s)
/-- LOOP by itself. -/
def execLoop (bx : BitVec 6) (imm : BitVec 7) (s : State) : Host.Outcome State Fault Refusal :=
  finish s (semLoop bx imm s)

/-- Rotate(in) (R118): VOFF and SOFF advance for the next bundle, and the new p8 is written with bound 0. -/
def State.rotate (s : State) (b : Bool) : State :=
  let r := s.fctx.r
  let so := (r.soff + 1) % 8
  let s := (s.addLate (.voff ((r.voff + 1) % 32))).addLate (.soff so)
  (s.modR fun r => { r with pW := r.pW ++ [s.pw (physP so 8) 1 (BitVec.ofBool b) 0] }).bump
/-- Passes still to run, bits 31:0. -/
def loopP (v : DWord) : Nat := fld v 31 0
/-- Stage count, bits 35:32. -/
def loopS (v : DWord) : Nat := fld v 35 32
/-- loop.rot: the case and the in bit (R117). -/
def decLoopRot (bx : BitVec 6) (s : State) : Decision :=
  let v := s.rs bx
  { (default : Decision) with taken := loopP v != 0, inBit := loopP v != 0 && loopS v ≤ loopP v }
/-- loop.rot: P − 1 in bits 31:0 of the tile's own register where the edge is taken; rotate (R117). -/
def semLoopRot (bx : BitVec 6) (imm : BitVec 7) (s : State) : SlotRes := do
  s.mayLoop imm.toNat
  let d := s.decOf (decLoopRot bx s)
  let s := s.loopEdge d imm.toNat
  let v := s.rs bx
  let s := s.rotate (d.taken && d.inBit)
  .ok (if d.taken then s.ws bx (mix 0xFFFFFFFF (v - 1) v) 1 else s)
/-- LOOP_ROT by itself. -/
def execLoopRot (bx : BitVec 6) (imm : BitVec 7) (s : State) : Host.Outcome State Fault Refusal :=
  finish s (semLoopRot bx imm s)

/-- loopw: p[BP] XOR BN at the lead (R119). -/
def decLoopw (bp : BitVec 4) (bn : Bool) (s : State) : Decision :=
  { (default : Decision) with taken := s.guard bp bn }
/-- loopw: changes no register. -/
def semLoopw (bp : BitVec 4) (bn : Bool) (imm : BitVec 7) (s : State) : SlotRes := do
  s.mayLoop imm.toNat
  .ok (s.loopEdge (s.decOf (decLoopw bp bn s)) imm.toNat)
/-- LOOPW by itself. -/
def execLoopw (bp : BitVec 4) (bn : Bool) (imm : BitVec 7) (s : State) : Host.Outcome State Fault Refusal :=
  finish s (semLoopw bp bn imm s)

/-! ## Yield and exit (R120, R121) -/

/-- What takes effect at the lead after the bundle and its idle count. -/
def State.thenDo (s : State) (n : Nat) : State :=
  if s.deciding then s.modFlow fun f => { f with after := n } else s

/-- yield: a switch point; nothing in timetabled mode. -/
def semYield (s : State) : SlotRes := .ok (if s.timed then s else s.thenDo 1)
/-- YIELD by itself. -/
def execYield (s : State) : Host.Outcome State Fault Refusal := finish s (semYield s)

/-- Commands of the context in focus that have not finished, from bundles before this one (R121). -/
def State.cmdsOpen (s : State) : Bool :=
  s.fctx.e.queue.any (fun c => c.at' < s.t)
    || s.ftile.runs.any fun r => r.ctx == s.focus.ctx && r.cmd.at' < s.t

/-- exit: banks must have been freed; it waits for the commands of earlier bundles, then finds the scale queues empty
(R121, R239, R250, R281). -/
def semExit (s : State) : SlotRes := do
  trapIf (s.fctx.banks != 0) 0x8A 3
  if s.cmdsOpen then s.holdOr 5 0x81 3 5
  else do
    trapIf (!s.fctx.e.sqA.isEmpty || !s.fctx.e.sqB.isEmpty) 0x66 3
    .ok (s.thenDo 2)
/-- EXIT by itself. -/
def execExit (s : State) : Host.Outcome State Fault Refusal := finish s (semExit s)

end Sys2Proof.Machine
end

