-- ==== Sys2Proof/Machine/Journal.lean ====
section
/-! DEFINITION. The replay journal: the ring that records decisions, and the source that imposes them
(R458 to R464). -/

namespace Sys2Proof.Machine

/-- Set a register of the management window. -/
def State.setMgmt (s : State) (off : Nat) (v : DWord) : State :=
  { s with coll := { s.coll with mgmt := s.coll.mgmt.set off v } }
/-- A bit of EVENT becomes 1: PF4 raises MSI-X vector 0 (R407). -/
def State.event (s : State) (n : Nat) : State :=
  let v := s.coll.mgmt.get 0x20
  if bit v n then s else { s.setMgmt 0x20 (v ||| BitVec.ofNat 64 (2 ^ n)) with msix := (4, 0) :: s.msix }

/-- JLG (R458). -/
def State.jlg (s : State) (d : Nat) : Nat := fld (s.ctl d 0x400) 4 0
/-- The die records free-mode waybills. -/
def State.recording (s : State) (d : Nat) : Bool := bit (s.ctl d 0x400) 63 && 10 ≤ s.jlg d && s.jlg d ≤ 26
/-- Entries that the ring can still take (R461). -/
def State.jroom (s : State) (d : Nat) : Nat := 2 ^ s.jlg d - ((s.ctl d 0x408).toNat - (s.ctl d 0x410).toNat)

/-- The doublewords of an entry (R459). -/
def jentry (ty ctx tile ep asid tseq ttc p0 p1 : Nat) : List DWord :=
  [BitVec.ofNat 64 (ty * 2 ^ 60 + ctx % 4 * 2 ^ 58 + tile % 512 * 2 ^ 49 + ep * 2 ^ 48 + asid % 65536 * 2 ^ 32
      + tseq % 2 ^ 32), BitVec.ofNat 64 ttc, BitVec.ofNat 64 p0, BitVec.ofNat 64 p1]
/-- The bytes of doublewords. -/
def dBytes (l : List DWord) : List Byte := l.flatMap fun x => leBytes 8 x.toNat

/-- Write one entry to a die's ring and advance JHEAD. -/
def State.jput (s : State) (d : Nat) (e : List DWord) : State :=
  let head := (s.ctl d 0x408).toNat
  let base := fld (s.ctl d 0x400) 51 12 * 4096
  (s.store (dieKey d (base + 32 * (head % 2 ^ s.jlg d))) (dBytes e)).incCtl d 0x408
/-- Journal level 1, chosen by JRNVER (R405), writes no types 5 and 6 (R460). -/
def State.jlevel1 (s : State) (d ty : Nat) : Bool := 5 ≤ ty && fld (s.ctl d 0xB0) 7 4 == 1
/-- An event of a tile (R460): written for a free-mode caravan of a recording die, with the tile's
sequence number, which then advances (R431). -/
def State.journal (s : State) (d t c ty p0 p1 : Nat) : State :=
  let car := s.car d t
  if s.recording d && car.mode == 0 && !s.jlevel1 d ty then
    let n := (s.tile d t).tseq.toNat
    (s.modTile d t fun x => { x with tseq := x.tseq + 1 }).jput d (jentry ty c t 0 car.asid n (s.ttc d) p0 p1)
  else s

/-- A hold of a context ends; FIFO and tier holds are recorded (R460 types 2 and 5). -/
def State.endHold (s : State) (d t c kind : Nat) : State :=
  match (s.ctx d t c).hold.find? kind with
  | none => s
  | some since =>
    let info := (s.ctx d t c).hold.get (16 + kind)
    let s := s.unhold d t c kind
    if kind = 0 then s.journal d t c 2 info (s.now - since)
    else if kind = 8 then s.journal d t c 5 info (s.now - since)
    else s

/-! ## Reservations (R461, log 26) -/

/-- Entries that a bundle reserves in the journal (R461). -/
def resvOf (b : List (Slot × Instr)) : Nat :=
  1 + (b.filter fun e => match e.2 with
    | .rst _ | .rstf _ | .rld _ | .mlease | .xfetch _ => true
    | _ => false).length
/-- Entries that a started command may still need of those reserved for it: a copy one for each row to be sent, an xpush one
for each pair that has not entered the window. -/
def Run.entsLeft (r : Run) : Nat := if r.cmd.eng = 1 then min r.cmd.ents r.jobs.length else r.cmd.ents - r.cmd.prog
/-- The die in whose window and journal an endpoint's events are counted (R334, R460). -/
def Endpoint.home (e : Endpoint) : Nat := if e.kind ≤ 1 then e.die else 0
/-- The endpoint of a tracker's key, in this module. -/
def State.endpointOf (s : State) (k : Nat) : Endpoint := ⟨s.modnum, k / 1024 % 4, k / 4096, k % 1024⟩
/-- A command whose entry was reserved with its bundle: XFETCH. -/
def Cmd.isFetch (m : Cmd) : Bool := match m.instr with
  | .xfetch _ => true
  | _ => false
/-- Entries reserved with a context's bundles for their RST, RSTF, RLD, MLEASE and XFETCH that may still be needed for a tile:
those not executed there, its packets not acknowledged, the lease it asks for, its fetches. -/
def State.slotEnts (s : State) (d l t c : Nat) : Nat :=
  let x := s.ctx d t c
  let y := s.tile d t
  (((s.lead d l c).hist.filter fun b => x.nextNo ≤ b.no).map fun b => resvOf b.slots - 1).sum
    + (y.retx.filter fun p => p.src.ctx == c && p.cmd.isNone && p.kind != .close).length + (if x.lease == 1 then 1 else 0)
    + (x.e.queue.filter Cmd.isFetch).length + (y.runs.filter fun r => r.ctx == c && r.cmd.isFetch).length
/-- Entries reserved at a lead for a context that lives: one for each of its bundles that some tile has not executed, or for the
last while the lead has not switched from the context; and for their instructions the most that one of its tiles may still
need. -/
def State.reservedAt (s : State) (d l c : Nat) : Nat :=
  let x := s.ctx d l c
  let tiles := (s.car d l).tiles
  let first := (tiles.map fun t => (s.ctx d t c).nextNo).foldl min x.lead.no
  if x.st == .ready then
    max (x.lead.hist.filter fun b => first ≤ b.no).length (if (s.tile d l).cur == c && !x.lead.hist.isEmpty then 1 else 0)
      + (tiles.map fun t => s.slotEnts d l t c).foldl max 0
  else 0
/-- Entries reserved at the commits of a recorded tile (R461): one for each packet of a command that is not acknowledged and each
pair in the scatter window, and those of its commands. -/
def State.reservedOf (s : State) (d t : Nat) : Nat :=
  let x := s.tile d t
  (x.retx.filter fun p => p.cmd.isSome).length + (x.window.map (·.pairs)).sum
    + ((x.runs.filter fun r => !r.cmd.isFetch).map Run.entsLeft).sum
    + ((upFrom 0 4).map fun c => (((s.ctx d t c).e.queue.filter fun m => !m.isFetch).map (·.ents)).sum).sum
/-- Open runs of a die's endpoints. -/
def State.openRuns (s : State) (d : Nat) : List Nat :=
  (s.trackers.filter fun e => (s.endpointOf e.1).home == d && e.2.run.isSome).map (·.1)
/-- Entries reserved on a die and not yet written: those of its tiles, and one for each open commit run. -/
def State.reserved (s : State) (d : Nat) : Nat :=
  (s.openRuns d).length + ((upFrom 0 512).map fun t =>
    if (s.tile d t).occ.isNone || (s.car d t).mode != 0 then 0
    else s.reservedOf d t + if t == (s.car d t).leadTile then ((upFrom 0 4).map (s.reservedAt d t)).sum else 0).sum
/-- A reservation of n more entries succeeds (R461); a die that does not record needs none. -/
def State.mayReserve (s : State) (d t n : Nat) : Bool :=
  !s.recording d || (s.car d t).mode != 0 || s.reserved d + n ≤ s.jroom d
/-- A reservation has failed: JFULL (R458). -/
def State.jfull (s : State) (d : Nat) : State := s.setCtl d 0x418 (s.ctl d 0x418 ||| BitVec.ofNat 64 (2 ^ 63))

/-! ## The replay source (R463, R464) -/

/-- Doubleword k of entry n of the replay source. -/
def State.rentry (s : State) (d n k : Nat) : DWord :=
  s.readD d (fld (s.ctl d 0x420) 51 12 * 4096 + 32 * n + 8 * k)
/-- The next unused entry of the source that a predicate on its first doubleword accepts. -/
def State.replayNext (s : State) (d : Nat) (p : DWord → Bool) : Option Nat :=
  let r := (s.ctl d 0x430).toNat
  (upFrom r ((s.ctl d 0x428).toNat - r)).find? fun n => !(s.die d).rdone.contains n && p (s.rentry d n 0)
/-- The caravan on a tile is replayed: its mode is 10 and entries are left (R463, R464). -/
def State.replaying (s : State) (d t : Nat) : Bool :=
  (s.car d t).mode == 2 && (s.ctl d 0x430).toNat < (s.ctl d 0x428).toNat
/-- RPTR passes over the used entries, and over those that impose nothing (types 2 and 5). -/
def State.rskip (s : State) (d : Nat) : Nat → State
  | 0 => s
  | k + 1 =>
    let r := (s.ctl d 0x430).toNat
    let ty := fld (s.rentry d r 0) 63 60
    if r < (s.ctl d 0x428).toNat && ((s.die d).rdone.contains r || ty == 2 || ty == 5) then
      ((s.incCtl d 0x430).modDie d fun x =>
        { x with rdone := x.rdone.filter (· != r), rsince := s.now }).rskip d k
    else s
/-- RPTR moves on as far as it may; at the end EXH is set (R464). -/
def State.rnext (s : State) (d : Nat) : State :=
  let s := s.rskip d ((s.ctl d 0x428).toNat - (s.ctl d 0x430).toNat)
  if (s.ctl d 0x430).toNat = (s.ctl d 0x428).toNat then
    s.setCtl d 0x418 (s.ctl d 0x418 ||| BitVec.ofNat 64 (2 ^ 62))
  else s
/-- Use an entry of the source. -/
def State.ruse (s : State) (d n : Nat) : State := (s.modDie d fun x => { x with rdone := x.rdone ++ [n] }).rnext d
/-- The entry's type and, for a tile event, its tile. -/
def tileEntry (ty t : Nat) (e : DWord) : Bool := fld e 63 60 == ty && fld e 48 48 == 0 && fld e 57 49 == t
/-- In replay the holder starts no command beyond the recorded count (R363, R463). -/
def State.mayStartMore (s : State) (d t : Nat) : Bool :=
  !s.replaying d t || (s.replayNext d (tileEntry 1 t)).all fun e => (s.tile d t).started < (s.rentry d e 2).toNat

/-! ## Commit runs (R460 type 3) -/

/-- P0 of a commit run. -/
def runPayload (r : Source × Nat × Nat) : Nat :=
  r.1.module % 65536 * 2 ^ 48 + r.1.die % 4 * 2 ^ 46 + r.1.tile % 512 * 2 ^ 37 + r.1.ctx % 4 * 2 ^ 35
    + r.1.stm % 16 * 2 ^ 31 + r.2.1 % 4096 * 2 ^ 19 + r.2.2 % 65536
/-- Code of an endpoint that is no tile (R459). -/
def endpointCode (e : Endpoint) : Nat := if e.kind = 1 then e.idx else e.kind
/-- Write the open run of an endpoint: with the tile's own fields, or under an endpoint code. -/
def State.writeCommits (s : State) (k : Nat) : State :=
  let t := s.trackers.get k
  let e := s.endpointOf k
  let d := e.home
  match t.run with
  | none => s
  | some r =>
    let s := { s with trackers := s.trackers.set k { t with run := none } }
    if e.kind = 0 then
      let n := (s.tile d e.idx).tseq.toNat
      (s.modTile d e.idx fun x => { x with tseq := x.tseq + 1 }).jput d
        (jentry 3 r.1.ctx e.idx 0 ((s.tileAsid d e.idx).getD 0) n (s.ttc d) (runPayload r) 0)
    else s.jput d (jentry 3 r.1.ctx (endpointCode e) 1 (s.car r.1.die r.1.tile).asid 0 (s.ttc d) (runPayload r) 0)
/-- Write every open run of a die. -/
def State.flushRuns (s : State) (d : Nat) : State := (s.openRuns d).foldl (fun s k => s.writeCommits k) s

end Sys2Proof.Machine
end

