-- ==== Sys2Proof/Machine/Access.lean ====
section
/-! DEFINITION. Memory accesses of the engines: runs of bytes at virtual addresses, cut into 64-byte rows, with
the faults, the poison and the tier holds that stop them (R300, R301, R310, R384, R294, R451). -/

namespace Sys2Proof.Machine

/-! ## Rows -/

/-- Cut a run of bytes at its 64-byte rows; `fuel` bounds their number. -/
def cutRows : Nat → Nat → Nat → List (Nat × Nat)
  | 0, _, _ => []
  | fuel + 1, va, n =>
    if n = 0 then []
    else
      let k := min n (64 - va % 64)
      (va, k) :: cutRows fuel (va + k) (n - k)
/-- The rows that n bytes at an address touch. -/
def rowsOf (va n : Nat) : List (Nat × Nat) := cutRows (n / 64 + 2) va n

/-! ## Why an access of an engine stops -/

/-- A fault with its status word: the kind (R310) and the bit of a malformed entry (R381); a poisoned unit (R451), a translation that is not at hand (R283), or a
depot slot that is not published, with whether its list has failed (R294, R296), or a fault of the shadow
context, with its handler's cause (R284). -/
inductive AStop where
  | fault (status va : Nat)
  | poison (va : Nat)
  | miss (va : Nat)
  | tier (failed : Bool) (va : Nat)
  | shadow (cause va : Nat)
  deriving DecidableEq, Repr

/-- The accessing place: a context at a tile, with the ASID it uses. -/
structure Who where
  die : Nat
  tile : Nat
  ctx : Nat
  asid : Nat
  deriving DecidableEq, Repr

/-- A context of the caravan that occupies a tile. -/
def State.who (s : State) (d t c : Nat) : Who := ⟨d, t, c, (s.car d t).asid⟩

/-! ## Depot slots (R291 to R296) -/

/-- The depot slot of a haul list that an address lies in. -/
def Haul.slotOf (h : Haul) (va : Nat) : Option Nat :=
  let n := (va - h.depot) / 2 ^ h.slotLg
  if h.depot ≤ va && n < h.nslot then some n else none
/-- A slot is published. -/
def Haul.pub (h : Haul) (n : Nat) : Bool := (h.slots.get n).st == 2
/-- Why a read of an address waits or fails on a haul list (R294, R296). -/
def State.tierStop (s : State) (d asid va : Nat) : Option Bool :=
  (s.die d).hauls.findSome? fun h =>
    if h.asid != asid then none
    else match h.slotOf va with
      | some n => if h.pub n then none else some h.failed
      | none => none

/-- The number of the depot slot that an address lies in (R460 type 5). -/
def State.tierSlot (s : State) (d asid va : Nat) : Nat :=
  ((s.die d).hauls.findSome? fun h => if h.asid != asid then none else h.slotOf va).getD 0

/-- The cause that the haulier reports in a cycle for the slot that is awaited longest (R297): LPDDR6 bandwidth, refresh,
ECC retry, the host load path or the crossbar. The spec does not say when it is which: a free value, DESIGN CHOICE (log 95). -/
def State.tierCause (s : State) (d : Nat) : Nat := Config.freeNat 5 (4 * s.now + d) % 5
/-- A tier hold of an address, with what the journal says of it: slot and cause (R460). -/
def State.tierKind (s : State) (d asid va : Nat) : Nat := 8 + 16 * (s.tierSlot d asid va % 16 + 16 * s.tierCause d)

/-! ## The target's own checks (R301, R332, R396) -/

/-- Kind of the refusal of an access at its target, if it is refused: tile ownership, per-source ranges. -/
def State.targetKind (s : State) (w : Who) (right n : Nat) : Place → Option Nat
  | .tile t _ => if s.tileAsid w.die t == some w.asid then none else some 5
  | .peer m d a tasid => if m = s.modnum then s.peerRefused d m w.die right a n tasid else none
  | _ => none

/-- The scratchpad bytes of a place as they stand now, or memory bytes; bytes of another module are free
values (log 13). -/
def State.bytesAt (s : State) (d : Nat) (p : Place) (n : Nat) : List Byte :=
  match p with
  | .tile t x => s.padBytes d t (s.clock d t) x n
  | .peer m pd a _ =>
    if m != s.modnum then (upFrom s.freeCtr n).map fun i => Config.freeBits 8 i
    else if 0x10000000000 ≤ a then
      let t := (a - 0x10000000000) / 0x80000
      s.padBytes pd t (s.clock pd t) (a % 0x80000) n
    else s.load (dieKey pd a) n
  | p => s.load (s.placeKey d p) n

/-- Free values that reading a place used up. -/
def State.usedFree (s : State) (p : Place) (n : Nat) : State :=
  match p with
  | .peer m _ _ _ => if m != s.modnum then { s with freeCtr := s.freeCtr + n } else s
  | _ => s

/-- Some byte of a place is poisoned. -/
def State.poisonAt (s : State) (d : Nat) (p : Place) (n : Nat) : Bool :=
  match p with
  | .tile t x => (upFrom x n).any fun a => s.poisoned (s.pad d t a) 1
  | .peer m _ _ _ => m == s.modnum && s.poisoned (s.placeKey d p) n
  | .group _ _ => false
  | p => s.poisoned (s.placeKey d p) n

/-- A read of a place meets its soft errors (R447). -/
def State.meetPlace (s : State) (d : Nat) (p : Place) (n : Nat) : State :=
  match p with
  | .tile t x => s.meetPad d t x n
  | .peer m pd a _ =>
    if m != s.modnum then s
    else if 0x10000000000 ≤ a then s.meetPad pd ((a - 0x10000000000) / 0x80000) (a % 0x80000) n
    else s.meet pd (dieKey pd a) n
  | .group _ _ => s
  | p => s.meet d (s.placeKey d p) n

/-! ## Reads and writes of one row -/

/-- Poison of an own-scratchpad run at any tile, behind the writes of the cycle (R303). -/
def State.ownPoison (s : State) (d t x n : Nat) : Bool :=
  s.padPoisonAt d t (s.clock d t) x n

/-- An operand of a timetabled tile's engine that is late is awaited from now on: the die freezes (R276, R278, log 16). -/
def State.awaitLate (s : State) (d t : Nat) : State :=
  let late (u : Upset) : Bool := match u with
    | .late d' t' _ false => d' == d && t' == t
    | _ => false
  if !(s.car d t).timed || !s.tracking d then s
  else match s.upsets.find? late with
    | some (.late _ _ n _) =>
      ({ s with upsets := .late d t n true :: s.upsets.erase (.late d t n false) }).freezeFor d
    | _ => s
/-- Read at most one row for an engine (R300, R384), behind the writes of the cycle (R303). -/
def State.readRow (s : State) (w : Who) (g : Agent) (va n : Nat) : State × Except AStop (List Byte) :=
  if va + n ≤ padSize then
    let s := s.meetPad w.die w.tile va n
    if s.ownPoison w.die w.tile va n then (s, .error (.poison va))
    else (s, .ok (s.padBytes w.die w.tile (s.clock w.die w.tile) va n))
  else
    let (s, r) := (s.awaitLate w.die w.tile).reach w.die w.asid g va
    match r with
    | .error f => (s, .error (.fault f.status va))
    | .ok p =>
      match s.tierStop w.die w.asid va with
      | some failed => (s, .error (.tier failed va))
      | none =>
        match s.targetKind w 2 n p with
        | some k => (s, .error (.fault k va))
        | none =>
          let s := s.meetPlace w.die p n
          if s.poisonAt w.die p n then (s, .error (.poison va))
          else (s.usedFree p n, .ok (s.bytesAt w.die p n))

/-- Read a run of rows in order, up to the first stop. -/
def State.readRows (s : State) (w : Who) (g : Agent) : List (Nat × Nat) → State × Except AStop (List Byte)
  | [] => (s, .ok [])
  | (va, n) :: l =>
    match s.readRow w g va n with
    | (s, .error e) => (s, .error e)
    | (s, .ok b) =>
      match s.readRows w g l with
      | (s, .ok bs) => (s, .ok (b ++ bs))
      | (s, .error e) => (s, .error e)
/-- Read n bytes at an address. -/
def State.readRun (s : State) (w : Who) (g : Agent) (va n : Nat) : State × Except AStop (List Byte) :=
  s.readRows w g (rowsOf va n)

/-- Where the bytes of one row go when a command completes. -/
def State.writeRow (s : State) (w : Who) (va : Nat) (bs : List Byte) : State × Except AStop (List Eff) :=
  if va + bs.length ≤ padSize then (s, .ok [.own va bs])
  else
    let (s, r) := s.reach w.die w.asid .write va
    match r with
    | .error f => (s, .error (.fault f.status va))
    | .ok p =>
      match s.targetKind w 1 bs.length p with
      | some k => (s, .error (.fault k va))
      | none =>
        (s, .ok (match p with
          | .tile t x => [.pad w.die t x bs]
          | .peer m d a _ =>
            if m != s.modnum then []
            else if 0x10000000000 ≤ a then [.pad d ((a - 0x10000000000) / 0x80000) (a % 0x80000) bs]
            else [.mem (dieKey d a) bs]
          | p => [.mem (s.placeKey w.die p) bs]))

/-- The writes of a run of bytes, row by row, up to the first stop. -/
def State.writeRows (s : State) (w : Who) (bs : List Byte) : List (Nat × Nat) → State × Except AStop (List Eff)
  | [] => (s, .ok [])
  | (va, n) :: l =>
    match s.writeRow w va (bs.take n) with
    | (s, .error e) => (s, .error e)
    | (s, .ok a) =>
      match s.writeRows w (bs.drop n) l with
      | (s, .ok b) => (s, .ok (a ++ b))
      | (s, .error e) => (s, .error e)
/-- The writes of bytes at an address. -/
def State.writeRun (s : State) (w : Who) (va : Nat) (bs : List Byte) : State × Except AStop (List Eff) :=
  s.writeRows w bs (rowsOf va bs.length)

/-- Bytes from elsewhere come to a scratchpad: whether they meet a parity error in the buffer behind the link (R449), and the
status of 0xA7, which the spec leaves open: a free value, DESIGN CHOICE (log 92). -/
def State.bufferMet (s : State) (d t : Nat) : State × Bool × Nat :=
  if !s.upsets.contains (.buffer d t) then (s, false, 0)
  else ({ s with upsets := s.upsets.erase (.buffer d t) }.bump, true, Config.freeNat 14 s.freeCtr % 2 ^ 32)
/-- Bytes from elsewhere have been written to a scratchpad: after a parity error their rows are poisoned (R449). -/
def State.bufferError (s : State) (d t x n : Nat) : State × Bool × Nat :=
  match s.bufferMet d t with
  | (s, true, st) => (s.poisonUnits [unitOf (s.pad d t x), unitOf (s.pad d t (x + n - 1))], true, st)
  | r => r

/-! ## Reads bound to a half of a buffer (R321) -/

/-- An MXINT format. -/
def mmaMx (fmt : Nat) : Bool := 1 ≤ fmt && fmt ≤ 3

/-- An MXINT mma that has steps to take. -/
def Run.steps (r : Run) : Bool :=
  match r.cmd.instr with
  | .mma f => mmaMx f.fmt.toNat && r.cmd.prog < r.prog
  | _ => false

/-- An sqld that has entries to push. -/
def Run.pushes (r : Run) : Bool :=
  match r.cmd.instr with
  | .sqld _ => r.cmd.prog < r.prog
  | _ => false

/-- A started command still has bytes to read, in a later cycle than those that it has read. -/
def Run.reading (r : Run) : Bool := (r.jobs.any fun j => j.data.isNone) || r.steps || r.pushes

/-- A run of bytes meets a range. -/
def meets (a n b m : Nat) : Bool := a < b + m && b < a + n
/-- A read access at a tile is still under way with a half of a descriptor (R321): a command's or a slot's. -/
def State.boundTo (s : State) (d t b : Nat) (half : Bool) : Bool :=
  s.tiles.any (fun e => e.2.runs.any fun r =>
      r.bound.contains ⟨d, t, b, half⟩ && r.reading)
    || s.lates.any fun o => o.focus.die == d && o.focus.tile == t && s.clockOf o.focus < o.last
      && (o.bufs.find? b).any fun (m : Buf) => m.g == half
/-- A write to a scratchpad is delayed: it would reach, by the hidden range, a half to which a read is bound (R321). -/
def State.hiddenHeld (s : State) (d t x n : Nat) : Bool :=
  (s.tile d t).bufs.any fun e => e.2.en && meets x n e.2.hid e.2.size && s.boundTo d t e.1 (!e.2.g)
/-- Some write of a command's effects is so delayed, or reaches a tile that is being scrubbed (R392). -/
def State.effHeld (s : State) (d t : Nat) (l : List Eff) : Bool :=
  l.any fun e => match e with
    | .own a bs => s.hiddenHeld d t a bs.length
    | .pad d' t' a bs => s.now < (s.tile d' t').scrubAt || s.hiddenHeld d' t' a bs.length
    | _ => false
/-- The scratchpad, if an address reaches one of this module: die, tile, address (before R318). -/
def State.padOf (s : State) (w : Who) (g : Agent) (va : Nat) : Option (Nat × Nat × Nat) :=
  if va < padSize then some (w.die, w.tile, va)
  else match (s.reach w.die w.asid g va).2 with
    | .ok (.tile t x) => some (w.die, t, x)
    | .ok (.peer m d a _) =>
      if m = s.modnum && 0x10000000000 ≤ a then some (d, (a - 0x10000000000) / 0x80000, a % 0x80000) else none
    | _ => none
/-- The halves to which a read is bound once a run of bytes has performed (R321), and those that this run reads. -/
def State.bind (s : State) (w : Who) (va n : Nat) (l : List Bound) : List Bound × List Bound :=
  match s.padOf w .read va with
  | none => (l, [])
  | some (d, t, x) =>
    let pub := (s.tile d t).bufs.filter fun e => e.2.en && meets x n e.2.pub e.2.size
    let here := pub.map fun e =>
      (l.find? fun (b : Bound) => b.die == d && b.tile == t && b.buf == e.1).getD ⟨d, t, e.1, e.2.g⟩
    (l ++ here.filter (fun b => !l.contains b), here)
/-- The scratchpads with the bound halves at their public ranges. -/
def State.seeHalves (s : State) (l : List Bound) : State :=
  l.foldl (fun s b => s.modTile b.die b.tile fun x =>
    { x with bufs := x.bufs.modify b.buf fun e => { e with g := b.half } }) s
/-- The buffers of the scratchpads that bound halves lie in stand as they stood in another state. -/
def State.asBefore (s old : State) (l : List Bound) : State :=
  l.foldl (fun s b => s.modTile b.die b.tile fun x => { x with bufs := (old.tile b.die b.tile).bufs }) s
/-- Act for a read access with its bound halves: the access binds to what it reads, and the buffers stay as they are. -/
def State.inHalves {α : Type} (s : State) (w : Who) (va n : Nat) (l : List Bound) (act : State → State × α) :
    State × List Bound × α :=
  let (l, here) := s.bind w va n l
  let r := act (s.seeHalves here)
  (r.1.asBefore s here, l, r.2)
/-- A tile whose scratchpad an address reaches by a window is being scrubbed (R392). -/
def State.scrubbing (s : State) (w : Who) (g : Agent) (va : Nat) : Bool :=
  let at' (d t : Nat) : Bool := s.now < (s.tile d t).scrubAt
  if va < padSize then false
  else match (s.reach w.die w.asid g va).2 with
    | .ok (.tile t _) => at' w.die t
    | .ok (.peer m d a _) => m == s.modnum && 0x10000000000 ≤ a && at' d ((a - 0x10000000000) / 0x80000)
    | _ => false

/-! ## Misses of the matrix pipes (R283) -/

/-- The address is translated (R300). -/
def translated (va : Nat) : Bool :=
  match vregion va with
  | .peer | .xlate => true
  | _ => false

/-- A stream of a tile has the translation of an address (R385): in the micro-TLB, or got for this access. -/
def State.streamHas (s : State) (w : Who) (stream va : Nat) : Bool :=
  let x := s.tile w.die w.tile
  !translated va || x.micro.contains (w.asid, va / 4096) || x.piped.contains (stream, w.asid, va / 4096)
/-- The page of an address is held with the right an agent needs: for a matrix load pipe (R283). -/
def State.atHand (s : State) (w : Who) (g : Agent) (va : Nat) : Bool :=
  !translated va || (s.streamHas w 2 va &&
    match (s.die w.die).tlb.find? fun e => e.asid == w.asid && e.page == va / 4096 with
    | some e => (checkLeaf g (vregion va) e.res).isNone
    | none => false)
/-- The general stream has the translations of some addresses; else it asks for the first that it lacks, if it has none
outstanding (R385). -/
def State.genReady (s : State) (w : Who) (stream : Nat) (l : List Nat) : State × Bool :=
  match l.find? fun va => !s.streamHas w stream va with
  | none => (s, true)
  | some va =>
    (s.modTile w.die w.tile fun x =>
      { x with gen := x.gen.orElse fun _ => some (stream, w.asid, va / 4096, s.now) }, false)
/-- A page has been translated for a stream of a tile: the micro-TLB keeps the 64 newest, DESIGN CHOICE (log 91). -/
def Tile.fill (x : Tile) (stream asid page : Nat) : Tile :=
  { x with
    micro := ((asid, page) :: x.micro.filter (· != (asid, page))).take 64
    piped := x.piped ++ [(stream, asid, page)] }
/-- An access that its translations were for has begun. -/
def Tile.unpipe (x : Tile) (stream : Nat) : Tile := { x with piped := x.piped.filter (·.1 != stream) }

/-! ## Untimed accesses (R276) -/

/-- The port that a module is routed to carries UALink, or there is none. -/
def State.ualink (s : State) (m : Nat) : Bool :=
  match s.route m with
  | some p => s.portRole p != 1
  | none => true
/-- An address names the host aperture or a peer reached by UALink. -/
def State.untimed (s : State) (w : Who) (g : Agent) (va : Nat) : Bool :=
  translated va &&
    match (s.reach w.die w.asid g va).2 with
    | .ok (.host _) => true
    | .ok (.peer m _ _ _) => m != s.modnum && s.ualink m
    | _ => false
/-- In timetabled mode a command that names an untimed address is refused at its header (R276, R281). -/
def State.timedH (s : State) (eng : Nat) (l : List (Agent × Nat)) : Try Unit :=
  let w := s.who s.focus.die s.focus.tile s.focus.ctx
  if !s.timed then .ok ()
  else match l.find? fun e => s.untimed w e.1 e.2 with
    | some e => s.trapH 0x86 eng 0 e.2
    | none => .ok ()

/-- The trap of a stop at a command boundary: the engine's own fault cause, poison consumption, haul failed
(R310, R451, R296). -/
def AStop.info (a : AStop) (cause : Nat) (c : Cmd) : TrapInfo :=
  let f (cause status va : Nat) : TrapInfo :=
    { cause := cause, kind := 2, eng := 4 + c.eng, status := status, addr2 := va % 2 ^ 57, cmdidx := c.idx,
      baddr := some c.baddr }
  match a with
  | .fault k va => f cause k va
  | .miss va => f cause 0 va
  | .poison va => f 0xA0 0 va
  | .tier _ va => f 0x48 0 va
  | .shadow st va => { f 0xA2 st va with eng := 11 }
/-- A trap of kind C that belongs to no address. -/
def Cmd.trapC (c : Cmd) (cause : Nat) (status addr2 : Nat := 0) : TrapInfo :=
  { cause := cause, kind := 2, eng := 4 + c.eng, status := status, addr2 := addr2 % 2 ^ 57, cmdidx := c.idx,
    baddr := some c.baddr }

/-! ## Applying effects -/

/-- Write bytes to a scratchpad as they stand redirected now (R318). -/
def State.padStore (s : State) (d t x : Nat) (bs : List Byte) : State :=
  let keys := (upFrom x bs.length).map fun a => s.pad d t a
  let s := s.keepOld d t (s.clock d t) keys
  { s.cleanUnits (fun u => (upFrom (64 * u) 64).all fun k => keys.contains k) with
    mem := s.mem.writeL (keys.zip bs) }

/-- A cause of a tile that no slot in focus raises: kind C, N, P or I (R419). -/
def State.raiseAt (s : State) (d t c : Nat) (info : TrapInfo) : State :=
  s.raise d t c (s.mkRec d t c info (s.ctx d t c).nextNo ⟨0, 0, 0⟩ 0)

/-- Flags of a command of a context land at a tile in this cycle (R90): a write of FSR that issues in it keeps them. The
number 15 is of no slot. -/
def State.orFsr (s : State) (d t c : Nat) (f : Flags) : State :=
  s.modCtx d t c fun x => { x with r := { x.r with fW := x.r.fW ++ [⟨s.clock d t, f, 15⟩] } }
/-- Apply the effects of a command of a context (log 7). A write through the tile or peer window stands last among the
writes of its cycle (R303): it joins those that are due there, as of no context. -/
def State.applyEff (s : State) (d t c : Nat) : Eff → State
  | .mem k bs => s.store k bs
  | .own a bs => s.padStore d t a bs
  | .pad pd pt x bs =>
      let (s, bad, st) := s.bufferMet pd pt
      let s := s.modTile pd pt fun y =>
        { y with pend := y.pend ++ [⟨s.clock pd pt, s.clock pd pt, 8, atAddr x bs, 0, bad⟩] }
      if bad then s.raiseAt d t c { cause := 0xA7, kind := 5, eng := 13, status := st } else s
  | .acc off bs => s.store (accKey d t off) bs
  | .mrs l => s.modCtx d t c fun x =>
      { x with e := { x.e with mrs := (l.zip (upFrom 0 l.length)).foldl (fun (m : FMap DWord) (e : DWord × Nat) => m.set e.2 e.1) x.e.mrs } }
  | .msat b => s.modCtx d t c fun x => { x with e := { x.e with msat := b } }
  | .flags f => s.orFsr d t c f
  | .pop n => s.modCtx d t c fun x => { x with e := { x.e with sqA := x.e.sqA.drop n, sqB := x.e.sqB.drop n } }
  | .sem n => s.modTile d t fun x => { x with semQ := x.semQ ++ [⟨s.now, n, none, 1, false⟩] }
  | .send _ _ => s
/-- Apply a list of effects. -/
def State.applyEffs (s : State) (d t c : Nat) (l : List Eff) : State := l.foldl (fun s e => s.applyEff d t c e) s

/-! ## Starting and finishing a command (R61, R225, R311) -/

/-- Bit of a staging set among the busy bits. -/
def setBit (eng : Nat) (set : Option Bool) : BitVec 8 :=
  match set with
  | some b => BitVec.ofNat 8 (2 ^ (2 * eng + b.toNat))
  | none => 0

/-- The first unstarted command of an engine in a context's queue. -/
def EngSt.head? (e : EngSt) (eng : Nat) : Option Cmd := e.queue.find? fun c => c.eng == eng
/-- Remove it. -/
def dropHead (eng : Nat) : List Cmd → List Cmd
  | [] => []
  | c :: l => if c.eng = eng then l else c :: dropHead eng l
/-- A command leaves the queue as it starts; its set is free again (R61). -/
def State.takeCmd (s : State) (d t c eng : Nat) (cmd : Cmd) : State :=
  s.modCtx d t c fun x =>
    { x with e := { x.e with
        queue := dropHead eng x.e.queue
        busy := x.e.busy &&& ~~~(setBit eng cmd.set) } }
/-- A command returns to the head of its queue as one that has not started (R225, R311); where two of an engine return,
they stand there in the order of their entry. -/
def State.returnCmd (s : State) (d t c : Nat) (cmd : Cmd) : State :=
  s.modCtx d t c fun x =>
    { x with e := { x.e with queue := sortBy (·.ord) ({ cmd with set := none, back := true } :: x.e.queue) } }

/-- Start a command: from `busy` the engine may start another, at `done` its effects are there. -/
def State.startRun (s : State) (d t c : Nat) (cmd : Cmd) (busy done : Nat) (eff : List Eff)
    (trap : Option TrapInfo) (prog : Nat) : State :=
  (s.takeCmd d t c cmd.eng cmd).modTile d t fun x =>
    { x with
      runs := x.runs ++ [{ ctx := c, cmd := cmd, start := s.clock d t, busy := busy, done := done, eff := eff, trap := trap,
                           prog := prog }] }

/-- Runs of an engine at a tile. -/
def Tile.runsOf (t : Tile) (eng : Nat) : List Run := t.runs.filter fun r => r.cmd.eng == eng
/-- A context whose queue is not stopped: its engine commands may start. A context that is stopping or stopped
starts none (R288, R311). -/
def Ctx.mayStart (c : Ctx) : Bool := c.st == .ready && c.t.cur.isNone && !c.lead.halted
/-- The command at the head of a context's queue for an engine may start: one that a fault has returned waits for the
return from the handler (R225, R311, log 29). -/
def Ctx.mayGo (c : Ctx) (m : Cmd) : Bool := c.mayStart && !(m.back && c.t.hm)

/-- The tag that a command names (R314). -/
def cmdTag : Instr → Option Nat
  | .mdrain f => some f.tag.toNat
  | .mload f => some f.tag.toNat
  | .mstore f => some f.tag.toNat
  | .copy f => some f.tag.toNat
  | .bufset f => some f.tag.toNat
  | .bufsetOff f => some f.tag.toNat
  | .publish f => some f.tag.toNat
  | .quant f => some f.tag.toNat
  | .dequant f => some f.tag.toNat
  | _ => none

/-- Replace a run, named by its command's order number. -/
def Tile.putRun (t : Tile) (r : Run) : Tile :=
  { t with runs := t.runs.map fun x => if x.cmd.ord = r.cmd.ord then r else x }
/-- Remove a run. -/
def Tile.dropRun (t : Tile) (r : Run) : Tile :=
  { t with runs := t.runs.filter fun x => x.cmd.ord != r.cmd.ord }

/-- A run ends: its effects are applied, then its tag is set, or its trap is taken (R225, R311, R314). -/
def State.finishRun (s : State) (d t : Nat) (r : Run) : State :=
  let s := (s.modTile d t fun x => x.dropRun r).applyEffs d t r.ctx r.eff
  match r.trap with
  | none =>
    match cmdTag r.cmd.instr with
    | some g => s.modTile d t fun x => x.tagDone g
    | none => s
  | some i =>
    let s := s.returnCmd d t r.ctx { r.cmd with prog := r.prog }
    let s := if r.cmd.eng = 0 then
        s.modCtx d t r.ctx fun x => { x with e := { x.e with mvalid := true, mprog := r.prog } }
      else s
    s.raiseAt d t r.ctx i

/-- The command that an engine may start next: the earliest entered among the heads of the contexts' queues
(R226, R313); a command starts no earlier than its header's issue + 2. -/
def State.nextCmd (s : State) (d t eng : Nat) : Option (Nat × Cmd) :=
  let l := (upFrom 0 4).filterMap fun c =>
    let x := s.ctx d t c
    (x.e.head? eng).bind fun m => if x.mayGo m then some (c, m) else none
  (sortBy (fun e => e.2.ord) l).head?
/-- The cycle allows a command to start. -/
def State.ripe (s : State) (d t : Nat) (c : Cmd) : Bool := c.at' + 2 ≤ s.clock d t

end Sys2Proof.Machine
end

