-- ==== Sys2Proof/Machine/Matrix.lean ====
section
/-! DEFINITION. The matrix engine: its five commands at commit (R205 to R220) and what each computes (R211 to
R225, R236). -/

namespace Sys2Proof.Machine

/-! ## Formats and blocks (R205, R206) -/

/-- Width in bits of an element of an operand format. -/
def mmaBits (fmt : Nat) : Nat :=
  match fmt with
  | 0 => 8 | 1 => 4 | 2 => 6 | 3 => 8 | 4 => 8 | 5 => 16 | _ => 32
/-- G, the products along k per cycle. -/
def mmaG (fmt : Nat) : Nat :=
  match fmt with
  | 0 => 16 | 1 => 64 | 2 => 28 | 3 => 16 | 4 => 28 | 5 => 5 | _ => 1
/-- U, the step unit. -/
def mmaU (fmt : Nat) : Nat :=
  match fmt with
  | 0 => 16 | 1 => 32 | 2 => 32 | 3 => 32 | 4 => 28 | 5 => 5 | _ => 1
/-- The banks of a block: one for an I-block, eight for a Q-block. -/
def blockBanks (acc : Nat) (q : Bool) : List Nat := if q then upFrom acc 8 else [acc]
/-- Offset of element (i, j) in accumulator memory. -/
def accOff (acc : Nat) (q : Bool) (i j : Nat) : Nat := acc * 2048 + (if q then 64 else 8) * (16 * i + j)

/-- The check of R207: the handle's alignment first, then that the context holds every bank. -/
def State.blockCheck (s : State) (acc : Nat) (q : Bool) : Try Unit := do
  s.hIf (q && acc % 8 != 0) 0x0B 0
  match (blockBanks acc q).find? fun b => !s.fctx.banks.getLsbD b with
  | some b => s.trapH 0x8B 0 b
  | none => .ok ()
/-- The lease check of R221. -/
def State.leaseCheck (s : State) : Try Unit := trapIf (s.fctx.lease == 0) 0x8E 4

/-! ## Checks of the staged registers (R209) -/

/-- An address register is in form: bits 63:57 zero, a multiple of 64. -/
def addrBad (l : List DWord) (n : Nat) : Bool := sreg l n 63 57 != 0 || sreg l n 5 0 != 0
/-- mst4 has a reserved bit set. -/
def accBad (l : List DWord) : Bool := sreg l 4 63 14 != 0 || sreg l 4 7 6 != 0

/-- mma: mst0 to mst4. -/
def mmaBad (f : MmaF) (l : List DWord) : Bool :=
  let k := sreg l 3 20 0
  addrBad l 0 || addrBad l 1 || sreg l 2 37 32 != 0 || sreg l 2 5 0 != 0 || sreg l 3 63 21 != 0
    || k == 0 || 1048575 < k || (mmaMx f.fmt.toNat && k % 32 != 0) || accBad l
/-- mload, mstore: AVA, ASTR and ACC. -/
def mlsBad (l : List DWord) : Bool := addrBad l 0 || sreg l 2 5 0 != 0 || accBad l
/-- An mdrain output needs the requantisation table. -/
def drainRq (ofmt : Nat) : Bool := ofmt == 2 || ofmt == 3
/-- mdrain: its address, stride and handle, and what .zc and an 8-bit output need. -/
def drainBad (f : MdrainF) (l : List DWord) : Bool :=
  addrBad l 0 || sreg l 2 5 0 != 0 || accBad l
    || (f.ofmt == 1 && sreg l 2 31 0 % 128 != 0)
    || (f.zc && (sreg l 3 63 21 != 0 || 1048575 < sreg l 3 20 0 || addrBad l 6))
    || (drainRq f.ofmt.toNat && (addrBad l 7 || sreg l 8 63 8 != 0))

/-! ## The commands at commit -/

/-- Format of an mdrain output. -/
def drainFmt (ofmt des : Nat) : Fmt :=
  match ofmt with
  | 0 => .i 32 true | 1 => .i 64 true | 2 => .i 8 true | 3 => .i 8 false
  | 4 => .t 8 des | 5 => .t 16 des | 6 => .t 32 des | 7 => .f ff32 | 8 => .f ff16 | _ => .f ffB16
/-- Bytes of an mdrain output row (R220). -/
def drainRow (f : MdrainF) : Nat := 16 * ((drainFmt f.ofmt.toNat 0).bits / 8)
/-- Bytes of a memory row of mload and mstore (R216). -/
def mlsRow (f : MlsF) : Nat := if f.xf == 0 then 64 else if f.xf == 1 then 128 else 1024

/-- Base address of row i of an operand. -/
def rowAt (base str i : Nat) : Nat := base + i * str
/-- An address in each 4 KiB page that n bytes touch. -/
def pagesOf (va n : Nat) : List Nat :=
  (upFrom 0 ((va % 4096 + n + 4095) / 4096)).map fun i => if i = 0 then va else va / 4096 * 4096 + 4096 * i
/-- Every page of the sixteen rows of an operand, n bytes each, for R276. -/
def rows16 (g : Agent) (base str n : Nat) : List (Agent × Nat) :=
  (upFrom 0 16).flatMap fun i => (pagesOf (rowAt base str i) n).map fun a => (g, a)

/-- mma (R210). -/
def semMma (f : MmaF) (s : State) : SlotRes := do
  s.setOk 0 f.setx
  s.leaseCheck
  s.mayCommit 0 (some f.setx)
  let l := s.stgCopy 0
  s.hIf (mmaBad f l) 0x0B 0
  s.hIf (f.fmt == 6 && (sreg l 4 1 0 == 3 || sreg l 4 3 2 == 3)) 0x21 0
  s.blockCheck (sreg l 4 13 8) (f.fmt != 0)
  let n := (sreg l 3 20 0 * mmaBits f.fmt.toNat + 7) / 8
  s.timedH 0 (rows16 .read (sreg l 0 56 0) (sreg l 2 31 0) n ++ rows16 .read (sreg l 1 56 0) (sreg l 2 63 32) n)
  .ok (s.enter 0 (.mma f) true l)
/-- MMA by itself. -/
def execMma (f : MmaF) (s : State) : Host.Outcome State Fault Refusal := finish s (semMma f s)

/-- mzero (R215). -/
def semMzero (f : MzeroF) (s : State) : SlotRes := do
  s.leaseCheck
  s.mayCommit 0 none
  if f.blk then s.blockCheck f.bank.toNat f.q else .ok ()
  .ok (s.enter 0 (.mzero f) false [])
/-- MZERO by itself. -/
def execMzero (f : MzeroF) (s : State) : Host.Outcome State Fault Refusal := finish s (semMzero f s)

/-- mdrain (R218). Of several faults of a header the fields come first, then es, the block and the tag, here and in the other
commands of the matrix and quantisation engines: R209 gives no order: DESIGN CHOICE (log 116). -/
def semMdrain (f : MdrainF) (s : State) : SlotRes := do
  s.setOk 0 f.setx
  s.leaseCheck
  s.mayCommit 0 (some f.setx)
  let l := s.stgCopy 0
  s.hIf (drainBad f l) 0x0B 0
  s.hIf (f.ofmt == 6 && sreg l 4 5 4 == 3) 0x21 0
  s.blockCheck (sreg l 4 13 8) f.qs
  s.tagH 0 f.tag.toNat
  s.timedH 0 ((if f.zc then (pagesOf (sreg l 6 56 0) 64).map fun a => (Agent.read, a) else [])
    ++ (if drainRq f.ofmt.toNat then (pagesOf (sreg l 7 56 0) 128).map fun a => (Agent.read, a) else [])
    ++ rows16 .write (sreg l 0 56 0) (sreg l 2 31 0) (drainRow f))
  .ok ((s.enter 0 (.mdrain f) true l).tagOut f.tag.toNat)
/-- MDRAIN by itself. -/
def execMdrain (f : MdrainF) (s : State) : Host.Outcome State Fault Refusal := finish s (semMdrain f s)

/-- mload (R216). -/
def semMload (f : MlsF) (s : State) : SlotRes := do
  s.setOk 0 f.setx
  s.leaseCheck
  s.mayCommit 0 (some f.setx)
  let l := s.stgCopy 0
  s.hIf (mlsBad l) 0x0B 0
  s.blockCheck (sreg l 4 13 8) (f.xf == 2)
  s.tagH 0 f.tag.toNat
  s.timedH 0 (rows16 .read (sreg l 0 56 0) (sreg l 2 31 0) (mlsRow f))
  .ok ((s.enter 0 (.mload f) true l).tagOut f.tag.toNat)
/-- MLOAD by itself. -/
def execMload (f : MlsF) (s : State) : Host.Outcome State Fault Refusal := finish s (semMload f s)

/-- mstore (R216). -/
def semMstore (f : MlsF) (s : State) : SlotRes := do
  s.setOk 0 f.setx
  s.leaseCheck
  s.mayCommit 0 (some f.setx)
  let l := s.stgCopy 0
  s.hIf (mlsBad l) 0x0B 0
  s.blockCheck (sreg l 4 13 8) (f.xf == 2)
  s.tagH 0 f.tag.toNat
  s.timedH 0 (rows16 .write (sreg l 0 56 0) (sreg l 2 31 0) (mlsRow f))
  .ok ((s.enter 0 (.mstore f) true l).tagOut f.tag.toNat)
/-- MSTORE by itself. -/
def execMstore (f : MlsF) (s : State) : Host.Outcome State Fault Refusal := finish s (semMstore f s)

/-! ## Reading the operands (R211, R225, R283) -/

/-- Rows of an access still to be made, each with the progress unit that needs it. -/
structure Need where
  unit : Nat
  va : Nat
  n : Nat
  write : Bool
  deriving DecidableEq, Repr

/-- The rows of sixteen packed runs from element position p0 to K − 1 (R211): each row serves the step of its
first element, but a step at least p0 ÷ U. -/
def runNeeds (base str bits u p0 k : Nat) : List Need :=
  (upFrom 0 16).flatMap fun i =>
    let lo := p0 * bits / 8
    let hi := (k * bits + 7) / 8
    (rowsOf (rowAt base str i + lo) (hi - lo)).map fun r =>
      ⟨max (p0 / u) ((r.1 - rowAt base str i) * 8 / bits / u), r.1, r.2, false⟩

/-- What the rows of a command have given: the bytes of those read, and where the bytes of those written go. -/
structure Got where
  rows : List (Nat × List Byte) := []
  dsts : List (Nat × List Eff) := []

/-- Take one needed row: its bytes, or the places of its bytes. A row whose page is that of a declined miss stops (R285). -/
def State.takeRow (s : State) (w : Who) (declined : Option Miss) (n : Need) : State × Except AStop (List Byte × List Eff) :=
  let g : Agent := if n.write then .write else .read
  if (declined.map fun m => m.va / 4096) = some (n.va / 4096) then
    (s, match declined with
      | some m => .error (match m.sf with
        | some st => .shadow st n.va
        | none => .fault m.status n.va)
      | none => .ok ([], []))
  else if n.n = 0 then (s, .ok ([], []))
  else if padSize < n.va + n.n && !s.atHand w g n.va then (s, .error (.miss n.va))
  else if n.write then
    let (s, r) := s.writeRow w n.va (List.replicate n.n 0)
    (s, r.map fun e => ([], e))
  else
    let (s, r) := s.readRow w .read n.va n.n
    (s, r.map fun b => (b, []))

/-- Take needed rows in order, up to the first stop, which comes with its unit. -/
def State.takeRows (s : State) (w : Who) (declined : Option Miss) (got : Got) :
    List Need → State × Got × Option (Nat × AStop)
  | [] => (s, got, none)
  | n :: l =>
    match s.takeRow w declined n with
    | (s, .error e) => (s, got, some (n.unit, e))
    | (s, .ok (b, e)) =>
      s.takeRows w declined (if n.write then { got with dsts := got.dsts ++ [(n.va, e)] }
        else { got with rows := got.rows ++ [(n.va, b)] }) l

/-- Bytes from rows that have been read. -/
def bytesOf (rows : List (Nat × List Byte)) (va n : Nat) : List Byte :=
  let near := rows.filter fun r => meets r.1 r.2.length va n
  (upFrom va n).map fun a =>
    ((near.find? fun r => r.1 ≤ a && a < r.1 + r.2.length).map fun r => r.2.getD (a - r.1) 0).getD 0
/-- An effect that writes bytes, with other bytes. -/
def Eff.put (bs : List Byte) : Eff → Eff
  | .own a _ => .own a bs
  | .mem a _ => .mem a bs
  | .pad d t a _ => .pad d t a bs
  | e => e
/-- The writes of a run of bytes, by the places found for its rows. -/
def Got.write (g : Got) (va : Nat) (bs : List Byte) : List Eff :=
  (rowsOf va bs.length).flatMap fun p =>
    ((g.dsts.find? fun e => e.1 == p.1).map fun e => e.2.map (Eff.put ((bs.drop (p.1 - va)).take p.2))).getD []
/-- Elements p0 to p0 + n − 1 of a packed run of `bits` wide elements (R136), its bytes given by `rd`. -/
def runElems (rd : Nat → Nat → List Byte) (va bits p0 n : Nat) : List Nat :=
  let lo := p0 * bits / 8
  let hi := ((p0 + n) * bits + 7) / 8
  let x := leNat (rd (va + lo) (hi - lo)) / 2 ^ (p0 * bits % 8)
  (upFrom 0 n).map fun i => x / 2 ^ (bits * i) % 2 ^ bits

/-! ## Accumulator blocks -/

/-- The 256 elements of an I-block, as signed numbers. -/
def State.iBlock (s : State) (d t acc : Nat) : List Int :=
  (upFrom 0 256).map fun n => (bytesD (s.load (accKey d t (acc * 2048 + 8 * n)) 8)).toInt
/-- The 256 quire images of a Q-block. -/
def State.qBlock (s : State) (d t acc : Nat) : List Row :=
  (upFrom 0 256).map fun n => bytesRow (s.load (accKey d t (acc * 2048 + 64 * n)) 64)
/-- The bytes of S64 elements. -/
def iBytes (l : List Int) : List Byte := l.flatMap fun x => leBytes 8 (x % 2 ^ 64).toNat
/-- The bytes of quire images. -/
def qBytes (l : List Row) : List Byte := l.flatMap rowBytes

/-! ## mma (R212 to R214) -/

/-- Cut a list into pieces of u; `fuel` bounds their number. -/
def pieces {α : Type} (u : Nat) : Nat → List α → List (List α)
  | 0, _ => []
  | k + 1, l => if l.isEmpty then [] else l.take u :: pieces u k (l.drop u)

/-- Accumulate (R212): MODE 0 wraps to 32 bits, 1 clamps to 32 bits, 2 clamps to 64; true where it clamped. -/
def accumulate (mode : Nat) (x : Int) : Int × Bool :=
  if mode = 0 then ((BitVec.ofInt 32 x).toInt, false)
  else
    let w := if mode = 1 then 32 else 64
    let y := max (intMin w true) (min (intMax w true) x)
    (y, y != x)
/-- One integer element over its steps. -/
def mmaInt (mode : Nat) (c : Int) (steps : List Int) : Int × Bool :=
  steps.foldl (fun a x => let r := accumulate mode (a.1 + x); (r.1, a.2 || r.2)) (c, false)

/-- Exact sum of products. -/
def dotI (a b : List Int) : Int := ((a.zip b).map fun e => e.1 * e.2).sum

/-- MxTerm (R213) in units of 2^−240, with its flags; none where a scale is NaN. -/
def mxTerm (bits : Nat) (ma mb : List Nat) (xa xb : Nat) : Option (Int × Flags) :=
  if xa = 0xFF || xb = 0xFF then none
  else
    let x := dotI (ma.map (readI bits true)) (mb.map (readI bits true))
    let e : Int := (xa + xb : Nat) - 254 - 2 * ((bits : Int) - 2) + 240
    let (n, inex) := roundAt 0 (x < 0) x.natAbs (-e) false
    some (sgnI (x < 0) n, flagIf inex (fNX ||| fUF))

/-- What an mma reads and where it starts. -/
structure MmaJob where
  f : MmaF
  k : Nat
  p : Nat
  aes : Nat
  bes : Nat
  a : Nat
  astr : Nat
  b : Nat
  bstr : Nat
  acc : Nat

/-- The job of a committed mma. -/
def mmaJob (f : MmaF) (c : Cmd) : MmaJob :=
  let l := c.stg
  { f := f, k := sreg l 3 20 0, p := c.prog, aes := sreg l 4 1 0, bes := sreg l 4 3 2, a := sreg l 0 56 0,
    astr := sreg l 2 31 0, b := sreg l 1 56 0, bstr := sreg l 2 63 32, acc := sreg l 4 13 8 }
/-- Format, element width, step unit and number of steps. -/
def MmaJob.fmt (j : MmaJob) : Nat := j.f.fmt.toNat
/-- Step unit. -/
def MmaJob.u (j : MmaJob) : Nat := mmaU j.fmt
/-- Steps. -/
def MmaJob.n (j : MmaJob) : Nat := (j.k + j.u - 1) / j.u
/-- Rows that an mma needs, by progress unit; within a unit those of A come before those of B, in ascending order, and
the first that faults counts: DESIGN CHOICE (log 89). -/
def MmaJob.needs (j : MmaJob) : List Need :=
  let bits := mmaBits j.fmt
  sortBy (·.unit) (runNeeds j.a j.astr bits j.u (j.p * j.u) j.k ++ runNeeds j.b j.bstr bits j.u (j.p * j.u) j.k)

/-- Codes of operand rows for the steps p to q − 1, cut into steps. -/
def stepCodes (rd : Nat → Nat → List Byte) (j : MmaJob) (base str p q : Nat) : List (List (List Nat)) :=
  let n := min (j.u * q) j.k - j.u * p
  (upFrom 0 16).map fun i => pieces j.u (q - p) (runElems rd (rowAt base str i) (mmaBits j.fmt) (j.u * p) n)

/-- The effects of the steps p to q − 1 of an integer mma. -/
def State.mmaIntEff (s : State) (w : Who) (g : Got) (j : MmaJob) (q : Nat) : List Eff :=
  let rd (sg : Bool) := fun (l : List (List (List Nat))) => l.map fun r => r.map fun x => x.map (readI 8 sg)
  let as := rd j.f.asg (stepCodes (bytesOf g.rows) j j.a j.astr j.p q)
  let bs := rd j.f.bsg (stepCodes (bytesOf g.rows) j j.b j.bstr j.p q)
  let old := if j.f.zi && j.p == 0 then List.replicate 256 0 else s.iBlock w.die w.tile j.acc
  let pairs := as.flatMap fun a => bs.map fun b => (a.zip b).map fun e => dotI e.1 e.2
  let out := (old.zip pairs).map fun e => mmaInt j.f.mode.toNat e.1 e.2
  let sat := out.any (·.2)
  let mrs := (s.ctx w.die w.tile w.ctx).e.mrs
  .acc (j.acc * 2048) (iBytes (out.map (·.1)))
    :: ((if sat then [.msat true, .flags fST] else [])
      ++ if j.f.rs then
          [.mrs ((as.zip (upFrom 0 16)).map fun e =>
            mrs.get e.2 + BitVec.ofInt 64 (e.1.flatMap id).sum)]
        else [])

/-- The effects of the steps p to q − 1 of a tapered mma. -/
def State.mmaTapEff (s : State) (w : Who) (g : Got) (j : MmaJob) (q : Nat) : List Eff :=
  let bits := mmaBits j.fmt
  let dec (es : Nat) := fun (l : List (List (List Nat))) => l.map fun r => (r.flatMap id).map (decT bits es)
  let as := dec j.aes (stepCodes (bytesOf g.rows) j j.a j.astr j.p q)
  let bs := dec j.bes (stepCodes (bytesOf g.rows) j j.b j.bstr j.p q)
  let old := if j.f.zi && j.p == 0 then List.replicate 256 0 else s.qBlock w.die w.tile j.acc
  let out := (old.zip (as.flatMap fun a => bs.map fun b => (a, b))).map fun e =>
    quireSum false e.1 ((e.2.1.zip e.2.2).map fun p => tapProd p.1 p.2)
  [.acc (j.acc * 2048) (qBytes (out.map (·.1))), .flags (orFlags (out.map (·.2)))]

/-- One step g of an MXINT mma with the rows read so far and its two scale entries (R213, R236). -/
def State.mmaMxStep (s : State) (w : Who) (j : MmaJob) (rows : List (Nat × List Byte)) (g : Nat) (xa xb : BitVec 128) :
    List Eff :=
  let bits := mmaBits j.fmt
  let as := (stepCodes (bytesOf rows) j j.a j.astr g (g + 1)).map fun r => r.flatMap id
  let bs := (stepCodes (bytesOf rows) j j.b j.bstr g (g + 1)).map fun r => r.flatMap id
  let sc (x : BitVec 128) (i : Nat) : Nat := x.toNat / 2 ^ (8 * i) % 256
  let old := if j.f.zi && g == 0 then List.replicate 256 0 else s.qBlock w.die w.tile j.acc
  let ij := (upFrom 0 16).flatMap fun i => (upFrom 0 16).map fun k => (i, k)
  let out := (old.zip ij).map fun e =>
    match mxTerm bits (as.getD e.2.1 []) (bs.getD e.2.2 []) (sc xa e.2.1) (sc xb e.2.2) with
    | none => quireAdd true e.1 (.nan false)
    | some (n, fl) => let r := quireAddI e.1 n; (r.1, r.2 ||| fl)
  [.acc (j.acc * 2048) (qBytes (out.map (·.1))), .flags (orFlags (out.map (·.2)))]

/-! ## mload, mstore, mdrain, mzero -/

/-- The effects of mload for rows p to q − 1. -/
def mloadEff (g : Got) (f : MlsF) (c : Cmd) (q : Nat) : List Eff :=
  (upFrom c.prog (q - c.prog)).map fun i =>
    let bs := bytesOf g.rows (rowAt (sreg c.stg 0 56 0) (sreg c.stg 2 31 0) i) (mlsRow f)
    let acc := sreg c.stg 4 13 8
    if f.xf == 0 then
      .acc (accOff acc false i 0) (iBytes ((upFrom 0 16).map fun k => readI 32 true (leNat ((bs.drop (4 * k)).take 4))))
    else .acc (accOff acc (f.xf == 2) i 0) bs
/-- The effects of mstore for rows p to q − 1. -/
def State.mstoreEff (s : State) (w : Who) (g : Got) (f : MlsF) (c : Cmd) (q : Nat) : List Eff :=
  (upFrom c.prog (q - c.prog)).flatMap fun i =>
    let bs := s.load (accKey w.die w.tile (accOff (sreg c.stg 4 13 8) (f.xf == 2) i 0)) (mlsRow f)
    g.write (rowAt (sreg c.stg 0 56 0) (sreg c.stg 2 31 0) i) bs

/-- A clamp that sets ST (R219). -/
def clampST (w : Nat) (signed : Bool) (x : Int) : Nat × Flags :=
  fitI w signed true x
/-- RoundShift (R219), with NX where it discards a part that is not zero (R151). -/
def roundShift (x : Int) (n : Nat) : Int × Flags :=
  let r := roundAt 0 (x < 0) x.natAbs n false
  (sgnI (x < 0) r.1, flagIf r.2 fNX)
/-- A requantised element (R219): shifted, moved by the zero point, clamped. -/
def requant (signed : Bool) (x : Int) (n : Nat) (zo : Int) : Nat × Flags :=
  let t := roundShift x n
  let r := clampST 8 signed (t.1 + zo)
  (r.1, r.2 ||| t.2)

/-- What mdrain reads beside the block: column sums and the requantisation table. -/
structure DrainIn where
  cs : List Int
  mul : List Int
  sh : List Nat

/-- One element of an I-block drained (R219). -/
def drainI (f : MdrainF) (l : List DWord) (d : DrainIn) (mrs : DWord) (j : Nat) (c : Int) : Nat × Flags :=
  let za := readI 32 true (sreg l 5 31 0)
  let zb := readI 32 true (sreg l 5 63 32)
  let v := if f.zc then c - zb * mrs.toInt - za * d.cs.getD j 0 + (sreg l 3 20 0 : Int) * za * zb else c
  match f.ofmt.toNat with
  | 0 => clampST 32 true v
  | 1 => clampST 64 true v
  | 2 => requant true (v * d.mul.getD j 0) (31 + d.sh.getD j 0) (readI 8 true (sreg l 8 7 0))
  | 3 => requant false (v * d.mul.getD j 0) (31 + d.sh.getD j 0) (sreg l 8 7 0 : Int)
  | n => convVal false (drainFmt n (sreg l 4 5 4)) f.rm.toNat (Val.ofInt v)
/-- One element of a Q-block drained. -/
def drainQ (f : MdrainF) (l : List DWord) (c : Row) : Nat × Flags :=
  quireRound (drainFmt f.ofmt.toNat (sreg l 4 5 4)) f.rm.toNat c

/-- What mdrain reads. -/
def drainIn (g : Got) (f : MdrainF) (l : List DWord) : DrainIn :=
  let cs := if f.zc then bytesOf g.rows (sreg l 6 56 0) 64 else []
  let rq := if drainRq f.ofmt.toNat then bytesOf g.rows (sreg l 7 56 0) 128 else []
  { cs := (upFrom 0 16).map fun j => readI 32 true (leNat ((cs.drop (4 * j)).take 4))
    mul := (upFrom 0 16).map fun j => readI 32 true (leNat ((rq.drop (8 * j)).take 4))
    sh := (upFrom 0 16).map fun j => leNat ((rq.drop (8 * j + 4)).take 1) }
/-- The rows that mdrain needs: its tables before any output, then one output row per unit. -/
def drainNeeds (f : MdrainF) (c : Cmd) : List Need :=
  let l := c.stg
  let rd (va n : Nat) := (rowsOf va n).map fun r => (⟨c.prog, r.1, r.2, false⟩ : Need)
  (if f.zc then rd (sreg l 6 56 0) 64 else []) ++ (if drainRq f.ofmt.toNat then rd (sreg l 7 56 0) 128 else [])
    ++ (upFrom c.prog (16 - c.prog)).flatMap fun i =>
      (rowsOf (rowAt (sreg l 0 56 0) (sreg l 2 31 0) i) (drainRow f)).map fun r => ⟨i, r.1, r.2, true⟩
/-- The effects of mdrain for rows p to q − 1. -/
def State.drainEff (s : State) (w : Who) (g : Got) (f : MdrainF) (c : Cmd) (q : Nat) : List Eff :=
  let l := c.stg
  let d := drainIn g f l
  let acc := sreg l 4 13 8
  let mrs := (s.ctx w.die w.tile w.ctx).e.mrs
  let wid := (drainFmt f.ofmt.toNat 0).bits / 8
  (upFrom c.prog (q - c.prog)).flatMap fun i =>
    let out := if f.qs then ((s.qBlock w.die w.tile acc).drop (16 * i)).take 16 |>.map (drainQ f l)
      else (((s.iBlock w.die w.tile acc).drop (16 * i)).take 16).zip (upFrom 0 16) |>.map fun e =>
        drainI f l d (mrs.get i) e.2 e.1
    let bs := out.flatMap fun x => leBytes wid x.1
    g.write (rowAt (sreg l 0 56 0) (sreg l 2 31 0) i) bs
      ++ .flags (orFlags (out.map (·.2)))
      :: (if f.clr then [.acc (accOff acc f.qs i 0) (List.replicate (if f.qs then 1024 else 128) 0)] else [])

/-- The effects of mzero. -/
def mzeroEff (f : MzeroF) : List Eff :=
  (if f.blk then [.acc (f.bank.toNat * 2048) (List.replicate (if f.q then 16384 else 2048) 0)] else [])
    ++ (if f.rsc then [.mrs (List.replicate 16 0)] else []) ++ (if f.msc then [.msat false] else [])

/-! ## What a matrix command does when it starts -/

/-- The banks and MRS that a command uses, for the order of R221; none for another command. -/
def cmdUses (c : Cmd) : List Nat × Bool :=
  let acc := sreg c.stg 4 13 8
  match c.instr with
  | .mma f => (blockBanks acc (f.fmt != 0), f.rs)
  | .mzero f => (if f.blk then blockBanks f.bank.toNat f.q else [], f.rsc)
  | .mdrain f => (blockBanks acc f.qs, f.zc)
  | .mload f => (blockBanks acc (f.xf == 2), false)
  | .mstore f => (blockBanks acc (f.xf == 2), false)
  | _ => ([], false)
/-- The banks and MRS that a command changes. -/
def cmdChanges (c : Cmd) : List Nat × Bool :=
  match c.instr with
  | .mdrain f => (if f.clr then (cmdUses c).1 else [], false)
  | .mstore _ => ([], false)
  | _ => cmdUses c
/-- An earlier command changes a block or MRS that a later one uses (R221). MSAT is no part of this: where MZERO clears it
while an earlier command that clamps has not landed, it is set again, DESIGN CHOICE (log 88). -/
def cmdsMeet (a b : Cmd) : Bool :=
  let x := cmdChanges a
  let y := cmdUses b
  x.1.any (y.1.contains ·) || (x.2 && y.2)

/-- Rows a command needs, by unit. -/
def matrixNeeds (c : Cmd) : List Need :=
  let rows (n : Nat) (wr : Bool) := (upFrom c.prog (16 - c.prog)).flatMap fun i =>
    (rowsOf (rowAt (sreg c.stg 0 56 0) (sreg c.stg 2 31 0) i) n).map fun r => (⟨i, r.1, r.2, wr⟩ : Need)
  match c.instr with
  | .mma f => (mmaJob f c).needs
  | .mdrain f => drainNeeds f c
  | .mload f => rows (mlsRow f) false
  | .mstore f => rows (mlsRow f) true
  | _ => []
/-- Progress units of a command. -/
def matrixUnits (c : Cmd) : Nat :=
  match c.instr with
  | .mma f => (mmaJob f c).n
  | .mzero _ => 0
  | _ => 16
/-- Effects of the units up to q. An MXINT mma takes its steps one by one (R236). -/
def State.matrixEff (s : State) (w : Who) (g : Got) (c : Cmd) (q : Nat) : List Eff :=
  match c.instr with
  | .mma f =>
    let j := mmaJob f c
    if q ≤ c.prog || mmaMx j.fmt then [] else if j.fmt = 0 then s.mmaIntEff w g j q else s.mmaTapEff w g j q
  | .mzero f => mzeroEff f
  | .mdrain f => s.drainEff w g f c q
  | .mload f => mloadEff g f c q
  | .mstore f => s.mstoreEff w g f c q
  | _ => []

/-- The largest latency among addresses that an agent reads or writes (R276); 0 in the scratchpad. -/
def State.latency (s : State) (w : Who) (g : Agent) (l : List Nat) : Nat :=
  let timed := (s.car w.die w.tile).timed
  l.foldl (fun a va =>
    if va < padSize then a
    else match (s.reach w.die w.asid g va).2 with
      | .ok p => max a (if g = .read then s.readLat timed w.die w.tile p else s.writeLat timed w.die w.tile p)
      | .error _ => a) 0
/-- Busy and landing times (R223, R276), from the start. An mma grows by the largest read latency of its operands; for the
other commands, where R276 gives the latency of an access and not what grows, the landing time does: DESIGN CHOICE (log 16). -/
def State.matrixTimes (s : State) (w : Who) (c : Cmd) : Nat × Nat :=
  let needs := matrixNeeds c
  let rd := s.latency w .read ((needs.filter fun n => !n.write).map (·.va))
  let wr := s.latency w .write ((needs.filter (·.write)).map (·.va))
  match c.instr with
  | .mma f =>
    let j := mmaJob f c
    let n := (j.k - j.p * j.u + mmaG j.fmt - 1) / mmaG j.fmt
    (n + rd, n + rd + 16)
  | .mzero _ => (1, 2)
  | .mload _ => (16, 32 + rd)
  | _ => (16, 40 + rd + wr)
/-- Pipe of a miss (R284): 0 A, 1 B, 2 mload, 3 mdrain or mstore. -/
def missPipe (c : Cmd) (va : Nat) : Nat :=
  match c.instr with
  | .mma f =>
    let j := mmaJob f c
    if (runNeeds j.b j.bstr (mmaBits j.fmt) j.u (j.p * j.u) j.k).any (fun n => n.va == va) then 1 else 0
  | .mload _ => 2
  | _ => 3
/-- A table of mdrain has SH above 62 (R219). -/
def shBad (g : Got) (c : Cmd) : Bool :=
  match c.instr with
  | .mdrain f => (drainIn g f c.stg).sh.any fun x => 62 < x
  | _ => false

/-- The accumulator bytes that a command reads, each run with its unit: offset and length. -/
def accReads (c : Cmd) : List (Nat × Nat × Nat) :=
  let acc := sreg c.stg 4 13 8
  let rows (q : Bool) := (upFrom c.prog (16 - c.prog)).map fun i => (i, accOff acc q i 0, if q then 1024 else 128)
  match c.instr with
  | .mma f => if f.zi && c.prog == 0 then [] else [(c.prog, acc * 2048, if f.fmt != 0 then 16384 else 2048)]
  | .mdrain f => rows f.qs
  | .mstore f => rows (f.xf == 2)
  | _ => []
/-- Read accumulator memory: its soft errors are met (R447), and the unit of the first run that is poisoned (R451). -/
def State.takeAcc (s : State) (d t : Nat) (l : List (Nat × Nat × Nat)) : State × Option Nat :=
  let s := l.foldl (fun s e => s.meet d (accKey d t e.2.1) e.2.2) s
  (s, (l.find? fun e => s.poisoned (accKey d t e.2.1) e.2.2).map (·.1))

/-- The miss of a context at a tile that its handler has declined (R285). -/
def State.declinedMiss (s : State) (d t c : Nat) : Option Miss :=
  match (s.tile d t).miss with
  | some m => if m.declined && m.ctx == c then some m else none
  | none => none
/-- A row of a command misses: the tile is held (R283). Where both operands of an mma miss, both load pipes have a
translation outstanding (R385). -/
def State.startMiss (s : State) (d t c : Nat) (cmd : Cmd) (va : Nat) : State :=
  let w := s.who d t c
  let pipe := missPipe cmd va
  let other := (matrixNeeds cmd).find? fun n => pipe < 2 && missPipe cmd n.va != pipe && !s.streamHas w 2 n.va
  s.modTile d t fun x =>
    { x with
      miss := x.miss.orElse fun _ => some ⟨va, pipe == 3, pipe, c, s.now, 0, 0, 0, false, false, none⟩
      pipeB := x.pipeB.orElse fun _ => other.map fun n => (w.asid, n.va / 4096, s.now) }
/-- Start the first command of a context on the matrix engine, or raise a miss (R221 to R225, R283). What a fault leaves of
it is settled as it starts; it reads its operands in the next cycle (R222, log 7). MPROG is cleared: PROG, of which R225
says nothing once VALID is 0, with it, DESIGN CHOICE (log 106). -/
def State.matrixBegin (s : State) (d t c : Nat) (cmd : Cmd) : State :=
  let w := s.who d t c
  let declined := s.declinedMiss d t c
  let needs := matrixNeeds cmd
  if needs.any fun n => s.scrubbing w (if n.write then .write else .read) n.va then s
  else
  let (s, _, stop) := s.takeRows w declined {} needs
  let begin (s : State) (q : Nat) (trap : Option TrapInfo) : State :=
    let s := s.endHold d t c 8
    let (busy, done) := s.matrixTimes w cmd
    let s := s.startRun d t c cmd (s.clock d t + busy) (s.clock d t + done) [] trap q
    let s := s.modTile d t fun x =>
      { x.unpipe 2 with
        started := x.started + 1, miss := if declined.isSome then none else x.miss
        runs := x.runs.map fun r => if r.cmd.ord = cmd.ord then { r with fresh := true } else r }
    s.modCtx d t c fun x => { x with e := { x.e with mvalid := false, mprog := 0 } }
  match stop with
  | none => begin s (matrixUnits cmd) none
  | some (_, .miss va) => s.startMiss d t c cmd va
  | some (_, .tier false va) => s.holdAt d t c (s.tierKind d w.asid va)
  | some (u, e) => begin s u (some (e.info 0x47 cmd))
/-- A started command waits a cycle more: outside a timetable, where nothing else holds its tile's clock. -/
def State.runLater (s : State) (d t : Nat) (r : Run) : State :=
  if (s.car d t).timed then s
  else s.modTile d t fun x => x.putRun { r with start := r.start + 1, busy := r.busy + 1, done := r.done + 1 }
/-- A command that has started reads what its units need, and what it computes is settled (R211 to R220, R225, log 7). -/
def State.matrixRead (s : State) (d t : Nat) (r : Run) : State :=
  let w := s.who d t r.ctx
  let c := r.cmd
  let needs := if mmaMx (match c.instr with
      | .mma f => f.fmt.toNat
      | _ => 0) then [] else (matrixNeeds c).filter fun n => n.unit < r.prog || (!n.write && n.unit == c.prog)
  let declined := s.declinedMiss d t r.ctx
  let (s, g, stop) := s.takeRows w declined {} needs
  match stop with
  | some (_, .miss va) => s.startMiss d t r.ctx c va
  | some (_, .tier false va) => (s.holdAt d t r.ctx (s.tierKind d w.asid va)).runLater d t r
  | _ =>
    let s := s.endHold d t r.ctx 8
    let (q, trap) := match stop with
      | some (u, e) => (u, some (e.info 0x47 c))
      | none => (r.prog, r.trap)
    let (s, bad) := s.takeAcc d t ((accReads c).filter fun e => e.1 < q)
    let (q, trap) := match bad with
      | some u => (u, some (c.trapC 0xA0))
      | none => (q, trap)
    let (q, trap) := if shBad g c then (c.prog, some (c.trapC 0x0B)) else (q, trap)
    let eff := s.matrixEff w g c q
    s.modTile d t fun x =>
      { x.unpipe 2 with miss := if declined.isSome then none else x.miss }.putRun { r with fresh := false, prog := q, trap := trap, eff := eff }

/-! ## The rows of the matrix engine -/

/-- A run ends, unless one of its writes would reach a half to which a read is bound: hold kind 1, in timetabled mode
deviation: engine (R321). -/
def State.finishOr (s : State) (d t : Nat) (r : Run) : State :=
  if !s.effHeld d t r.eff then (s.unholdEng d t r.ctx).finishRun d t r
  else if (s.car d t).timed then s.finishRun d t { r with eff := [], trap := some (r.cmd.trapC 0x82) }
  else s.holdEng d t r.ctx

/-- A queue lacks an entry and some SQLD that would push to it, entered before a command, has not finished
(R236). -/
def State.sqldComing (s : State) (d t c ord : Nat) (b : Bool) : Bool :=
  let is (m : Cmd) : Bool := match m.instr with
    | .sqld f => f.qsel == b && m.ord < ord
    | _ => false
  ((s.ctx d t c).e.queue.any is) || ((s.tile d t).runs.any fun r => r.ctx == c && is r.cmd)

/-- Take the rows of one step of an MXINT mma, for the one read access that its steps are (R321). -/
def State.takeStep (s : State) (w : Who) (declined : Option Miss) (l : List Bound) (got : Got) :
    List Need → State × List Bound × Got × Option (Nat × AStop)
  | [] => (s, l, got, none)
  | n :: r =>
    match s.inHalves w n.va n.n l fun s => s.takeRow w declined n with
    | (s, l, .error e) => (s, l, got, some (n.unit, e))
    | (s, l, .ok (b, _)) => s.takeStep w declined l { got with rows := got.rows ++ [(n.va, b)] } r
/-- Take the steps of an MXINT mma that are due and whose entries are there (R236); `fuel` bounds them. Step g is due
⌊g U / G⌋ cycles after the cycle that follows the start, and pops its entries then: DESIGN CHOICE (log 102). -/
def State.pumpMx (s : State) (d t : Nat) : Nat → Run → State × Run
  | 0, r => (s, r)
  | k + 1, r =>
    match r.cmd.instr with
    | .mma f =>
      let j := mmaJob f r.cmd
      let g := r.cmd.prog
      let e := (s.ctx d t r.ctx).e
      let w := s.who d t r.ctx
      if r.prog ≤ g || s.clock d t < r.start + 1 + g * j.u / mmaG j.fmt || (s.tile d t).miss.any (fun m => !m.declined) then (s, r)
      else
      let needs := j.needs.filter fun n => n.unit == g && !r.rows.any fun y => y.1 == n.va
      let (s, b, got, stop) := s.takeStep w (s.declinedMiss d t r.ctx) r.bound {} needs
      match stop with
      | some (_, .miss va) => (s.startMiss d t r.ctx r.cmd va, r)
      | some (_, .tier false va) => (s.holdAt d t r.ctx (s.tierKind d w.asid va), r)
      | some (_, x) =>
        (s.modTile d t fun y => { y with miss := if (s.declinedMiss d t r.ctx).isSome then none else y.miss },
          { r with prog := g, trap := some (x.info 0x47 r.cmd), done := s.clock d t })
      | none =>
        let s := (s.endHold d t r.ctx 8).modTile d t fun x => x.unpipe 2
        let r := { r with rows := r.rows ++ got.rows, bound := b }
        let (s, bad) := s.takeAcc d t (accReads { r.cmd with prog := if j.f.zi && g == 0 then 0 else g + 1 })
        if bad.isSome then (s, { r with prog := g, trap := some (r.cmd.trapC 0xA0), done := s.clock d t }) else
        match e.sqA, e.sqB with
        | xa :: _, xb :: _ =>
          let eff := s.mmaMxStep w j r.rows g xa xb
          let s := s.applyEffs d t r.ctx (eff.filter (fun x => match x with
            | .acc .. => true
            | _ => false) ++ [.pop 1])
          let fl := eff.filter fun x => match x with
            | .flags _ => true
            | _ => false
          s.pumpMx d t k { r with
            cmd := { r.cmd with prog := g + 1 }
            eff := r.eff ++ fl
            done := max r.done (s.clock d t + 16) }
        | a, b =>
          let lackA := a.isEmpty && !s.sqldComing d t r.ctx r.cmd.ord false
          let lackB := b.isEmpty && !s.sqldComing d t r.ctx r.cmd.ord true
          if (s.car d t).timed then
            (s, { r with prog := g, trap := some (r.cmd.trapC 0x82), done := s.clock d t })
          else if lackA || lackB then
            (s, { r with prog := g, trap := some (r.cmd.trapC 0x64), done := s.clock d t })
          else (s.holdAt d t r.ctx 11, r)
    | _ => (s, r)

/-- The steps of the MXINT mma at a tile that are due. -/
def State.takeSteps (s : State) (d t : Nat) : State :=
  (((s.tile d t).runsOf 0).filter Run.steps).foldl (fun s r =>
    let (s', r') := s.pumpMx d t 64 r
    let s' := if r'.cmd.prog = r.cmd.prog then s' else s'.unhold d t r.ctx 11
    s'.modTile d t fun x => x.putRun r') s
/-- The operands of the commands at a tile that have started are read. -/
def State.readFresh (s : State) (d t : Nat) : State :=
  (((s.tile d t).runsOf 0).filter fun r => r.fresh && r.start + 1 ≤ s.clock d t
    && (s.tile d t).miss.all (·.declined)).foldl (fun s r => s.matrixRead d t r) s
/-- MATRIX_COMMAND_START (R221): started commands read and take their steps; the holder's first command starts, if the engine is free, its header is old
enough, and no unfinished command of the context meets it. -/
def execMatrixCommandStart (die tile : Nat) (s : State) : Host.Outcome State Fault Refusal :=
  let s := (s.readFresh die tile).takeSteps die tile
  let x := s.tile die tile
  let runs := x.runsOf 0
  let go : Option (Nat × Cmd) := do
    let h ← x.holder
    let c := s.ctx die tile h
    let cmd ← c.e.head? 0
    if c.mayGo cmd && c.lease == 2 && s.mayStartMore die tile && s.ripe die tile cmd
        && runs.all (fun r => r.busy ≤ s.clock die tile && !r.steps && !(r.ctx == h && r.trap.isSome))
        && !runs.any (fun r => r.ctx == h && cmdsMeet r.cmd cmd)
        && (x.miss.map (·.declined)) != some false then some (h, cmd) else none
  .next (match go with
    | some (h, cmd) => s.matrixBegin die tile h cmd
    | none => s)

/-- MATRIX_COMMAND_COMPLETE (R223, R225): a run whose effects are due ends. -/
def execMatrixCommandComplete (die tile : Nat) (s : State) : Host.Outcome State Fault Refusal :=
  .next ((((s.tile die tile).runsOf 0).filter fun r => !r.steps && !r.fresh && r.done ≤ s.clock die tile).foldl
    (fun s r => s.finishOr die tile r) s)

end Sys2Proof.Machine
end

