-- ==== Sys2Proof/Machine/Allot.lean ====
section
/-! DEFINITION. Allotment, accumulator banks, parking, and the matrix lease (R254 to R263). Operands are read at the
lead; every tile applies the lead's decision. -/

namespace Sys2Proof.Machine

/-! ## Main-file granules (R255, R256) -/

/-- Logical granules of a mask. -/
def granBits (m : Nat) : List Nat := (upFrom 0 16).filter fun g => m.testBit g
/-- Granules of a mask that a context does not hold. -/
def Ctx.newGran (c : Ctx) (m : Nat) : List Nat := (granBits m).filter fun g => (c.gran.find? g).isNone
/-- Physical granules in the order in which an ALLOT takes them: the free ones first, lowest first. -/
def State.granOrder (s : State) (d t : Nat) : List Nat :=
  let used := s.usedGran d t
  let free := s.freeGran d t
  free ++ (upFrom 0 16).filter fun g => !used.contains g && !free.contains g
/-- Give granules to a context of a tile (R249, R255). -/
def State.giveGran (s : State) (d t c : Nat) (l : List Nat) : State :=
  l.foldl (fun s g =>
    let p := (s.granOrder d t).headD 0
    s.modCtx d t c fun x => { x with gran := x.gran.set g p }) s
/-- Granules that the clear engine still owes at a tile clock (R255). -/
def Tile.owed (t : Tile) (now : Nat) : Nat := (t.clearAt - now + 15) / 16

/-- Decision of ALLOT (R421): the mask in bits 15:0, failure in bit 16. -/
def decAllot (by' : BitVec 6) (s : State) : Decision :=
  let m := fld (s.rs by') 15 0
  let n := s.fctx.newGran m
  let v := if n.length ≤ (s.freeGran s.focus.die s.focus.tile).length then
      s.fctx.vgmask + (n.map fun g => 2 ^ g).sum
    else s.fctx.vgmask + 2 ^ 16
  { (default : Decision) with res := some v }
/-- allot (R255): lowest free physical granules; the new registers are zero once the clear engine's writes land. -/
def semAllot (bx by' : BitVec 6) (s : State) : SlotRes :=
  let r := ((s.decOf (decAllot by' s)).res).getD 0
  if r.testBit 16 then .ok (s.ws bx (BitVec.ofNat 64 (r % 2 ^ 16 + 2 ^ 63)) 2)
  else
    let f := s.focus
    let n := s.fctx.newGran (r % 2 ^ 16)
    let owed := s.ftile.owed s.t
    let bound := 2 + 16 * (n.length + owed)
    let s := (s.giveGran f.die f.tile f.ctx n).modFT fun t =>
      if n.isEmpty then t else { t with clearAt := s.t + 16 * (n.length + owed) }
    let s := (n.flatMap fun g => upFrom (8 * g) 8).foldl (fun s v => s.wv v (BitVec.allOnes 8192) 0 bound) s
    .ok (s.ws bx (BitVec.ofNat 64 (r % 2 ^ 16)) 2)
/-- ALLOT by itself. -/
def execAllot (bx by' : BitVec 6) (s : State) : Host.Outcome State Fault Refusal := finish s (semAllot bx by' s)

/-- Decision of SHRINK: the mask read at the lead. -/
def decShrink (by' : BitVec 6) (s : State) : Decision := { (default : Decision) with val := s.rs by' }
/-- shrink (R256): writes in flight to the released registers are dropped; their granules are free at issue + 32. -/
def semShrink (by' : BitVec 6) (s : State) : SlotRes :=
  let m := fld (s.decOf (decShrink by' s)).val 15 0
  let l := (granBits m).filter fun g => (s.fctx.gran.find? g).isSome
  let due := l.map fun g => (s.fctx.gran.get g, s.now + 32)
  let s := s.modF fun c =>
    { c with
      gran := l.foldl (fun (m : FMap Nat) g => m.erase g) c.gran
      r := { c.r with vW := c.r.vW.filter fun w => !l.contains (w.reg / 8) } }
  .ok (s.modFT fun t => { t with granDue := t.granDue ++ due })
/-- SHRINK by itself. -/
def execShrink (by' : BitVec 6) (s : State) : Host.Outcome State Fault Refusal := finish s (semShrink by' s)

/-- GRANULE_RELEASE (R256): released granules whose cycle has come are free. -/
def execGranuleRelease (die tile : Nat) (s : State) : Host.Outcome State Fault Refusal :=
  .next (s.modTile die tile fun t => { t with granDue := t.granDue.filter fun e => s.now < e.2 })

/-! ## Accumulator banks (R257, R258) -/

/-- A run of banks as bits. -/
def bankRun (h n : Nat) : BitVec 64 := BitVec.ofNat 64 ((2 ^ n - 1) * 2 ^ h)
/-- The lowest run of n free banks; a multiple of 8 under balloc.q (R257). -/
def State.bankFind (s : State) (q : Bool) (n : Nat) : Option Nat :=
  let b := s.banksHeld s.focus.die s.focus.tile
  let p := s.parksHeld s.focus.die s.focus.tile
  (upFrom 0 64).find? fun h =>
    h + n ≤ 64 && (!q || h % 8 == 0) && (upFrom h n).all fun i => bankFree b p i
/-- Decision of BALLOC (R421): the handle in bits 5:0, failure in bit 16. -/
def decBalloc (q : Bool) (n : BitVec 7) (s : State) : Decision :=
  { (default : Decision) with res := some ((s.bankFind q n.toNat).getD (2 ^ 16)) }
/-- balloc (R257): the banks read as zero to every command that starts later. -/
def semBalloc (bx : BitVec 6) (q : Bool) (n : BitVec 7) (s : State) : SlotRes := do
  trapIf (s.fctx.bbud < popCount s.fctx.banks.toNat 64 + n.toNat) 0x8C 3
  let r := ((s.decOf (decBalloc q n s)).res).getD 0
  if r.testBit 16 then .ok (s.ws bx (BitVec.allOnes 64) 2)
  else
    let h := r % 64
    let f := s.focus
    let s := s.modF fun c => { c with banks := c.banks ||| bankRun h n.toNat }
    let k := accKey f.die f.tile (2048 * h)
    let s := { s.cleanUnits (fun u => k ≤ 64 * u && 64 * u < k + 2048 * n.toNat) with mem := s.mem.zero k (2048 * n.toNat) }
    .ok (s.ws bx (BitVec.ofNat 64 h) 2)
/-- BALLOC by itself. -/
def execBalloc (bx : BitVec 6) (q : Bool) (n : BitVec 7) (s : State) : Host.Outcome State Fault Refusal :=
  finish s (semBalloc bx q n s)

/-- A matrix command of the context in focus, from before this bundle, that names a bank of a run. -/
def State.bankBusy (s : State) (h n : Nat) : Bool :=
  let names (c : Cmd) : Bool := c.eng == 0 && c.at' < s.t && (cmdUses c).1.any fun b => h ≤ b && b < h + n
  s.fctx.e.queue.any names || s.ftile.runs.any fun r => r.ctx == s.focus.ctx && names r.cmd
/-- Decision of BFREE: the handle read at the lead. -/
def decBfree (bx : BitVec 6) (s : State) : Decision := { (default : Decision) with val := s.rs bx }
/-- bfree (R258): holds until the matrix commands that name the banks have finished. -/
def semBfree (bx : BitVec 6) (n : BitVec 7) (s : State) : SlotRes := do
  let v := (s.decOf (decBfree bx s)).val.toNat
  trapIf (64 < v + n.toNat) 0x8B 3 (v % 64)
  match (upFrom v n.toNat).find? fun b => !s.fctx.banks.getLsbD b with
  | some b => trapB 0x8B 3 b
  | none =>
    if s.bankBusy v n.toNat then s.holdOr 5 0x81 3 5
    else .ok (s.modF fun c => { c with banks := c.banks &&& ~~~(bankRun v n.toNat) })
/-- BFREE by itself. -/
def execBfree (bx : BitVec 6) (n : BitVec 7) (s : State) : Host.Outcome State Fault Refusal :=
  finish s (semBfree bx n s)

/-! ## Parking (R259) -/

/-- Decision of VPARK (R421): the slot in bits 6:0, failure in bit 16. -/
def decVpark (s : State) : Decision :=
  let b := s.banksHeld s.focus.die s.focus.tile
  let p := s.parksHeld s.focus.die s.focus.tile
  { (default : Decision) with res := some (((upFrom 0 128).find? (slotFree b p)).getD (2 ^ 16)) }
/-- vpark: the register's value goes to the slot; the register becomes unspecified from the next cycle. -/
def semVpark (bx : BitVec 6) (n : BitVec 7) (s : State) : SlotRes :=
  let r := ((s.decOf (decVpark s)).res).getD 0
  if r.testBit 16 then .ok (s.ws bx (BitVec.allOnes 64) 2)
  else
    let h := r % 128
    let f := s.focus
    let v := physV s.fctx.r.voff n.toNat
    let (s, x) := s.takeV v 16
    let s := s.store (accKey f.die f.tile (1024 * h)) (leBytes 1024 x.toNat)
    let s := s.modF fun c => { c with parks := c.parks ||| BitVec.ofNat 128 (2 ^ h) }
    .ok ((s.killV v).ws bx (BitVec.ofNat 64 h) 2)
/-- VPARK by itself. -/
def execVpark (bx : BitVec 6) (n : BitVec 7) (s : State) : Host.Outcome State Fault Refusal :=
  finish s (semVpark bx n s)

/-- Decision of VUNPARK: the slot read at the lead. -/
def decVunpark (bx : BitVec 6) (s : State) : Decision := { (default : Decision) with val := s.rs bx }
/-- vunpark: the register takes the slot's contents, bound 8; the slot is free. -/
def semVunpark (bx : BitVec 6) (n : BitVec 7) (s : State) : SlotRes := do
  let h := (s.decOf (decVunpark bx s)).val.toNat
  trapIf (128 ≤ h || !s.fctx.parks.getLsbD h) 0x8D 3
  let f := s.focus
  let k := accKey f.die f.tile (1024 * h)
  let (s, x) := s.rowsTake k 16 (BitVec.ofNat 8192 (leNat (s.load k 1024)))
  let s := s.modF fun c => { c with parks := c.parks &&& ~~~(BitVec.ofNat 128 (2 ^ h)) }
  .ok (s.wv (physV s.fctx.r.voff n.toNat) (BitVec.allOnes 8192) x 8)
/-- VUNPARK by itself. -/
def execVunpark (bx : BitVec 6) (n : BitVec 7) (s : State) : Host.Outcome State Fault Refusal :=
  finish s (semVunpark bx n s)

/-! ## The matrix lease (R261, R262) -/

/-- mlease: none becomes requested. -/
def semMlease (s : State) : SlotRes :=
  .ok (s.modF fun c => { c with lease := if c.lease = 0 then 1 else c.lease })
/-- MLEASE by itself. -/
def execMlease (s : State) : Host.Outcome State Fault Refusal := finish s (semMlease s)

/-- A context gives up the lease of a tile (R121, R261). -/
def State.dropLease (s : State) (d t c : Nat) : State :=
  (s.modCtx d t c fun x => { x with lease := 0 }).modTile d t fun x =>
    if x.holder == some c then { x with holder := none, lastHolder := some c } else x
/-- mrelease: holds until every matrix command entered before it has started. -/
def semMrelease (s : State) : SlotRes :=
  if s.fctx.e.queue.any fun c => c.eng == 0 && c.at' < s.t then s.holdOr 5 0x81 3 5
  else .ok (s.dropLease s.focus.die s.focus.tile s.focus.ctx)
/-- MRELEASE by itself. -/
def execMrelease (s : State) : Host.Outcome State Fault Refusal := finish s (semMrelease s)

/-- Contexts of a tile whose lease is requested. -/
def State.leaseAsked (s : State) (d t : Nat) : List Nat :=
  (s.ctxNums d t).filter fun c => (s.ctx d t c).lease == 1
/-- The holder's turn is over (R262): LEASE commands started, or none left unstarted; in replay the recorded count
of starts (R463). -/
def State.turnOver (s : State) (d t h : Nat) : Bool :=
  let n := (s.tile d t).started
  if s.replaying d t then (s.replayNext d (tileEntry 1 t)).any fun e => (s.rentry d e 2).toNat ≤ n
  else (s.car d t).lease ≤ n || !(s.ctx d t h).e.queue.any fun c => c.eng == 0
/-- The holder passes the lease where a rival waits (R262). -/
def State.leasePass (s : State) (d t : Nat) : State :=
  let x := s.tile d t
  match x.holder with
  | none => s
  | some h =>
    if (s.leaseAsked d t).isEmpty then s
    else if s.turnOver d t h then
      (s.modCtx d t h fun c => { c with lease := 1 }).modTile d t fun x =>
        { x with holder := none, lastHolder := some h }
    else s
/-- The first requested context after the last holder (R262); in replay the recorded one (R463). -/
def State.leaseNext (s : State) (d t : Nat) : Option (Nat × Option Nat) :=
  let n := (s.car d t).nctx
  let first := ((s.tile d t).lastHolder.getD (n - 1)) + 1
  if s.replaying d t then
    match s.replayNext d (tileEntry 1 t) with
    | some e =>
      let c := fld (s.rentry d e 0) 59 58
      if (s.leaseAsked d t).contains c then some (c, some e) else none
    | none => none
  else (((upFrom 0 n).map fun i => (first + i) % n).find? fun c => (s.leaseAsked d t).contains c).map fun c => (c, none)
/-- LEASE_DECISION (R262): made whenever the engine could start a command. -/
def execLeaseDecision (die tile : Nat) (s : State) : Host.Outcome State Fault Refusal :=
  .next (
    if ((s.tile die tile).runsOf 0).any fun r => s.clock die tile < r.busy || r.steps then s
    else
      let before := (s.tile die tile).started
      let s := s.leasePass die tile
      if (s.tile die tile).holder.isSome then s
      else match s.leaseNext die tile with
        | none => s
        | some (c, e) =>
          let s := (s.modCtx die tile c fun x => { x with lease := 2 }).modTile die tile fun x =>
            { x with holder := some c, started := 0 }
          match e with
          | some n => s.ruse die n
          | none => s.journal die tile c 1 before 0)

end Sys2Proof.Machine
end

