-- ==== Sys2Proof/Machine/Barrier.lean ====
section
/-! DEFINITION. Barriers (R264 to R267). -/

namespace Sys2Proof.Machine

/-- SCOPE of a descriptor (R265). -/
def barScope (v : DWord) : Nat := fld v 63 62
/-- CTXM. -/
def barCtxm (v : DWord) : Nat := fld v 59 56
/-- The rectangle: row, column, height, width. -/
def barRect (v : DWord) : Nat × Nat × Nat × Nat := (fld v 55 52, fld v 51 47, fld v 46 43 + 1, fld v 42 38 + 1)
/-- Tiles of a rectangle in row-major order. -/
def rectTiles (r : Nat × Nat × Nat × Nat) : List Nat :=
  (upFrom r.1 r.2.2.1).flatMap fun i => (upFrom r.2.1 r.2.2.2).map fun j => 32 * i + j
/-- The participating tiles (R265). -/
def State.barTiles (s : State) (d t : Nat) (v : DWord) : List Nat :=
  match barScope v with
  | 0 => [t]
  | 1 => (s.car d t).tiles
  | _ => rectTiles (barRect v)
/-- The descriptor is invalid at a tile (R265). -/
def State.barBad (s : State) (d t : Nat) (v : DWord) : Bool :=
  let c := s.car d t
  let r := barRect v
  let ts := rectTiles r
  barScope v == 3 || fld v 61 60 != 0 || fld v 37 0 != 0 || barCtxm v == 0 || 2 ^ c.nctx ≤ barCtxm v
    || (barScope v == 2 && (16 < r.1 + r.2.2.1 || 32 < r.2.1 + r.2.2.2 || !c.tiles.all (ts.contains ·)
      || ts.any fun x => (s.tile d x).occ.isNone || (s.car d x).wb != c.wb))

/-- A context has arrived in the current phase. An arrival counts for this from the issue of its BAR on, though its
cycle is still to come: DESIGN CHOICE (log 85). -/
def Bar.arrived (b : Bar) (c : Nat) : Bool := (b.arr.find? c).any fun e => e.1 == b.phase + 1
/-- Some context has. -/
def Bar.anyArrived (b : Bar) : Bool := b.arr.any fun e => e.2.1 == b.phase + 1

/-- Decision of BARCFG: the descriptor read at the lead. -/
def decBarcfg (bx : BitVec 6) (s : State) : Decision := { (default : Decision) with val := s.rs bx }
/-- barcfg (R265): an equal descriptor changes nothing; otherwise phase and arrivals are cleared. -/
def semBarcfg (bx : BitVec 6) (b : BitVec 7) (s : State) : SlotRes := do
  let f := s.focus
  let v := (s.decOf (decBarcfg bx s)).val
  let x := s.ftile.bars.get b.toNat
  trapIf (s.barBad f.die f.tile v) 0x8F 3
  if x.cfg == some v then .ok s
  else do
    trapIf x.anyArrived 0x90 3
    .ok (s.modFT fun t => { t with bars := t.bars.set b.toNat ⟨some v, 0, [], none⟩ })
/-- BARCFG by itself. -/
def execBarcfg (bx : BitVec 6) (b : BitVec 7) (s : State) : Host.Outcome State Fault Refusal :=
  finish s (semBarcfg bx b s)

/-- The barrier with its descriptor, or barrier not configured (R266). -/
def State.barCfg (s : State) (b : Nat) : Try DWord :=
  match (s.ftile.bars.get b).cfg with
  | some v => .ok v
  | none => trapB 0x91 3
/-- bar (R266): arrival at issue + 2, or in the cycle after the last scratchpad access of the context performs. -/
def semBar (b : BitVec 7) (s : State) : SlotRes := do
  let v ← s.barCfg b.toNat
  let c := s.focus.ctx
  let x := s.ftile.bars.get b.toNat
  trapIf (!(barCtxm v).testBit c || x.arrived c) 0x92 3
  let at' := if s.fctx.acc ≤ s.t + 2 then s.now + 2 else s.now + (s.fctx.acc + 1 - s.t)
  .ok (s.modFT fun t => { t with bars := t.bars.set b.toNat { x with arr := x.arr.set c (x.phase + 1, at') } })
/-- BAR by itself. -/
def execBar (b : BitVec 7) (s : State) : Host.Outcome State Fault Refusal := finish s (semBar b s)

/-- Phases completed and the number of the phase in which the context last arrived, for BARW and BARTST. -/
def State.barPhase (s : State) (b : Nat) : Try (Nat × Nat) := do
  let _ ← s.barCfg b
  let x := s.ftile.bars.get b
  match x.arr.find? s.focus.ctx with
  | some e => .ok (x.phase, e.1)
  | none => trapB 0x92 3
/-- barw: holds until the phase of the last arrival has completed at this tile. -/
def semBarw (b : BitVec 7) (s : State) : SlotRes := do
  let p ← s.barPhase b.toNat
  if p.2 ≤ p.1 then .ok s else s.holdOr 4 0x81 3 4
/-- BARW by itself. -/
def execBarw (b : BitVec 7) (s : State) : Host.Outcome State Fault Refusal := finish s (semBarw b s)

/-- bartst: whether that phase has completed; readable two cycles later (R264). -/
def semBartst (bp : BitVec 4) (b : BitVec 7) (s : State) : SlotRes := do
  let p ← s.barPhase b.toNat
  .ok (s.wp bp (p.2 ≤ p.1) 1)
/-- BARTST by itself. -/
def execBartst (bp : BitVec 4) (b : BitVec 7) (s : State) : Host.Outcome State Fault Refusal :=
  finish s (semBartst bp b s)

/-- The participants' arrivals in the current phase of their tiles: none while one is missing, else the last of their
cycles. Every participating tile must have the same descriptor (R267); one that is about to see the completion of a phase has
no arrival in the next. -/
def State.barLast (s : State) (d t b : Nat) : Option Nat :=
  let x := (s.tile d t).bars.get b
  match x.cfg with
  | none => none
  | some v =>
    let all := (s.barTiles d t v).flatMap fun u =>
      ((upFrom 0 4).filter fun c => (barCtxm v).testBit c).map fun c => (u, c)
    all.foldl (fun (a : Option Nat) (e : Nat × Nat) =>
      let y := (s.tile d e.1).bars.get b
      match a, y.arr.find? e.2 with
      | some m, some r =>
        if y.cfg != some v || y.shows.isSome || r.1 ≠ y.phase + 1 || s.now < r.2 then none else some (max m r.2)
      | _, _ => none) (some 0)
/-- The latest delay from the last arrival to the completion (R266). -/
def State.barBound (s : State) (d t : Nat) (v : DWord) : Nat :=
  match barScope v with
  | 0 => 1
  | 1 => let c := s.car d t; 2 * (c.h + c.w)
  | _ => 96
/-- The cycle in which a tile sees the completion: the latest in timetabled mode, else one within the bound, which
the part chooses for each tile (log 4). -/
def State.barWhen (s : State) (d t b last : Nat) (v : DWord) : Nat :=
  let n := s.barBound d t v
  if (s.car d t).timed then last + n else last + 1 + Config.freeNat 10 ((last * 2048 + tileKey d t) * 64 + b) % n
/-- BARRIER_COMPLETE (R266): in the cycle of the last arrival every participating tile learns when it will see the
completion, whatever the other tiles do then; in that cycle the phase flips and every arrival bit clears here. -/
def execBarrierComplete (die tile b : Nat) (s : State) : Host.Outcome State Fault Refusal :=
  let x := (s.tile die tile).bars.get b
  let mod (s : State) (u : Nat) (f : Bar → Bar) : State := s.modTile die u fun t => { t with bars := t.bars.modify b f }
  .next (match x.shows with
    | some n => if n ≤ s.now then mod s tile fun y => { y with phase := y.phase + 1, shows := none } else s
    | none => match s.barLast die tile b, x.cfg with
      | some last, some v => (s.barTiles die tile v).foldl (fun s u =>
          mod s u fun y => { y with shows := some (s.barWhen die u b last v) }) s
      | _, _ => s)

end Sys2Proof.Machine
end

