-- ==== Sys2Proof/Machine/Quant.lean ====
section
/-! DEFINITION. The quantisation engine: quant, dequant, sqld and sqclr, at commit and in the engine
(R226 to R240). -/

namespace Sys2Proof.Machine

/-! ## Block formats (R227) -/

/-- Width in bits of an element code. -/
def efBits (ef : Nat) : Nat :=
  match ef with
  | 0 => 4 | 1 => 6 | 2 => 8 | 3 => 8 | 4 => 8 | 5 => 6 | 6 => 6 | _ => 4
/-- EMAX. -/
def efMax (ef : Nat) : Int :=
  match ef with
  | 3 => 15 | 4 => 8 | 5 => 4 | 6 => 2 | 7 => 2 | _ => 0
/-- The format of the codes of EF 3 to 7. -/
def efFmt (ef : Nat) : Fmt := xFmt (ef - 3)

/-- The geometry of a command (R228, R229). -/
structure QGeo where
  src : Nat
  dst : Nat
  sca : Nat
  sstr : Nat
  dstr : Nat
  gstr : Nat
  es : Nat
  rows : Nat
  cols : Nat

/-- The geometry that staging registers give. -/
def qGeo (l : List DWord) : QGeo :=
  { src := sreg l 0 18 0, dst := sreg l 1 18 0, sca := sreg l 2 18 0, dstr := sreg l 3 63 32,
    sstr := sreg l 3 31 0, gstr := sreg l 4 31 0, es := sreg l 5 33 32, cols := sreg l 5 31 16,
    rows := sreg l 5 15 0 }
/-- Address of the scale of block b of row i (R228). -/
def QGeo.scale (g : QGeo) (i b : Nat) : Nat := g.sca + i / 16 * g.gstr + 16 * b + i % 16

/-! ## Commit checks (R232) -/

/-- Reserved fields, ROWS and COLS. -/
def quantBad (l : List DWord) : Bool :=
  let g := qGeo l
  sreg l 0 63 19 != 0 || sreg l 1 63 19 != 0 || sreg l 2 63 19 != 0 || sreg l 4 63 32 != 0
    || sreg l 5 63 34 != 0 || g.rows < 16 || 4096 < g.rows || g.cols < 32 || 32768 < g.cols
/-- Scale layout invalid (R228). -/
def QGeo.badLayout (g : QGeo) : Bool :=
  g.rows % 16 != 0 || g.cols % 32 != 0 || g.sca % 64 != 0 || g.gstr % 64 != 0
    || (16 < g.rows && g.gstr < 16 * (g.cols / 32))
/-- The first byte outside the scratchpad among rows of n bytes. -/
def outsideAt (base str rows n : Nat) : Option Nat :=
  ((upFrom 0 rows).find? fun i => padSize < base + i * str + n).map fun i => max (base + i * str) padSize
/-- The checks of quant and dequant on their accesses: strides, for which the address is 0, DESIGN CHOICE (log 105), then
the first byte outside. -/
def QGeo.outside (g : QGeo) (inBits outBits : Nat) : Option Nat :=
  if g.sstr % 64 != 0 || g.dstr % 64 != 0 then some 0
  else
    ((outsideAt g.src g.sstr g.rows (g.cols * inBits / 8)).orElse fun _ =>
      outsideAt g.dst g.dstr g.rows (g.cols * outBits / 8)).orElse fun _ =>
      outsideAt g.sca g.gstr (g.rows / 16) (16 * (g.cols / 32))
/-- Bits of a tensor element by TY. -/
def tyBits (ty : Nat) : Nat := (tyFmt ty 0).bits

/-- The checks of quant and dequant in the order of R232. -/
def State.quantCheck (s : State) (l : List DWord) (ty inBits outBits tag : Nat) : Try Unit := do
  let g := qGeo l
  s.hIf (quantBad l) 0x0C 2
  s.hIf (ty == 8 && g.es == 3) 0x21 2
  s.hIf g.badLayout 0x22 2
  match g.outside inBits outBits with
  | some a => s.trapH 0x45 2 0 a
  | none => .ok ()
  s.tagH 2 tag

/-- quant (R230). -/
def semQuant (f : QuantF) (s : State) : SlotRes := do
  s.mayCommit 2 (some f.setx)
  let l := s.stgCopy 2
  s.quantCheck l f.f2.toNat (tyBits f.f2.toNat) (efBits f.f1.toNat) f.tag.toNat
  .ok ((s.enter 2 (.quant f) true l).tagOut f.tag.toNat)
/-- QUANT by itself. -/
def execQuant (f : QuantF) (s : State) : Host.Outcome State Fault Refusal := finish s (semQuant f s)

/-- dequant (R230). -/
def semDequant (f : QuantF) (s : State) : SlotRes := do
  s.mayCommit 2 (some f.setx)
  let l := s.stgCopy 2
  s.quantCheck l f.f2.toNat (efBits f.f1.toNat) (tyBits f.f2.toNat) f.tag.toNat
  .ok ((s.enter 2 (.dequant f) true l).tagOut f.tag.toNat)
/-- DEQUANT by itself. -/
def execDequant (f : QuantF) (s : State) : Host.Outcome State Fault Refusal := finish s (semDequant f s)

/-- sqld (R234). -/
def semSqld (f : SqldF) (s : State) : SlotRes := do
  s.mayCommit 2 (some f.setx)
  let l := s.stgCopy 2
  let src := sreg l 0 18 0
  s.hIf (sreg l 0 63 19 != 0) 0x0C 2
  s.hIf (src % 64 != 0) 0x22 2
  s.hIf (padSize < src + 16 * (f.nm1.toNat + 1)) 0x45 2 0 (max src padSize)
  .ok (s.enter 2 (.sqld f) true l)
/-- SQLD by itself. -/
def execSqld (f : SqldF) (s : State) : Host.Outcome State Fault Refusal := finish s (semSqld f s)

/-- sqclr (R235). -/
def semSqclr (f : SqclrF) (s : State) : SlotRes := do
  s.mayCommit 2 none
  .ok (s.enter 2 (.sqclr f) false [])
/-- SQCLR by itself. -/
def execSqclr (f : SqclrF) (s : State) : Host.Outcome State Fault Refusal := finish s (semSqclr f s)

/-! ## What quant and dequant compute (R231) -/

/-- floor(log2 |x|) of a number that is not zero. -/
def Val.log2 : Val → Int
  | .fin _ m e => (bitLen m : Int) - 1 + e
  | _ => 0

/-- One code of a quantised block with scale X. -/
def quantCode (srcT : Bool) (ef rm x : Nat) (v : Val) : Nat × Flags :=
  match v with
  | .fin n m e =>
    let e' := e - ((x : Int) - 127)
    if ef < 3 then
      let w := efBits ef
      let (q, inex) := roundAt rm n m (-(e' + (w : Int) - 2)) false
      let top := 2 ^ (w - 1) - 1
      let q' := min q top
      ((sgnI n q' % 2 ^ w).toNat, flagIf inex fNX ||| flagIf (top < q) fST)
    else convVal srcT (efFmt ef) rm (.fin n m e')
  | _ => (0, 0)
/-- A block of 32 values: its scale, its codes, its flags. -/
def quantBlock (srcT : Bool) (ef rm : Nat) (l : List Val) : Nat × List Nat × Flags :=
  if l.any fun v => v.isNan || v.isInf then (0xFF, l.map fun _ => 0, fNV)
  else
    let nz := l.filter fun v => !v.isZero
    match nz.map Val.log2 with
    | [] => (0, l.map fun _ => 0, 0)
    | a :: r =>
      let e := r.foldl max a - efMax ef
      let x := (min (max (e + 127) 0) 254).toNat
      let out := l.map (quantCode srcT ef rm x)
      (x, out.map (·.1), orFlags (out.map (·.2)))
/-- One element of a block, dequantised. -/
def dequantCode (ef : Nat) (d : Fmt) (rm x c : Nat) : Nat × Flags :=
  let bad : Nat × Flags := match d with
    | .t n _ => (2 ^ (n - 1), fNV)
    | .f ff => (ff.nanCode, fNV)
    | _ => (0, fNV)
  if x = 0xFF then bad
  else
    let v := if ef < 3 then Val.ofInt (readI (efBits ef) true c) (-((efBits ef : Int) - 2)) else (efFmt ef).dec c
    match v with
    | .nan _ => bad
    | .fin n m e => convVal false d rm (.fin n m (e + (x : Int) - 127))
    | v => convVal false d rm v

/-- Pack codes of some bits (R136). -/
def packBits (bits : Nat) (l : List Nat) : List Byte :=
  leBytes (l.length * bits / 8) (l.foldr (fun c a => c % 2 ^ bits + a * 2 ^ bits) 0)
/-- Unpack n codes. -/
def unpackBits (bits n : Nat) (l : List Byte) : List Nat :=
  let x := leNat l
  (upFrom 0 n).map fun i => x / 2 ^ (bits * i) % 2 ^ bits

/-- Own-scratchpad bytes that an engine reads, behind the writes of the cycle (R303). -/
def State.ownBytes (s : State) (w : Who) (x n : Nat) : List Byte :=
  s.padBytes w.die w.tile (s.clock w.die w.tile) x n

/-- The effects of quant: per row its codes, per block its scale; flags. -/
def State.quantEff (s : State) (w : Who) (f : QuantF) (l : List DWord) : List Eff :=
  let g := qGeo l
  let src := tyFmt f.f2.toNat g.es
  let rows := (upFrom 0 g.rows).map fun i =>
    let vals := (unpackBits src.bits g.cols (s.ownBytes w (g.src + i * g.sstr) (g.cols * src.bits / 8))).map src.dec
    (i, (pieces 32 (g.cols / 32) vals).map (quantBlock src.isT f.f1.toNat f.rm.toNat))
  .flags (orFlags (rows.flatMap fun r => r.2.map (·.2.2)))
    :: rows.flatMap fun r =>
      .own (g.dst + r.1 * g.dstr) (packBits (efBits f.f1.toNat) (r.2.flatMap (·.2.1)))
        :: (r.2.zip (upFrom 0 r.2.length)).map fun b => .own (g.scale r.1 b.2) [BitVec.ofNat 8 b.1.1]
/-- The effects of dequant. -/
def State.dequantEff (s : State) (w : Who) (f : QuantF) (l : List DWord) : List Eff :=
  let g := qGeo l
  let d := tyFmt f.f2.toNat g.es
  let ef := f.f1.toNat
  let rows := (upFrom 0 g.rows).map fun i =>
    let cs := unpackBits (efBits ef) g.cols (s.ownBytes w (g.src + i * g.sstr) (g.cols * efBits ef / 8))
    (i, (cs.zip (upFrom 0 g.cols)).map fun c =>
      dequantCode ef d f.rm.toNat (leNat (s.ownBytes w (g.scale i (c.2 / 32)) 1)) c.1)
  .flags (orFlags (rows.flatMap fun r => r.2.map (·.2)))
    :: rows.map fun r => .own (g.dst + r.1 * g.dstr) (packBits d.bits (r.2.map (·.1)))

/-- The runs of bytes that quant or dequant reads. -/
def QGeo.reads (g : QGeo) (inBits : Nat) (scales : Bool) : List (Nat × Nat) :=
  (upFrom 0 g.rows).map (fun i => (g.src + i * g.sstr, g.cols * inBits / 8))
    ++ if scales then (upFrom 0 (g.rows / 16)).map fun i => (g.sca + i * g.gstr, 16 * (g.cols / 32)) else []

/-! ## The rows of the quantisation engine -/

/-- A started, unfinished MXINT mma of a context, entered before a command or at all (R237, R238). -/
def State.mxRunning (s : State) (d t c : Nat) : Bool :=
  (s.tile d t).runs.any fun r => r.ctx == c && (match r.cmd.instr with
    | .mma f => mmaMx f.fmt.toNat
    | _ => false)
/-- An MXINT mma of a context entered before a command has not finished (R237). Of one bundle the command of slot M counts
as entered before that of slot E: DESIGN CHOICE (log 104). -/
def State.mxBefore (s : State) (d t c ord : Nat) : Bool :=
  let is (m : Cmd) : Bool := m.ord < ord && (match m.instr with
    | .mma f => mmaMx f.fmt.toNat
    | _ => false)
  (s.ctx d t c).e.queue.any is || (s.tile d t).runs.any fun r => r.ctx == c && is r.cmd

/-- Start a command of the quantisation engine (R226, R231, R234, R238); quant and dequant read in the next cycle (R240). -/
def State.quantBegin (s : State) (d t c : Nat) (cmd : Cmd) : State :=
  let now := s.clock d t
  let go : State :=
    let g := qGeo cmd.stg
    let busy := now + (g.rows * g.cols + 511) / 512 + 4
    (s.startRun d t c cmd busy (busy + 20) [] none 0).modTile d t fun x =>
      { x with runs := x.runs.map fun r => if r.cmd.ord = cmd.ord then { r with fresh := true } else r }
  match cmd.instr with
  | .quant _ | .dequant _ => go
  | .sqld f => s.startRun d t c cmd (now + (f.nm1.toNat + 1)) (now + f.nm1.toNat + 4) [] none (f.nm1.toNat + 1)
  | _ => if s.mxRunning d t c then s else s.startRun d t c cmd (now + 1) (now + 1) [] none 0
/-- A started quant or dequant reads its inputs, and what it writes is settled (R231, R240, R451). -/
def State.quantRead (s : State) (d t : Nat) (r : Run) : State :=
  let w := s.who d t r.ctx
  let l := r.cmd.stg
  let (reads, eff) : List (Nat × Nat) × List Eff := match r.cmd.instr with
    | .quant f => ((qGeo l).reads (tyBits f.f2.toNat) false, s.quantEff w f l)
    | .dequant f => ((qGeo l).reads (efBits f.f1.toNat) true, s.dequantEff w f l)
    | _ => ([], [])
  let s := reads.foldl (fun s e => s.meetPad d t e.1 e.2) s
  s.modTile d t fun x => x.putRun (match reads.find? fun e => s.ownPoison d t e.1 e.2 with
    | some e => { r with fresh := false, trap := some (r.cmd.trapC 0xA0 0 e.1) }
    | none => { r with fresh := false, eff := eff })

/-- An sqld whose next entry is due and has not found a slot: it holds the engine (R234). -/
def Run.stuck (r : Run) (clk : Nat) : Bool := r.pushes && r.start + r.cmd.prog + 4 ≤ clk

/-- QUANT_COMMAND_START (R226): started commands read, and the next one starts. -/
def execQuantCommandStart (die tile : Nat) (s : State) : Host.Outcome State Fault Refusal :=
  let s := (((s.tile die tile).runsOf 2).filter fun r => r.fresh && r.start + 1 ≤ s.clock die tile).foldl
    (fun s r => s.quantRead die tile r) s
  .next (match s.nextCmd die tile 2 with
    | some (c, cmd) =>
      if s.ripe die tile cmd && ((s.tile die tile).runsOf 2).all (fun r =>
        r.busy ≤ s.clock die tile && !r.stuck (s.clock die tile) && !(r.ctx == c && r.trap.isSome))
      then s.quantBegin die tile c cmd else s
    | none => s)

/-- Clear the selected scale queues (R235). -/
def State.clearSq (s : State) (d t c : Nat) (f : SqclrF) : State :=
  s.modCtx d t c fun x =>
    { x with e := { x.e with
        sqA := if f.ca then [] else x.e.sqA
        sqB := if f.cb then [] else x.e.sqB } }

/-- QUANT_COMMAND_COMPLETE (R226): runs whose effects are due end. -/
def execQuantCommandComplete (die tile : Nat) (s : State) : Host.Outcome State Fault Refusal :=
  .next ((((s.tile die tile).runsOf 2).filter fun r => !r.pushes && r.done ≤ s.clock die tile).foldl
    (fun s r =>
      let s := s.finishOr die tile r
      match r.cmd.instr with
      | .sqclr f => s.clearSq die tile r.ctx f
      | _ => s) s)

/-- Push the entries that are due and have a slot (R234, R237); `fuel` bounds them. The lack of a slot is found in the
cycle of the entry, and its trap is taken when the run would have ended: DESIGN CHOICE (log 107). -/
def State.pushSq (s : State) (d t : Nat) : Nat → Run → State × Run
  | 0, r => (s, r)
  | k + 1, r =>
    match r.cmd.instr with
    | .sqld f =>
      let n := r.cmd.prog
      let e := (s.ctx d t r.ctx).e
      let q := if f.qsel then e.sqB else e.sqA
      let a := sreg r.cmd.stg 0 18 0 + 16 * n
      if r.prog ≤ n || s.clock d t < r.start + n + 4 then (s, r)
      else if q.length < 64 then
        let w := s.who d t r.ctx
        match s.inHalves w a 16 r.bound fun s => s.readRow w .read a 16 with
        | (s, _, .error _) => (s, { r with prog := n, trap := some (r.cmd.trapC 0xA0 0 a) })
        | (s, b, .ok bs) =>
          let r := { r with bound := b }
          let v := BitVec.ofNat 128 (leNat bs)
          let s := s.modCtx d t r.ctx fun x =>
            { x with e := if f.qsel then { x.e with sqB := x.e.sqB ++ [v] } else { x.e with sqA := x.e.sqA ++ [v] } }
          s.pushSq d t k { r with cmd := { r.cmd with prog := n + 1 } }
      else if (s.car d t).timed then (s, { r with prog := n, trap := some (r.cmd.trapC 0x82) })
      else if s.mxBefore d t r.ctx r.cmd.ord then (s.holdAt d t r.ctx 11, r)
      else (s, { r with prog := n, trap := some (r.cmd.trapC 0x65 n) })
    | _ => (s, r)

/-- SQLD_ENTRY_PUSH (R234, R237). -/
def execSqldEntryPush (die tile : Nat) (s : State) : Host.Outcome State Fault Refusal :=
  .next ((((s.tile die tile).runsOf 2).filter Run.pushes).foldl (fun s r =>
    let before := ((s.tile die tile).runsOf 2).takeWhile fun y => y.cmd.ord != r.cmd.ord
    let (s', r') := if before.any fun y => y.stuck (s.clock die tile) then (s, r) else s.pushSq die tile 64 r
    let s' := if r'.cmd.prog = r.cmd.prog then s' else s'.unhold die tile r.ctx 11
    s'.modTile die tile fun x => x.putRun r') s)

end Sys2Proof.Machine
end

