-- ==== Sys2Proof/Machine/Scatter.lean ====
section
/-! DEFINITION. The scatter-accumulate engine: xcfg, xpush, xfetch and xflush, at commit and in the engine, and
its window (R345 to R352). -/

namespace Sys2Proof.Machine

/-! ## Configurations (R345, R346) -/

/-- XOP of an XCFG header. -/
def hXop (h : Syl) : Nat := h.toNat / 2 ^ 21 % 16
/-- VT. -/
def hVt (h : Syl) : Nat := h.toNat / 2 ^ 19 % 4
/-- ES. -/
def hEs (h : Syl) : Nat := h.toNat / 2 ^ 17 % 4
/-- Bytes of an element: a quire image under .qadd, else a word. -/
def xSize (xop : Nat) : Nat := if xop = 7 then 64 else 4
/-- BASE. -/
def xBase (l : List DWord) : Nat := sreg l 0 56 0
/-- STM. -/
def xStm (l : List DWord) : Nat := sreg l 3 15 12

/-- Staging fields out of form (R346). -/
def xcfgBad (f : XcfgF) (l : List DWord) : Bool :=
  sreg l 0 63 57 != 0 || xBase l % xSize f.xop.toNat != 0 || sreg l 1 63 32 != 0 || sreg l 1 31 0 == 0
    || sreg l 2 63 19 != 0 || sreg l 2 5 0 != 0 || sreg l 3 63 16 != 0 || sreg l 3 5 0 != 0
/-- The fixed-order bit binds the context: set, and not timetabled (R33, R346). -/
def State.fixedOrder (s : State) : Bool :=
  let c := s.car s.focus.die s.focus.tile
  c.fo && !c.timed

/-- The configuration that governs a command entered now: the last XCFG in the queue, else the started one. -/
def EngSt.lastXcfg (e : EngSt) : Option (Syl × List DWord) :=
  match (e.queue.filter fun c => match c.instr with
    | .xcfg _ => true
    | _ => false).getLast? with
  | some c => some (c.hdr, c.stg)
  | none => e.xcfg

/-- xcfg (R345, R346). -/
def semXcfg (f : XcfgF) (s : State) : SlotRes := do
  s.mayCommit 3 (some f.setx)
  let l := s.stgCopy 3
  s.hIf (xcfgBad f l) 0x0E 3
  s.hIf (f.xop == 7 && f.vt == 1 && f.es == 3) 0x21 3
  s.hIf (f.xop == 6 && s.fixedOrder) 0x69 3
  .ok ((s.enter 3 (.xcfg f) true l).modE fun e => { e with xcommitted := true })
/-- XCFG by itself. -/
def execXcfg (f : XcfgF) (s : State) : Host.Outcome State Fault Refusal := finish s (semXcfg f s)

/-- The mask of xpush and xfetch. -/
def State.xMask (s : State) (f : XpF) : Mask := if f.ke then s.rk f.km.toNat else BitVec.allOnes 1024
/-- The rows and the mask that xpush and xfetch read as they issue (R347). -/
def State.xOps (s : State) (f : XpF) : State × CmdOps :=
  let n := f.rm1.toNat + 1
  let (s1, ix) := s.takeO f.ix.toNat n
  let (s2, vx) := s1.takeO f.vx.toNat n
  (s2, { ix := ix, vx := vx, mask := s.xMask f })
/-- Enabled elements of a header. -/
def xCount (f : XpF) (mask : Mask) : Nat :=
  ((upFrom 0 (16 * (f.rm1.toNat + 1))).filter fun e => enabledAt mask 4 e).length

/-- A RET row that xfetch writes lies outside the scratchpad (R350): rows without an enabled element are not written. -/
def xRetBad (f : XpF) (mask : Mask) (ret : Nat) : Bool :=
  (upFrom 0 (f.rm1.toNat + 1)).any fun q =>
    padSize < ret + 64 * q + 64 && (upFrom (16 * q) 16).any fun e => enabledAt mask 4 e

/-- xpush (R347): one journal entry is reserved for each enabled pair (R461). -/
def semXpush (f : XpF) (s : State) : SlotRes := do
  s.mayCommit 3 none
  s.hIf (!s.fctx.e.xcommitted) 0x6A 3
  let n := xCount f (s.xMask f)
  if s.mayReserve s.focus.die s.focus.tile n then
    let (s, x) := s.xOps f
    .ok (s.enter 3 (.xpush f) false [] { x with ents := n })
  else .error (.trap { cause := 0x89, kind := 4, eng := 10, status := 1 })
/-- XPUSH by itself. -/
def execXpush (f : XpF) (s : State) : Host.Outcome State Fault Refusal := finish s (semXpush f s)

/-- xfetch (R347, R350). -/
def semXfetch (f : XpF) (s : State) : SlotRes := do
  s.mayCommit 3 none
  s.hIf (!s.fctx.e.xcommitted) 0x6A 3
  match s.fctx.e.lastXcfg with
  | some (h, l) =>
    s.hIf (hXop h == 7) 0x0E 3
    s.hIf (xRetBad f (s.xMask f) (sreg l 2 18 0)) 0x0E 3
  | none => .ok ()
  s.hIf s.fixedOrder 0x69 3
  let (s, x) := s.xOps f
  .ok (s.enter 3 (.xfetch f) false [] { x with ents := 1 })
/-- XFETCH by itself. -/
def execXfetch (f : XpF) (s : State) : Host.Outcome State Fault Refusal := finish s (semXfetch f s)

/-- xflush (R351). -/
def semXflush (s : State) : SlotRes := do
  s.mayCommit 3 none
  s.hIf (!s.fctx.e.xcommitted) 0x6A 3
  .ok (s.enter 3 .xflush false [])
/-- XFLUSH by itself. -/
def execXflush (s : State) : Host.Outcome State Fault Refusal := finish s (semXflush s)

/-! ## Merging (R348) -/

/-- One word merged into another by XOP 0 to 6. -/
def mergeWord (xop vt a b : Nat) : Nat × Flags :=
  let i (x : Nat) : Int := readI 32 (vt == 0) x
  match xop with
  | 0 => ((a + b) % 2 ^ 32, 0)
  | 1 => (if i a < i b then a else b, 0)
  | 2 => (if i a < i b then b else a, 0)
  | 3 => (a &&& b, 0)
  | 4 => (a ||| b, 0)
  | 5 => (a ^^^ b, 0)
  | _ => (Fmt.f ff32).addNode 0 a b
/-- A pair's value as a quire term. -/
def qaddVal (vt es v : Nat) : Val := if vt = 0 then (Fmt.f ff32).dec v else decT 32 es v
/-- A pair's value merged into an entry. -/
def mergePair (h : Syl) (grp : Bool) (entry : Nat) (v : Nat) : Nat × Flags :=
  if hXop h = 7 then
    let r := quireAdd (hVt h == 0) (BitVec.ofNat 512 entry) (qaddVal (hVt h) (hEs h) v)
    (r.1.toNat, r.2)
  else if grp && hXop h = 0 then (((entry : Int) + readI 32 (hVt h == 0) v) % 2 ^ 64 |>.toNat, 0)
  else mergeWord (hXop h) (hVt h) entry v
/-- A pair's value as a new entry: merged into zero under .qadd and in a group, itself otherwise. -/
def newEntry (h : Syl) (grp : Bool) (v : Nat) : Nat × Flags :=
  if hXop h = 7 || (grp && hXop h = 0) then mergePair h grp 0 v else (v, 0)
/-- Combine: an entry into its target (R348). -/
def combineWord (xop vt target entry : Nat) : Nat × Flags :=
  if xop = 7 then
    let t : BitVec 512 := BitVec.ofNat 512 target
    let e : BitVec 512 := BitVec.ofNat 512 entry
    if t = quireNaR then (target, 0)
    else if e = quireNaR then (quireNaR.toNat, 0)
    else let r := quireAddI t e.toInt; (r.1.toNat, r.2)
  else mergeWord xop vt target entry

/-! ## Applying an entry (R348, R349) -/

/-- Combine a value into own-scratchpad bytes at once. -/
def State.combineOwn (s : State) (d t a xop vt val : Nat) : State × Nat × Flags :=
  let n := xSize xop
  let old := leNat (s.padBytes d t (s.clock d t) a n)
  let r := combineWord xop vt old val
  (s.padStore d t a (leBytes n r.1), old, r.2)

/-- Address of an entry's target. -/
def XEnt.va (e : XEnt) : Nat := e.base + xSize (hXop e.hdr) * e.index
/-- The update that an entry carries. -/
def XEnt.upd (e : XEnt) : Update := ⟨hXop e.hdr, hVt e.hdr, hEs e.hdr, e.val⟩

/-- Stream broken at a tile, with the stream and the lowest unacknowledged number (R331, R349); not raised
again while it is pending. -/
def State.raiseBroken (s : State) (d t c n : Nat) : State :=
  let st := n + 16 * s.lowestUnacked d t c n
  match (s.ctx d t c).t.cur with
  | some r => if r.info.cause = 0x63 && r.info.status % 16 = n then s else
      s.raiseAt d t c { cause := 0x63, kind := 5, eng := 9, status := st }
  | none => s.raiseAt d t c { cause := 0x63, kind := 5, eng := 9, status := st }

/-- Cause and status of a scatter command's fault at a target: scatter translation fault, or remote atomic not permitted
where RAP alone is lacking (R349, R384). -/
def rapCause (f : XFault) : Nat × Nat := if f.kind = noRap then (0x4E, 0) else (0x4D, f.status)
/-- Apply one entry of the window: combined in the own scratchpad, sent as an update packet, or discarded where
its stream has broken. `none` where the packet may not depart yet (R325, R331). -/
def State.applyEnt (s : State) (d t : Nat) (e : XEnt) : Option State :=
  let drop (s : State) : State :=
    s.modTile d t fun x => { x with window := x.window.filter fun y => !(y.ctx == e.ctx && y.index == e.index) }
  let rec' (s : State) (remote : Bool) : State :=
    s.journal d t e.ctx 4 e.index (e.pairs + if remote then 65536 else 0)
  if e.va < padSize then
    if s.hiddenHeld d t e.va (xSize (hXop e.hdr)) then none
    else
    let (s, _, fl) := s.combineOwn d t e.va (hXop e.hdr) (hVt e.hdr) e.val
    some (rec' (drop (s.orFsr d t e.ctx fl)) false)
  else if (s.strm d t e.ctx e.stm).broken then some (drop (s.raiseBroken d t e.ctx e.stm))
  else if !s.mayDepart d t e.ctx e.stm then none
  else
    let (s, r) := s.reach d (s.car d t).asid .update e.va
    match r with
    | .ok p =>
      some (rec' (drop (s.sendNext d t e.ctx e.stm
        { kind := .update, place := p, upd := e.upd, len := xSize (hXop e.hdr), eng := 7, ord := some e.ord })) true)
    | .error f => some (drop (s.raiseAt d t e.ctx
        { cause := (rapCause f).1, kind := 5, eng := 7, status := (rapCause f).2, addr2 := e.va % 2 ^ 57 }))

/-- In replay the window closes an entry after the recorded number of pairs (R463), and none where no record is left. -/
def State.mayClose (s : State) (d t : Nat) (e : XEnt) : Bool :=
  if s.replaying d t then
    match s.replayNext d (tileEntry 4 t) with
    | some n => fld (s.rentry d n 0) 59 58 == e.ctx && (s.rentry d n 2).toNat == e.index
        && fld (s.rentry d n 3) 15 0 == e.pairs
    | none => false
  else true
/-- In replay an entry of the window takes no pair beyond the recorded number: a further one waits until the entry has been
closed (R463). -/
def State.mayMerge (s : State) (d t : Nat) (e : XEnt) : Bool :=
  if s.replaying d t then
    let r := (s.ctl d 0x430).toNat
    match (upFrom r ((s.ctl d 0x428).toNat - r)).find? fun n => !(s.die d).rdone.contains n
        && tileEntry 4 t (s.rentry d n 0) && fld (s.rentry d n 0) 59 58 == e.ctx && (s.rentry d n 2).toNat == e.index with
    | some n => e.pairs < fld (s.rentry d n 3) 15 0
    | none => false
  else true
/-- Use the replay entry of an applied entry. -/
def State.useClose (s : State) (d t : Nat) : State :=
  if s.replaying d t then
    match s.replayNext d (tileEntry 4 t) with
    | some n => s.ruse d n
    | none => s
  else s

/-- Apply the entries that a predicate picks, in the order they were allocated; true where all of them went. -/
def State.applyWhere (s : State) (d t : Nat) (p : XEnt → Bool) : State × Bool :=
  ((s.tile d t).window.filter p).foldl (fun a e =>
    if !a.1.mayClose d t e then (a.1, false)
    else match a.1.applyEnt d t e with
      | some s => (s.useClose d t, a.2)
      | none => (a.1, false)) (s, true)

/-! ## The targets of a command (R349) -/

/-- The enabled pairs of a command: element number, index, value. -/
def xPairs (f : XpF) (c : Cmd) : List (Nat × Nat × Nat) :=
  let n := 16 * (f.rm1.toNat + 1)
  (((upFrom 0 n).zip ((elems 4 n c.ix).zip (elems 4 n c.vx)))).filter fun e => enabledAt c.mask 4 e.1

/-- The place of an element: none for the own scratchpad. -/
def State.xPlace (s : State) (w : Who) (g : Agent) (va : Nat) : State × Except XFault (Option Place) :=
  if va < padSize then (s, .ok none)
  else
    let (s, r) := s.reach w.die w.asid g va
    (s, r.map some)

/-- The checks of R349 on every enabled pair, before any is applied: the trap, or the endpoint of the remote
targets. -/
def State.xCheck (s : State) (w : Who) (g : Agent) (h : Syl) (l : List DWord) (cmd : Cmd) :
    List (Nat × Nat × Nat) → Option Endpoint → State × Except TrapInfo (Option Endpoint)
  | [], e => (s, .ok e)
  | (n, x, _) :: r, e =>
    let va := xBase l + xSize (hXop h) * x
    if sreg l 1 31 0 ≤ x then (s, .error (cmd.trapC 0x4C n))
    else
      let (s, p) := s.xPlace w g va
      match p with
      | .error f => (s, .error (cmd.trapC (rapCause f).1 (rapCause f).2 va))
      | .ok none =>
        let s := s.meetPad w.die w.tile va (xSize (hXop h))
        if s.ownPoison w.die w.tile va (xSize (hXop h)) then (s, .error (cmd.trapC 0xA0 0 va))
        else s.xCheck w g h l cmd r e
      | .ok (some p) =>
        let ep := s.endpoint w.die p
        match e with
        | none => s.xCheck w g h l cmd r (some ep)
        | some e' => if e' = ep then s.xCheck w g h l cmd r e else (s, .error (cmd.trapC 0x62 (xStm l)))

/-- The command's remote targets may use its stream (R349). -/
def State.xStream (s : State) (d t c n : Nat) (cmd : Cmd) (e : Option Endpoint) : Option TrapInfo :=
  match e with
  | none => none
  | some ep =>
    let st := s.strm d t c n
    if st.broken then some (cmd.trapC 0x63 (n + 16 * s.lowestUnacked d t c n))
    else match s.strmTo d t c n with
      | some b => if b = ep then none else some (cmd.trapC 0x62 n)
      | none => none

/-! ## xpush in the window (R348) -/

/-- Merge one pair, or put it in a new entry, evicting the entry allocated earliest where the window is full.
`none` where an eviction has to wait. -/
def State.pushPair (s : State) (w : Who) (h : Syl) (l : List DWord) (ord x v : Nat) : Option State :=
  let tile := s.tile w.die w.tile
  match tile.window.find? fun e => e.ctx == w.ctx && e.index == x with
  | some e =>
    if !s.mayMerge w.die w.tile e then none
    else
    let r := mergePair h e.grp e.val v
    let e' := { e with val := r.1, last := s.now, pairs := e.pairs + 1 }
    let s := (s.orFsr w.die w.tile w.ctx r.2).modTile w.die w.tile fun y =>
      { y with window := y.window.map fun z => if z.ctx == w.ctx && z.index == x then e' else z }
    if s.replaying w.die w.tile && s.mayClose w.die w.tile e' then
      (s.applyEnt w.die w.tile e').map fun s => s.useClose w.die w.tile
    else some s
  | none =>
    let room : Option State :=
      if tile.window.length < 64 then some s
      else match tile.window with
        | e :: _ =>
          if s.mayClose w.die w.tile e then (s.applyEnt w.die w.tile e).map fun s => s.useClose w.die w.tile
          else none
        | [] => some s
    match room with
    | none => none
    | some s =>
      let (s, p) := s.xPlace w .update (xBase l + xSize (hXop h) * x)
      let grp := match p with
        | .ok (some (.group _ _)) => true
        | _ => false
      let tgt : Option Endpoint := match p with
        | .ok (some p) => some (s.endpoint w.die p)
        | _ => none
      if tgt.isSome && !s.mayBind w.die w.tile w.ctx (xStm l) then none
      else
      let s := match tgt with
        | some e => s.modStrm w.die w.tile w.ctx (xStm l) fun st => st.bindTo e
        | none => s
      let r := newEntry h grp v
      some ((s.orFsr w.die w.tile w.ctx r.2).modTile w.die w.tile fun y =>
        { y with window := y.window ++ [⟨w.ctx, x, h, xBase l, xStm l, r.1, grp, s.now, 1, ord, tgt⟩] })

/-- Push the pairs of a run from its progress on. -/
def State.pushPairs (s : State) (w : Who) (h : Syl) (l : List DWord) (ord : Nat) :
    List (Nat × Nat × Nat) → Nat → State × Nat
  | [], n => (s, n)
  | (_, x, v) :: r, n =>
    match s.pushPair w h l ord x v with
    | some s => s.pushPairs w h l ord r (n + 1)
    | none => (s, n)

/-! ## xfetch (R350) -/

/-- Apply one pair of an XFETCH: the old value of an own element goes to RET + 4e at once; a remote one comes
back with the response. `none` where the packet may not depart yet. -/
def State.fetchPair (s : State) (w : Who) (h : Syl) (l : List DWord) (cmd : Cmd) (e x v : Nat) : Option State :=
  let va := xBase l + xSize (hXop h) * x
  let ret := sreg l 2 18 0 + 4 * e
  if s.hiddenHeld w.die w.tile ret 4 || (va < padSize && s.hiddenHeld w.die w.tile va 4) then none
  else if va < padSize then
    let (s, old, fl) := s.combineOwn w.die w.tile va (hXop h) (hVt h) v
    some ((s.padStore w.die w.tile ret (leBytes 4 old)).orFsr w.die w.tile w.ctx fl)
  else if !s.mayDepart w.die w.tile w.ctx (xStm l) then none
  else
    let (s, r) := s.reach w.die w.asid .xfetch va
    match r with
    | .ok p => some (s.sendNext w.die w.tile w.ctx (xStm l)
        { kind := .update, place := p, upd := ⟨hXop h, hVt h, hEs h, v⟩, len := 4, reg := ret + 1,
          cmd := some cmd.idx, eng := 7, ord := some cmd.ord })
    | .error f => some (s.raiseAt w.die w.tile w.ctx (cmd.trapC (rapCause f).1 (rapCause f).2 va))

/-- Apply the pairs of an XFETCH one at a time, in ascending e. -/
def State.fetchPairs (s : State) (w : Who) (h : Syl) (l : List DWord) (cmd : Cmd) :
    List (Nat × Nat × Nat) → Nat → State × Nat
  | [], n => (s, n)
  | (e, x, v) :: r, n =>
    match s.fetchPair w h l cmd e x v with
    | some s => s.fetchPairs w h l cmd r (n + 1)
    | none => (s, n)

/-! ## The rows of the engine -/

/-- The parameters that govern a context's commands. -/
def EngSt.xpar (e : EngSt) : Syl × List DWord := e.xcfg.getD (0, [])

/-- A scatter run has taken n pairs of those that it may take now: one that waits holds (R325, R331, R338), which under a
timetable is a deviation. -/
def State.scatterTook (s : State) (d t : Nat) (r : Run) (n all : Nat) : State :=
  let r := { r with cmd := { r.cmd with prog := n } }
  if n = all then (s.unholdEng d t r.ctx).modTile d t fun x => x.putRun r
  else if (s.car d t).timed then
    s.modTile d t fun x => x.putRun { r with prog := n, trap := some (r.cmd.trapC 0x82), done := s.clock d t }
  else (s.modTile d t fun x => x.putRun r).holdEng d t r.ctx
/-- Pairs that an engine may take in a cycle: those of one row of sixteen, the row of the first that is left, and no row
before its cycle (R348). -/
def rowPairs (l : List (Nat × Nat × Nat)) (rows : Nat) : List (Nat × Nat × Nat) :=
  match l with
  | [] => []
  | a :: _ => l.takeWhile fun e => e.1 / 16 = a.1 / 16 && e.1 < 16 * rows
/-- Go on with a started xpush or xfetch: one row of sixteen pairs a cycle (R348). -/
def State.scatterGo (s : State) (d t : Nat) (r : Run) : State :=
  let w := s.who d t r.ctx
  let (h, l) := (s.ctx d t r.ctx).e.xpar
  let go (f : XpF) (act : State → List (Nat × Nat × Nat) → State × Nat) : State :=
    let now := rowPairs ((xPairs f r.cmd).drop r.cmd.prog) (s.clock d t - r.start + 1)
    let (s, n) := act s now
    s.scatterTook d t r n (r.cmd.prog + now.length)
  match r.cmd.instr with
  | .xpush f => go f fun s l' => s.pushPairs w h l r.cmd.ord l' r.cmd.prog
  | .xfetch f => go f fun s l' => s.fetchPairs w h l r.cmd l' r.cmd.prog
  | _ => s

/-- A scatter run that still has pairs to apply. -/
def Run.pairsLeft (r : Run) : Bool :=
  match r.cmd.instr with
  | .xpush _ | .xfetch _ => r.cmd.prog < r.prog
  | _ => false

/-- Start a command of the scatter-accumulate engine (R346 to R351). -/
def State.scatterBegin (s : State) (d t c : Nat) (cmd : Cmd) : State :=
  let w := s.who d t c
  let now := s.clock d t
  let (h, l) := (s.ctx d t c).e.xpar
  let pairs (s : State) (f : XpF) (g : Agent) : State :=
    let ps := xPairs f cmd
    let (s, ready) := s.genReady w 1 (ps.map fun e => xBase l + xSize (hXop h) * e.2.1)
    if !ready then s
    else
    let (s, r) := s.xCheck w g h l cmd ps none
    let bad : Option TrapInfo := match r with
      | .error i => some i
      | .ok e => s.xStream d t c (xStm l) cmd e
    match bad with
    | some i => ((s.takeCmd d t c 3 cmd).returnCmd d t c cmd).raiseAt d t c i
    | none =>
      let s := (s.startRun d t c { cmd with prog := 0 } (now + f.rm1.toNat + 1) (now + f.rm1.toNat + 1) [] none
        ps.length).modTile d t fun x => x.unpipe 1
      match (s.tile d t).runs.find? fun r => r.cmd.ord == cmd.ord with
      | some r => s.scatterGo d t r
      | none => s
  match cmd.instr with
  | .xcfg _ =>
    let (s, all) := s.applyWhere d t fun e => e.ctx == c
    if all then
      (s.startRun d t c cmd (now + 1) now [] none 0).modCtx d t c fun x =>
        { x with e := { x.e with xcfg := some (cmd.hdr, cmd.stg) } }
    else s
  | .xpush f => pairs s f .update
  | .xfetch f =>
    let idx := (xPairs f cmd).map (·.2.1)
    let (s, all) := s.applyWhere d t fun e => e.ctx == c && idx.contains e.index
    if all then pairs s f .xfetch else s
  | _ => s.startRun d t c cmd (now + 1) (now + 1) [] none 0

/-- SCATTER_COMMAND_START (R345): started commands go on; the next one starts where the engine is free. A
finished xcfg or xpush leaves the engine. -/
def execScatterCommandStart (die tile : Nat) (s : State) : Host.Outcome State Fault Refusal :=
  let s := (((s.tile die tile).runsOf 3).filter Run.pairsLeft).foldl (fun s r => s.scatterGo die tile r) s
  let s := (((s.tile die tile).runsOf 3).filter fun r => !r.pairsLeft && r.done ≤ s.clock die tile
      && (match r.cmd.instr with
        | .xcfg _ | .xpush _ => true
        | _ => r.trap.isSome)).foldl (fun s r => s.finishRun die tile r) s
  .next (match s.nextCmd die tile 3 with
    | some (c, cmd) =>
      if s.ripe die tile cmd && ((s.tile die tile).runsOf 3).all (fun r => r.busy ≤ s.clock die tile && !r.pairsLeft
          && r.ctx != c)
      then s.scatterBegin die tile c cmd else s
    | none => s)

/-- An entry of the window is to be applied (R343, R348, R351): it has gone 64 cycles without a merge; a FENCE, an XFLUSH, a
PUBLISH, the EXIT or a stop of its context asks for it; or, in replay, the journal closes it (R463). -/
def State.evicts (s : State) (d t : Nat) (e : XEnt) : Bool :=
  let x := s.ctx d t e.ctx
  let asks (r : Run) : Bool := match r.cmd.instr with
    | .xflush => true
    | .publish _ => r.prog == 1 && e.ord < r.cmd.ord
    | _ => false
  e.last + 64 ≤ s.now || s.replaying d t || x.evict || (s.lead d (s.car d t).leadTile e.ctx).exitPh == 2
    || (s.tile d t).runs.any fun r => r.ctx == e.ctx && asks r
/-- SCATTER_ENTRY_TIMEOUT (R348): the entries that are to be applied are, in the engine's place of the cycle (R303). -/
def execScatterEntryTimeout (die tile : Nat) (s : State) : Host.Outcome State Fault Refusal :=
  .next (s.applyWhere die tile fun e => s.evicts die tile e).1
/-- The window holds no entry of a context. -/
def State.windowClear (s : State) (d t c : Nat) : Bool := !(s.tile d t).window.any fun e => e.ctx == c

/-- Every update packet that a command of the scatter engine waits for has been acknowledged: none is under way, and none was
lost with a binding that broke (R350, R351). -/
def State.updatesDone (s : State) (d t : Nat) (r : Run) : Bool :=
  let x := s.ctx d t r.ctx
  (s.tile d t).retx.all (fun p => !(p.src.ctx == r.ctx && p.eng == 7))
    && (x.streams.all fun e => !e.2.lost) && !r.lost && x.e.lostTo ≤ r.cmd.ord
/-- A command that waits for updates which have been lost never completes: as its context stops it goes back unstarted, which
lets the context stop (R288, R331). -/
def State.giveBack (s : State) (d t : Nat) (r : Run) : State :=
  if (s.ctx d t r.ctx).mayStart || !(s.tile d t).retx.all (fun p => !(p.src.ctx == r.ctx && p.eng == 7)) then s
  else (s.modTile d t fun x => x.dropRun r).returnCmd d t r.ctx { r.cmd with prog := 0 }

/-- XFLUSH_COMPLETE (R351): every entry of the context applied, every update acknowledged; then semaphore SEM
gains 1. -/
def execXflushComplete (die tile : Nat) (s : State) : Host.Outcome State Fault Refusal :=
  .next ((((s.tile die tile).runsOf 3).filter fun r => r.cmd.instr == .xflush).foldl (fun s r =>
    if s.windowClear die tile r.ctx && s.updatesDone die tile r && r.done ≤ s.clock die tile then
      (s.finishRun die tile r).applyEff die tile r.ctx (.sem (sreg (s.ctx die tile r.ctx).e.xpar.2 3 11 6))
    else s.giveBack die tile r) s)

/-- XFETCH_COMPLETE (R350): every value written; then semaphore SEM gains 1. -/
def execXfetchComplete (die tile : Nat) (s : State) : Host.Outcome State Fault Refusal :=
  .next ((((s.tile die tile).runsOf 3).filter fun r => !r.pairsLeft && r.trap.isNone && (match r.cmd.instr with
      | .xfetch _ => true
      | _ => false)).foldl (fun s r =>
    if s.updatesDone die tile r && r.done ≤ s.clock die tile then
      (s.finishRun die tile r).applyEff die tile r.ctx (.sem (sreg (s.ctx die tile r.ctx).e.xpar.2 3 11 6))
    else s.giveBack die tile r) s)

end Sys2Proof.Machine
end

