-- ==== Sys2Proof/Machine/Sync.lean ====
section
/-! DEFINITION. Fences (R342 to R344), tags (R315), semaphores and sclose (R335 to R337): B slots. -/

namespace Sys2Proof.Machine

/-! ## Scopes (R342) -/

/-- A module lies in the Kendom pod of this one (R342). -/
def State.inPod (s : State) (m : Nat) : Bool :=
  m == s.modnum || match s.route m with
    | some p => s.portRole p == 1
    | none => false
/-- An endpoint lies in a scope of a tile. -/
def State.inScope (s : State) (d t scope : Nat) (e : Endpoint) : Bool :=
  let here := e.module == s.modnum
  let tileHere := here && e.kind == 0 && e.die == d
  match scope with
  | 0 | 1 => tileHere && e.idx == t
  | 2 => tileHere && (s.car d t).has e.idx
  | 3 => here && e.die == d && e.kind ≤ 1
  | 4 => here && e.kind != 2
  | 5 => s.inPod e.module && e.kind != 2
  | 6 => e.kind != 2
  | _ => true
/-- A virtual address that a command reads or writes lies in a scope. -/
def State.vaScope (s : State) (w : Who) (scope : Nat) (g : Agent) (va : Nat) : Bool :=
  if va < padSize then true
  else match (s.reach w.die w.asid g va).2 with
    | .ok p => s.inScope w.die w.tile scope (s.endpoint w.die p)
    | .error _ => false

/-! ## What a command touches -/

/-- Counts of a copy: N1′ and N2′ (R308). -/
def copyN1 (f : CopyF) (l : List DWord) : Nat := if f.dim == 0 then 1 else sreg l 3 31 0
/-- N2′. -/
def copyN2 (f : CopyF) (l : List DWord) : Nat := if f.dim == 2 then sreg l 3 63 32 else 1
/-- Element width under .sp. -/
def copyW (f : CopyF) : Nat := 2 ^ f.ew.toNat
/-- LEN0. -/
def copyLen (l : List DWord) : Nat := sreg l 2 31 0
/-- Wrap modulo 2^57 (R308). -/
def wrapVa (x : Int) : Nat := (x % 2 ^ 57).toNat
/-- The rows of a copy in order; `idx` gives the gather indices. -/
def copyRows (f : CopyF) (l : List DWord) (idx : Nat → Nat) : List CopyRow :=
  (upFrom 0 (copyN2 f l)).flatMap fun (i2 : Nat) => (upFrom 0 (copyN1 f l)).map fun (i1 : Nat) =>
    let a : Int := Int.ofNat i1
    let b : Int := if f.dim == 2 then Int.ofNat i2 else 0
    let one : Int := if f.dim == 0 then 0 else 1
    let s := if f.dim == 3 then (sreg l 0 56 0 : Int) + idx i1 * sregS l 4
      else (sreg l 0 56 0 : Int) + one * a * sregS l 4 + b * sregS l 6
    let d := (sreg l 1 56 0 : Int) + one * a * sregS l 5 + b * sregS l 7
    let r := i2 * copyN1 f l + i1
    ⟨wrapVa s, wrapVa d, (sreg l 8 56 0 + r * (copyLen l / (8 * copyW f))) % 2 ^ 57⟩

/-- The configuration that governs a command of a context's scatter engine: that of the last XCFG still queued before it,
else the started one (R346). -/
def EngSt.governs (e : EngSt) (c : Cmd) : Syl × List DWord :=
  match (e.queue.filter fun x => x.ord < c.ord && (match x.instr with
    | .xcfg _ => true
    | _ => false)).getLast? with
  | some x => (x.hdr, x.stg)
  | none => e.xpar
/-- Bytes of a row that mma reads. -/
def mmaRow (f : MmaF) (l : List DWord) : Nat := (sreg l 3 20 0 * mmaBits f.fmt.toNat + 7) / 8
/-- Bytes of a copy's source row and of its metadata row (R309). -/
def copySrcLen (f : CopyF) (l : List DWord) : Nat := if f.sp then copyLen l / 2 else copyLen l
/-- Bytes of a copy's metadata row. -/
def copyMetaLen (f : CopyF) (l : List DWord) : Nat := copyLen l / (8 * copyW f)
/-- The gather indices of a copy as its list holds them now (R308). -/
def State.gatherIdx (s : State) (d t : Nat) (l : List DWord) (i : Nat) : Nat :=
  leNat (s.padBytes d t (s.clock d t) (sreg l 9 18 0 + 4 * i) 4)
/-- An address in each page that a copy's row reads. -/
def copyReads (f : CopyF) (l : List DWord) (r : CopyRow) : List Nat :=
  pagesOf r.src (copySrcLen f l) ++ if f.sp then pagesOf r.meta' (copyMetaLen f l) else []
/-- What a copy reads and writes: an address in each page of each run of bytes; 0 for the gather list. -/
def State.copyTouches (s : State) (d t : Nat) (f : CopyF) (l : List DWord) : List (Agent × Nat) :=
  (if f.dim == 3 then [(.read, 0)] else []) ++
    (copyRows f l (s.gatherIdx d t l)).flatMap fun r =>
      (copyReads f l r).map (fun a => (.read, a)) ++ (pagesOf r.dst (copyLen l)).map fun a => (.write, a)
/-- What a command reads and writes: an address in each page of each run of bytes; 0 for the own scratchpad where no more
is asked (R343). -/
def State.touches (s : State) (w : Who) (c : Cmd) : List (Agent × Nat) :=
  let l := c.stg
  let pages (g : Agent) (va n : Nat) := (pagesOf va n).map fun a => (g, a)
  let rows (g : Agent) (n : Nat) := rows16 g (sreg l 0 56 0) (sreg l 2 31 0) n
  match c.instr with
  | .mma f => rows .read (mmaRow f l) ++ rows16 .read (sreg l 1 56 0) (sreg l 2 63 32) (mmaRow f l)
  | .mdrain f => rows .write (drainRow f) ++ (if f.zc then pages .read (sreg l 6 56 0) 64 else [])
      ++ if drainRq f.ofmt.toNat then pages .read (sreg l 7 56 0) 128 else []
  | .mload f => rows .read (mlsRow f)
  | .mstore f => rows .write (mlsRow f)
  | .copy f => s.copyTouches w.die w.tile f l
  | .quant _ | .dequant _ | .sqld _ => [(.read, 0)]
  | .xpush f =>
    let (h, p) := (s.ctx w.die w.tile w.ctx).e.governs c
    (xPairs f c).map fun e => (.update, xBase p + xSize (hXop h) * e.2.1)
  | .xfetch f =>
    let (h, p) := (s.ctx w.die w.tile w.ctx).e.governs c
    (.write, 0) :: (xPairs f c).map fun e => (.xfetch, xBase p + xSize (hXop h) * e.2.1)
  | _ => []
/-- What a started command still reads and writes: of a copy, the rows not read and those not written (R343). -/
def State.openTouches (s : State) (w : Who) (r : Run) : List (Agent × Nat) :=
  match r.cmd.instr with
  | .copy f => r.jobs.flatMap fun j =>
      (if j.data.isNone then (copyReads f r.cmd.stg j.row).map fun a => (.read, a) else [])
        ++ [(.write, j.row.dst + j.off)]
  | _ => s.touches w r.cmd

/-! ## fence (R343, R344) -/

/-- Every effect of a context that stands before a place in the order of its tile, and before a tile clock, and lies in a
scope, has completed. -/
def State.fenceDone (s : State) (d t c scope ord before : Nat) : Bool :=
  let w := s.who d t c
  let x := s.ctx d t c
  let tile := s.tile d t
  let inside (l : List (Agent × Nat)) : Bool := l.any fun e => s.vaScope w scope e.1 e.2
  !(x.e.queue.any fun m => m.ord < ord && inside (s.touches w m))
    && !(tile.runs.any fun r => r.ctx == c && r.cmd.ord < ord && inside (s.openTouches w r))
    && !(tile.retx.any fun p => p.src.ctx == c && p.ord < ord && s.inScope d t scope p.dst)
    && !(tile.window.any fun e => e.ctx == c && e.ord < ord && (e.tgt.map (s.inScope d t scope)).getD true)
    && !(tile.pend.any fun p => p.ctx == c && p.at' < before && s.clock d t < p.tick tile.lag)
    && !(s.lates.any fun o => o.focus.die == d && o.focus.tile == t && o.focus.ctx == c && !o.early && o.at' < before
      && s.clockOf o.focus < o.last)

/-- The FENCE of a context evicts its window entries (R343): the scatter engine applies them from its next cycle on. -/
def State.askEvict (s : State) : State := s.modF fun c => { c with evict := true }

/-- A packet of a context is being refused by a full tracker or reorder buffer (R330). -/
def State.beingRefused (s : State) (d t c : Nat) : Bool :=
  (s.tile d t).retx.any fun p => p.src.ctx == c && p.ref
/-- Such a packet has its endpoint in a scope. -/
def State.refusedIn (s : State) (d t c scope : Nat) : Bool :=
  (s.tile d t).retx.any fun p => p.src.ctx == c && p.ref && s.inScope d t scope p.dst

/-- fence: holds until each earlier effect in the scope has completed; nothing in timetabled mode. -/
def semFence (scope : BitVec 7) (s : State) : SlotRes :=
  let f := s.focus
  if s.timed || s.fenceDone f.die f.tile f.ctx scope.toNat s.flitNo s.t then .ok s
  else holdT (if s.refusedIn f.die f.tile f.ctx scope.toNat then 12 else 5)
/-- FENCE by itself: one that holds asks for the window entries. -/
def execFence (scope : BitVec 7) (s : State) : Host.Outcome State Fault Refusal :=
  match semFence scope s with
  | .ok s' => .next s'
  | r => finish s.askEvict r

/-! ## Tags (R315) -/

/-- The mask of a tag instruction; a tag that the context does not own is trapped. -/
def State.tagMask (s : State) (r : BitVec 6) : Try DWord := do
  let m := s.rs r
  let bad := m &&& ~~~s.fctx.tagm
  trapIf (bad != 0) 0x61 3 (ctzN 64 bad.toNat)
  .ok m

/-- waitany. -/
def semWaitany (bx : BitVec 6) (s : State) : SlotRes := do
  let m ← s.tagMask bx
  if m == 0 || (s.ftile.tags &&& m) != 0 then .ok s else s.holdOr 2 0x81 3 2
/-- WAITANY by itself. -/
def execWaitany (bx : BitVec 6) (s : State) : Host.Outcome State Fault Refusal := finish s (semWaitany bx s)

/-- waitall. -/
def semWaitall (bx : BitVec 6) (s : State) : SlotRes := do
  let m ← s.tagMask bx
  if (s.ftile.tags &&& m) == m then .ok s else s.holdOr 2 0x81 3 2
/-- WAITALL by itself. -/
def execWaitall (bx : BitVec 6) (s : State) : Host.Outcome State Fault Refusal := finish s (semWaitall bx s)

/-- ffr. -/
def semFfr (bx by' : BitVec 6) (s : State) : SlotRes := do
  let m ← s.tagMask by'
  .ok (s.ws bx (BitVec.ofNat 64 (ctzN 64 (s.ftile.tags &&& m).toNat)) 2)
/-- FFR by itself. -/
def execFfr (bx by' : BitVec 6) (s : State) : Host.Outcome State Fault Refusal := finish s (semFfr bx by' s)

/-- tagclr: from the next bundle. -/
def semTagclr (bx : BitVec 6) (s : State) : SlotRes := do
  let m ← s.tagMask bx
  .ok (s.addLate (.tagclr m))
/-- TAGCLR by itself. -/
def execTagclr (bx : BitVec 6) (s : State) : Host.Outcome State Fault Refusal := finish s (semTagclr bx s)

/-! ## Semaphores (R335, R336) -/

/-- Semaphore n with the operations of the cycle applied in their order: sets by context, then increments. -/
def Tile.semNow (t : Tile) (now n : Nat) : BitVec 32 :=
  let ops := t.semQ.filter fun o => o.sem == n && o.cycle ≤ now
  let sets := sortBy (fun o => o.cycle * 8 + o.set.getD 0) (ops.filter fun o => o.set.isSome)
  let base := match sets.getLast? with
    | some o => BitVec.ofNat 32 o.val
    | none => t.sems.get n
  ((ops.filter fun o => o.set.isNone).map fun o => BitVec.ofNat 32 o.val).foldl (· + ·) base
/-- Settle the operations of a cycle into the semaphores. -/
def Tile.semSettle (t : Tile) (now : Nat) : Tile :=
  { t with
    sems := ((t.semQ.filter fun o => o.cycle ≤ now).map (·.sem)).foldl (fun (m : FMap (BitVec 32)) n =>
      m.set n (t.semNow now n)) t.sems
    semQ := t.semQ.filter fun o => now < o.cycle }

/-- semw: holds until sem[n] is at least v, then subtracts it. The operations of the cycle come first (R336). -/
def semSemw (bx : BitVec 6) (n : BitVec 7) (s : State) : SlotRes :=
  let v := (s.rs bx).setWidth 32
  let s := s.modFT fun t => t.semSettle s.now
  let x := s.ftile.sems.get n.toNat
  if v == 0 then .ok s
  else if v.toNat ≤ x.toNat then .ok (s.modFT fun t => { t with sems := t.sems.set n.toNat (x - v) })
  else s.holdOr 3 0x81 3 3
/-- SEMW by itself. -/
def execSemw (bx : BitVec 6) (n : BitVec 7) (s : State) : Host.Outcome State Fault Refusal :=
  finish s (semSemw bx n s)

/-- The cycle in which a SEMSIG or SEMSET of the focus changes its semaphore (R357): issue + 2, or the cycle after the last
slot or port write of the context that has not performed by then. -/
def State.signalAt (s : State) : Nat :=
  let last := (s.ftile.pend.filter fun p => p.ctx == s.focus.ctx).foldl (fun a p => max a p.cycle) 0
  s.now + (if s.t + 2 < last then last + 1 - s.t else 2)
/-- semsig: an increment. -/
def semSemsig (bx : BitVec 6) (n : BitVec 7) (s : State) : SlotRes :=
  let v := (s.rs bx).toNat % 2 ^ 32
  .ok (s.modFT fun t => { t with semQ := t.semQ ++ [⟨s.signalAt, n.toNat, none, v, true⟩] })
/-- SEMSIG by itself. -/
def execSemsig (bx : BitVec 6) (n : BitVec 7) (s : State) : Host.Outcome State Fault Refusal :=
  finish s (semSemsig bx n s)

/-- semset: a set. -/
def semSemset (bx : BitVec 6) (n : BitVec 7) (s : State) : SlotRes :=
  let v := (s.rs bx).toNat % 2 ^ 32
  .ok (s.modFT fun t => { t with semQ := t.semQ ++ [⟨s.signalAt, n.toNat, some s.focus.ctx, v, true⟩] })
/-- SEMSET by itself. -/
def execSemset (bx : BitVec 6) (n : BitVec 7) (s : State) : Host.Outcome State Fault Refusal :=
  finish s (semSemset bx n s)

/-! ## sclose (R337) -/

/-- sclose: nothing where the stream is unbound; else the context's remote window entries for it are applied first. -/
def semSclose (stm : BitVec 7) (s : State) : SlotRes :=
  let f := s.focus
  let n := stm.toNat
  if (s.strm f.die f.tile f.ctx n).bound.isNone then .ok s
  else
    let (s, all) := s.applyWhere f.die f.tile fun e => e.ctx == f.ctx && e.stm == n && padSize ≤ e.va
    if !all || !s.mayClosing f.die f.tile f.ctx n then s.holdOr 1 0x82 3 0
    else .ok (s.closeStream f.die f.tile f.ctx n f.baddr)
/-- SCLOSE by itself. -/
def execSclose (stm : BitVec 7) (s : State) : Host.Outcome State Fault Refusal := finish s (semSclose stm s)

end Sys2Proof.Machine
end

