-- ==== Sys2Proof/Machine/Copy.lean ====
section
/-! DEFINITION. The copy engine: copy, bufset and publish, at commit and in the engine (R305 to R323). -/

namespace Sys2Proof.Machine

/-! ## The commands at commit (R310, R319, R320) -/

/-- Staging fields that a copy reads are out of form (R310). -/
def copyBad (f : CopyF) (l : List DWord) : Bool :=
  let gather := f.dim == 3
  sreg l 0 63 57 != 0 || sreg l 1 63 57 != 0 || sreg l 2 63 32 != 0 || copyLen l == 0
    || (f.dim != 0 && sreg l 3 31 0 == 0) || (f.dim == 2 && sreg l 3 63 32 == 0)
    || (f.sp && (sreg l 8 63 57 != 0 || copyLen l % (8 * copyW f) != 0))
    || (gather && (sreg l 9 63 19 != 0 || sreg l 9 18 0 % 4 != 0 || padSize < sreg l 9 18 0 + 4 * sreg l 3 31 0))

/-- A destination row lies in a window: it is sent as packets. -/
def rowWin (va : Nat) : Bool :=
  match vregion va with
  | .window | .peer => true
  | _ => false
/-- A destination row of the copy lies in a window. -/
def toWindow (f : CopyF) (l : List DWord) : Bool := (copyRows f l fun _ => 0).any fun r => rowWin r.dst
/-- The packets of a copy: pieces of at most 64 bytes of its destination rows in a window (R313). -/
def copyPackets (f : CopyF) (l : List DWord) : Nat :=
  (((copyRows f l fun _ => 0).filter fun r => rowWin r.dst).map fun r => (rowsOf r.dst (copyLen l)).length).sum

/-- copy (R306, R310, R313, R461). -/
def semCopy (f : CopyF) (s : State) : SlotRes := do
  s.mayCommit 1 (some f.setx)
  let l := s.stgCopy 1
  s.hIf (copyBad f l) 0x0D 1
  s.tagH 1 f.tag.toNat
  let x := s.focus
  s.timedH 1 (s.copyTouches x.die x.tile f l)
  if toWindow f l then
    let n := f.stm.toNat
    let st := s.strm x.die x.tile x.ctx n
    let k := copyPackets f l
    s.hIf st.broken 0x63 1 (n + 16 * s.lowestUnacked x.die x.tile x.ctx n)
    if !s.mayReserve x.die x.tile k then .error (.trap { cause := 0x89, kind := 4, eng := 10, status := 1 })
    else
      let s := (s.enter 1 (.copy f) true l { rsv := some (st.next, st.epoch), ents := k }).tagOut f.tag.toNat
      .ok (s.modStrm x.die x.tile x.ctx n fun st => { st with next := (st.next + k) % 4096 })
  else .ok ((s.enter 1 (.copy f) true l).tagOut f.tag.toNat)
/-- COPY by itself. -/
def execCopy (f : CopyF) (s : State) : Host.Outcome State Fault Refusal := finish s (semCopy f s)

/-- bufset (R319). -/
def semBufset (f : BufF) (s : State) : SlotRes := do
  s.mayCommit 1 (some f.setx)
  let l := s.stgCopy 1
  s.hIf (sreg l 10 63 19 != 0 || sreg l 11 63 19 != 0 || sreg l 12 63 19 != 0) 0x0D 1
  s.tagH 1 f.tag.toNat
  .ok ((s.enter 1 (.bufset f) true l).tagOut f.tag.toNat)
/-- BUFSET by itself. -/
def execBufset (f : BufF) (s : State) : Host.Outcome State Fault Refusal := finish s (semBufset f s)

/-- bufset.off (R319). -/
def semBufsetOff (f : BufF) (s : State) : SlotRes := do
  s.mayCommit 1 (some f.setx)
  s.tagH 1 f.tag.toNat
  .ok ((s.enter 1 (.bufsetOff f) true (s.stgCopy 1)).tagOut f.tag.toNat)
/-- BUFSETOFF by itself. -/
def execBufsetOff (f : BufF) (s : State) : Host.Outcome State Fault Refusal := finish s (semBufsetOff f s)

/-- publish (R320). -/
def semPublish (f : PubF) (s : State) : SlotRes := do
  s.mayCommit 1 none
  s.tagH 1 f.tag.toNat
  .ok ((s.enter 1 (.publish f) false []).tagOut f.tag.toNat)
/-- PUBLISH by itself. -/
def execPublish (f : PubF) (s : State) : Host.Outcome State Fault Refusal := finish s (semPublish f s)

/-! ## Rows of a copy (R308 to R312) -/

/-- Expand24 (R309): two packed elements a group and four bits of metadata each. -/
def expand24 (w len : Nat) (src : List Byte) (meta' : Nat) : List Byte :=
  (upFrom 0 (len / (4 * w))).flatMap fun g =>
    let m := meta' / 2 ^ (4 * g) % 16
    let a := (src.drop (2 * g * w)).take w
    let b := (src.drop ((2 * g + 1) * w)).take w
    (upFrom 0 4).flatMap fun i =>
      if m / 4 = i then b else if m % 4 = i then a else List.replicate w 0

/-- A run of bytes crosses from one region into another (R310 kind 6): its ends lie in different ones, or another one lies
between them. -/
def crosses (va n : Nat) : Bool :=
  let a := vregion va
  let e := va + n - 1
  a != vregion e || (a == .window && va / 0x80000 != e / 0x80000)
    || (a == .xlate && va < 0x1000000000 && 0x1000000000 ≤ e)

/-- Read the source of one row and give its destination bytes. -/
def State.copySource (s : State) (w : Who) (f : CopyF) (len : Nat) (r : CopyRow) :
    State × Except AStop (List Byte) :=
  let n := if f.sp then len / 2 else len
  if crosses r.src n then (s, .error (.fault 6 r.src))
  else match s.readRun w .read r.src n with
    | (s, .error e) => (s, .error e)
    | (s, .ok bs) =>
      if !f.sp then (s, .ok bs)
      else
        let k := len / (8 * copyW f)
        if crosses r.meta' k then (s, .error (.fault 6 r.meta'))
        else match s.readRun w .read r.meta' k with
          | (s, .error e) => (s, .error e)
          | (s, .ok m) => (s, .ok (expand24 (copyW f) len bs (leNat m)))

/-- The storage that a virtual address reaches, as a number: a key of this module's memory, or beyond those an address of
another's. -/
def State.storeKey (s : State) (w : Who) (g : Agent) (va : Nat) : Option Nat :=
  if va < padSize then some (s.pad w.die w.tile va)
  else match (s.reach w.die w.asid g va).2 with
    | .error _ => none
    | .ok (.group _ _) => none
    | .ok (.peer m d a x) =>
      if m = s.modnum then some (s.placeKey w.die (.peer m d a x)) else some ((16 + 4 * m + d) * region + a)
    | .ok p => some (s.placeKey w.die p)
/-- The storage that a run of bytes reaches, row by row. -/
def State.storage (s : State) (w : Who) (g : Agent) (va n : Nat) : List (Nat × Nat) :=
  (rowsOf va n).filterMap fun r => (s.storeKey w g r.1).map fun k => (k, r.2)
/-- Two lists of runs have a byte in common. -/
def runsMeet (l m : List (Nat × Nat)) : Bool := l.any fun a => m.any fun b => a.1 < b.1 + b.2 && b.1 < a.1 + a.2
/-- Bytes that the copy also reads receive free values (R312): `srcs` are the runs of storage that it reads, `k` the
storage of the first byte. -/
def freeOverlap (free : Nat) (srcs : List (Nat × Nat)) (k : Nat) (bs : List Byte) : List Byte :=
  if runsMeet [(k, bs.length)] srcs then
    (atAddr k bs).map fun e =>
      if srcs.any fun r => r.1 ≤ e.1 && e.1 < r.1 + r.2 then Config.freeBits 8 (free + e.1 - k) else e.2
  else bs

/-- The effects of the rows of a copy as they stand at its start, up to the first stop. -/
def State.copyRowsEff (s : State) (w : Who) (f : CopyF) (len : Nat) :
    List CopyRow → State × List Eff × Option AStop
  | [] => (s, [], none)
  | r :: l =>
    if crosses r.dst len then (s, [], some (.fault 6 r.dst))
    else match s.copySource w f len r with
      | (s, .error e) => (s, [], some e)
      | (s, .ok bs) =>
        match (if rowWin r.dst then (s, Except.ok []) else s.writeRun w r.dst bs) with
        | (s, .error e) => (s, [], some e)
        | (s, .ok a) =>
          match s.copyRowsEff w f len l with
          | (s, b, e) => (s, a ++ b, e)

/-- Each byte of a faulting copy holds its old or its new value, independently (R311): a free choice. -/
def eitherBytes (free : Nat) (l : List Eff) : List Eff :=
  let cut (k : Nat) (mk : Nat → List Byte → Eff) (a : Nat) (bs : List Byte) : List Eff :=
    ((atAddr a bs).filter fun e => Config.freeNat 8 (free + k + e.1) % 2 == 0).map fun e => mk e.1 [e.2]
  l.flatMap fun e => match e with
    | .own a bs => cut 0 .own a bs
    | .mem a bs => cut 0 .mem a bs
    | .pad d t a bs => cut 0 (.pad d t) a bs
    | .send _ _ => []
    | e => [e]

/-- The endpoints of the destination rows of a window copy (R313): the one, or the trap. -/
def State.copyEndpoint (s : State) (w : Who) (cmd : Cmd) (n : Nat) :
    List (Nat × Nat) → Option Endpoint → State × Except TrapInfo (Option Endpoint)
  | [], e => (s, .ok e)
  | (va, _) :: l, e =>
    let (s, r) := s.reach w.die w.asid .write va
    match r with
    | .error f => (s, .error (cmd.trapC 0x46 f.status va))
    | .ok p =>
      let ep := s.endpoint w.die p
      match e with
      | none => s.copyEndpoint w cmd n l (some ep)
      | some e' => if e' = ep then s.copyEndpoint w cmd n l e else (s, .error (cmd.trapC 0x62 n))

/-- Earlier copy commands of a context are in flight: a fault of a later one waits for them (R311). -/
def State.earlier (s : State) (d t c : Nat) (cmd : Cmd) : Bool :=
  ((s.tile d t).runsOf 1).any fun r => r.ctx == c && r.cmd.ord < cmd.ord
/-- A command goes back unstarted with a trap (R311, R313). -/
def State.bounce (s : State) (d t c : Nat) (cmd : Cmd) (i : TrapInfo) : State :=
  if s.earlier d t c cmd then s else ((s.takeCmd d t c cmd.eng cmd).returnCmd d t c cmd).raiseAt d t c i

/-! ## The rows in time (R302, R313, R321) -/

/-- The largest of the read or write latencies of some addresses (R276), 0 for those of the own scratchpad. -/
def State.largestLat (s : State) (w : Who) (g : Agent) (l : List Nat) : Nat :=
  let timed := (s.car w.die w.tile).timed
  l.foldl (fun a va =>
    if va < padSize then a
    else match (s.reach w.die w.asid g va).2 with
      | .ok p => max a (if g = .write then s.writeLat timed w.die w.tile p else s.readLat timed w.die w.tile p)
      | .error _ => a) 0
/-- The largest read latency of a copy's sources, 0 where all lie in the own scratchpad, and the largest write latency of its
destinations in translated memory (R276). -/
def State.copyLat (s : State) (w : Who) (f : CopyF) (l : List DWord) (rows : List CopyRow) : Nat × Nat :=
  (s.largestLat w .read (rows.flatMap (copyReads f l)),
    s.largestLat w .write ((rows.filter fun r => !rowWin r.dst).flatMap fun r => pagesOf r.dst (copyLen l)))
/-- The pieces of a copy's rows in aligned destination rows, with the numbers of those (R313): each aligned row has one, in
the order in which the copy first touches it. Packets go in the order of R308, each piece with a number of its own. -/
def copyPieces (win : Bool) (len : Nat) (rows : List CopyRow) : List (Nat × CopyRow × Nat × Nat) :=
  let l := rows.flatMap fun r => (rowsOf r.dst len).map fun p => (r, p.1 - r.dst, p.2)
  if win then (upFrom 0 l.length).zip l
  else
    let at' (e : CopyRow × Nat × Nat) : Nat := (e.1.dst + e.2.1) / 64
    let seen := (l.map at').eraseDups
    sortBy (fun (e : Nat × CopyRow × Nat × Nat) => e.1) (l.map fun e => (seen.idxOf (at' e), e))
/-- The destination rows of a copy that starts at a clock, with their cycles (R313). The cycle of a read, which the spec
leaves open, is two before the write in the own scratchpad, half the latency after the request elsewhere; a packet leaves in the
cycle in which a row of that number would be written to the own scratchpad: DESIGN CHOICE (log 93). -/
def copyJobs (own : Bool) (start lr lw len : Nat) (win : Bool) (rows : List CopyRow) : List CopyJob :=
  (copyPieces win len rows).map fun e =>
    let q := e.1
    let va := e.2.1.dst + e.2.2.1
    { rd := if own then start + 1 + q else start + lr / 2 + q
      wr := (if own then start + 3 + q else start + lr + 1 + q) + if va < padSize || rowWin va then 0 else lw
      row := e.2.1, off := e.2.2.1, len := e.2.2.2, data := none }
/-- The cycle from which a copy may set its tag (R313): two after the next row would be written to the own scratchpad, or the
cycle of its last write to translated memory; a copy that sends packets waits for them alone. -/
def copyDone (start : Nat) (jobs : List CopyJob) : Nat :=
  jobs.foldl (fun a j =>
    let va := j.row.dst + j.off
    max a (if rowWin va then start else if va < padSize then j.wr + 2 else j.wr)) start

/-- Read a run of bytes for a read access with its bound halves. -/
def State.readBound (s : State) (w : Who) (va n : Nat) (l : List Bound) :
    State × List Bound × Except AStop (List Byte) :=
  s.inHalves w va n l fun s => s.readRun w .read va n
/-- The groups of four elements that bytes off to off + n − 1 of an expanded row lie in: the first, and how many. -/
def groupsOf (w off n : Nat) : Nat × Nat := (off / (4 * w), (off + n - 1) / (4 * w) + 1 - off / (4 * w))
/-- Read what a destination row needs (R308, R309). -/
def State.readJob (s : State) (wh : Who) (f : CopyF) (l : List Bound) (j : CopyJob) :
    State × List Bound × Except AStop (List Byte) :=
  if !f.sp then s.readBound wh (j.row.src + j.off) j.len l
  else
    let w := copyW f
    let (g, k) := groupsOf w j.off j.len
    match s.readBound wh (j.row.src + 2 * w * g) (2 * w * k) l with
    | (s, l, .error e) => (s, l, .error e)
    | (s, l, .ok bs) =>
      match s.readBound wh (j.row.meta' + g / 2) ((g + k + 1) / 2 - g / 2) l with
      | (s, l, .error e) => (s, l, .error e)
      | (s, l, .ok m) =>
        (s, l, .ok (((expand24 w (4 * w * k) bs (leNat m / 2 ^ (4 * (g % 2)))).drop (j.off - 4 * w * g)).take j.len))
/-- A copy reads its rows that are due, in order (R313): a depot slot that is not published holds it (R294); a fault or
poison ends it, with what it has not written old or new (R311). -/
def State.readJobs (s : State) (d t : Nat) (f : CopyF) : Nat → Run → State × Run
  | 0, r => (s, r)
  | k + 1, r =>
    let w := s.who d t r.ctx
    match r.jobs.find? fun j => j.data.isNone with
    | none => (s, r)
    | some j =>
      if s.clock d t < j.rd || s.scrubbing w .read (j.row.src + j.off) then (s, r)
      else match s.readJob w f r.bound j with
        | (s, _, .error (.tier false va)) => (s.holdAt d t r.ctx (s.tierKind d w.asid va), r)
        | (s, _, .error e) =>
          let left := r.jobs.flatMap fun j => match j.data, s.writeRun w (j.row.dst + j.off) (j.data.getD []) with
            | some _, (_, .ok l) => if rowWin (j.row.dst + j.off) then [] else l
            | _, _ => []
          ({ s with freeCtr := s.freeCtr + 1 },
            { r with jobs := [], eff := eitherBytes s.freeCtr left, trap := some (e.info 0x46 r.cmd), done := s.clock d t })
        | (s, l, .ok bs) =>
          let s := s.endHold d t r.ctx 8
          let bs := match s.storeKey w .write (j.row.dst + j.off) with
            | some k => freeOverlap s.freeCtr r.reads k bs
            | none => bs
          let mark (x : CopyJob) : CopyJob := if x == j then { x with data := some bs } else x
          { s with freeCtr := s.freeCtr + 64 }.readJobs d t f k { r with jobs := r.jobs.map mark, bound := l }

/-- The binding in which a copy that starts sends, and why it may not (R313): that of its reserved numbers; the current one,
with fresh numbers, where it starts again and that binding has been closed. `e` is the endpoint of its rows. A closed binding
whose close is not under way has broken. -/
def State.copyBinding (s : State) (d t c n : Nat) (cmd : Cmd) (e : Endpoint) :
    Except TrapInfo (Nat × Nat × Bool) :=
  let st := s.strm d t c n
  let at' (b : Option Endpoint) (r : Nat × Nat × Bool) : Except TrapInfo (Nat × Nat × Bool) :=
    if (b.map (· == e)).getD true then .ok r else .error (cmd.trapC 0x62 n)
  let (seq, ep) := cmd.rsv.getD (st.next, st.epoch)
  if ep = st.epoch || cmd.back then
    if st.broken then .error (cmd.trapC 0x63 (n + 16 * s.lowestUnacked d t c n))
    else at' (s.strmTo d t c n)
      (if ep = st.epoch && cmd.rsv.isSome then (seq, ep, false) else (st.next, st.epoch, true))
  else match s.unackedAt d t c n ep with
    | p :: _ => at' (some p.dst) (seq, ep, false)
    | [] => .error (cmd.trapC 0x63 (n + 16 * seq))
/-- Start a copy (R308 to R313). A translation that its stream lacks delays it (R311, R385), a depot slot that is not
published holds it (R294). -/
def State.copyBegin (s : State) (d t c : Nat) (cmd : Cmd) (f : CopyF) : State :=
  let w := s.who d t c
  let l := cmd.stg
  let len := copyLen l
  let win := toWindow f l
  let n := f.stm.toNat
  let rows := copyRows f l (s.gatherIdx d t l)
  let sent := rows.filter fun r => rowWin r.dst
  let (s, ready) := s.genReady w 1 (rows.flatMap fun r => copyReads f l r ++ pagesOf r.dst len)
  if !ready then s
  else
  let k := copyPackets f l
  let (s, ep) : State × Except TrapInfo (Option Endpoint) :=
    if win then s.copyEndpoint w cmd n (sent.flatMap fun r => rowsOf r.dst len) none else (s, .ok none)
  let bind : Except TrapInfo (Option (Endpoint × Nat × Nat × Bool)) := match ep with
    | .error i => .error i
    | .ok none => .ok none
    | .ok (some e) => (s.copyBinding d t c n cmd e).map fun b => some (e, b)
  match bind with
  | .error i => s.bounce d t c cmd i
  | .ok b =>
    if (b.map fun x => !s.mayDepartAt d t c n x.2.2.1).getD false then
      if (s.car d t).timed then s.bounce d t c cmd (cmd.trapC 0x82) else s.holdEng d t c
    else if f.dim == 3 && s.ownPoison d t (sreg l 9 18 0) (4 * copyN1 f l) then
      (s.meetPad d t (sreg l 9 18 0) (4 * copyN1 f l)).bounce d t c cmd (cmd.trapC 0xA0 0 (sreg l 9 18 0))
    else
      let (s1, eff, stop) := s.copyRowsEff w f len rows
      match stop with
      | some (.tier false va) => s.holdAt d t c (s.tierKind d w.asid va)
      | some e =>
        if s.earlier d t c cmd then s
        else
          let s := (s1.takeCmd d t c 1 cmd).applyEffs d t c (eitherBytes s1.freeCtr eff)
          ({ s with freeCtr := s.freeCtr + 1 }.returnCmd d t c cmd).raiseAt d t c (e.info 0x46 cmd)
      | none =>
        let s := (s1.endHold d t c 8).unholdEng d t c
        let now := s.clock d t
        let own := (rows.flatMap (copyReads f l)).all (· < padSize)
        let (lr, lw) := s.copyLat w f l rows
        let jobs := copyJobs own now lr lw len win rows
        let reads := rows.flatMap fun r => s.storage w .read r.src (copySrcLen f l)
          ++ if f.sp then s.storage w .read r.meta' (copyMetaLen f l) else []
        let (s, cmd') : State × Cmd := match b with
          | none => (s, cmd)
          | some (e, seq, ep, fresh) =>
            (if ep = (s.strm d t c n).epoch then
                s.modStrm d t c n fun st => { st.bindTo e with next := if fresh then (st.next + k) % 4096 else st.next }
              else s, { cmd with rsv := some (seq, ep) })
        let s := (s.startRun d t c { cmd' with prog := 0 } now (copyDone now jobs) [] none 0).modTile d t fun x => x.unpipe 1
        s.modTile d t fun x => { x with runs := x.runs.map fun r =>
          if r.cmd.ord = cmd.ord then { r with jobs := jobs, reads := reads } else r }

/-! ## bufset and publish (R318 to R320) -/

/-- Writes in flight to a range of a tile's scratchpad: slot and port writes, those of started commands of any tile, and
packets (R319). -/
def State.writesTo (s : State) (d t a n : Nat) : Bool :=
  let hits (d' t' x m : Nat) : Bool := d' == d && t' == t && meets x m a n
  let pkt (p : Pkt) : Bool := p.dst.module == s.modnum && p.dst.kind == 0 && hits p.dst.die p.dst.idx (p.addr % 0x80000) p.len
  ((s.tile d t).pend.any fun p => s.clock d t < p.tick (s.tile d t).lag && p.bytes.any fun e => meets e.1 1 a n)
    || s.tiles.any (fun e =>
      let d' := e.1 / 512
      let t' := e.1 % 512
      e.2.runs.any fun r =>
        r.eff.any (fun x => match x with
          | .own b bs => hits d' t' b bs.length
          | .pad d'' t'' b bs => hits d'' t'' b bs.length
          | _ => false)
        || r.jobs.any fun j => match s.padOf (s.who d' t' r.ctx) .write (j.row.dst + j.off) with
          | some (d'', t'', x) => hits d'' t'' x j.len
          | none => false)
    || s.net.any (fun x => match x.flit with
      | .pkt p | .refused p | .timed p => pkt p
      | _ => false)
    || s.trackers.any fun e => e.2.reorder.any pkt

/-- The descriptor that bufset asks for. -/
def bufOf (l : List DWord) : Buf := ⟨true, sreg l 10 18 0, sreg l 11 18 0, sreg l 12 18 0, false⟩
/-- It is invalid beside the other enabled descriptors (R319). -/
def bufBad (b : Buf) (n : Nat) (bufs : FMap Buf) : Bool :=
  b.pub % 64 != 0 || b.hid % 64 != 0 || b.size % 64 != 0 || b.size == 0 || 0x30000 < b.size
    || padSize < b.pub + b.size || padSize < b.hid + b.size || meets b.pub b.size b.hid b.size
    || bufs.any fun e => e.1 != n && e.2.en
      && (meets b.pub b.size e.2.pub e.2.size || meets b.pub b.size e.2.hid e.2.size
        || meets b.hid b.size e.2.pub e.2.size || meets b.hid b.size e.2.hid e.2.size)
/-- Writes are in flight to the ranges of a descriptor. -/
def State.bufBusy (s : State) (d t : Nat) (b : Buf) : Bool :=
  s.writesTo d t b.pub b.size || s.writesTo d t b.hid b.size
/-- An enabled descriptor may not change yet: a read is bound to one of its halves, or writes are in flight (R319). -/
def State.bufKept (s : State) (d t n : Nat) : Bool :=
  let b := (s.tile d t).bufs.get n
  b.en && (s.bufBusy d t b || s.boundTo d t n true || s.boundTo d t n false)

/-- A command may start now: nothing of its context's publish is still waiting (R320). -/
def State.copyNext (s : State) (d t : Nat) : Option (Nat × Cmd) :=
  match s.nextCmd d t 1 with
  | some (c, cmd) =>
    if s.ripe d t cmd && ((s.tile d t).runsOf 1).length < 4
        && !((s.tile d t).runs.any fun r => r.ctx == c && (match r.cmd.instr with
          | .publish _ => true
          | _ => r.cmd.eng == 1 && r.trap.isSome)) then some (c, cmd)
    else none
  | none => none

/-- COPY_COMMAND_START (R313): started copies read the rows that are due, and the next one starts. -/
def execCopyCommandStart (die tile : Nat) (s : State) : Host.Outcome State Fault Refusal :=
  let s := ((s.tile die tile).runsOf 1).foldl (fun s r => match r.cmd.instr with
    | .copy f =>
      let (s, r') := s.readJobs die tile f r.jobs.length r
      s.modTile die tile fun x => x.putRun r'
    | _ => s) s
  .next (match s.copyNext die tile with
    | some (c, cmd) => match cmd.instr with
      | .copy f => s.copyBegin die tile c cmd f
      | _ => s
    | none => s)

/-- BUFSET_START (R319): it takes effect as it starts, and its tag is set 1 cycle later. -/
def execBufsetStart (die tile : Nat) (s : State) : Host.Outcome State Fault Refusal :=
  .next (match s.copyNext die tile with
    | some (c, cmd) =>
      let now := s.clock die tile
      let bufs := (s.tile die tile).bufs
      match cmd.instr with
      | .bufset f =>
        let n := f.buf.toNat
        let b := bufOf cmd.stg
        if s.bufKept die tile n || s.bufBusy die tile b then s
        else if bufBad b n bufs then s.bounce die tile c cmd (cmd.trapC 0x67 n)
        else (s.startRun die tile c cmd now (now + 1) [] none 0).modTile die tile fun x =>
          { x with bufs := x.bufs.set n b }
      | .bufsetOff f =>
        let n := f.buf.toNat
        if s.bufKept die tile n then s
        else (s.startRun die tile c cmd now (now + 1) [] none 0).modTile die tile fun x =>
          { x with bufs := x.bufs.set n { x.bufs.get n with en := false } }
      | _ => s
    | none => s)

/-- A publish waits for nothing more (R320): the context's earlier commands, the effects of its scope from before its
header, and the slot writes to the descriptor's ranges. -/
def State.publishReady (s : State) (d t c : Nat) (cmd : Cmd) (f : PubF) : Bool :=
  let b := (s.tile d t).bufs.get f.buf.toNat
  let earlier (m : Cmd) : Bool := m.ord < cmd.ord
  !((s.ctx d t c).e.queue.any earlier) && !((s.tile d t).runs.any fun r => r.ctx == c && earlier r.cmd)
    && s.fenceDone d t c f.scope.toNat cmd.ord cmd.at'
    && !((s.tile d t).pend.any fun p => s.clock d t < p.tick (s.tile d t).lag && p.bytes.any fun e =>
      meets e.1 1 b.pub b.size || meets e.1 1 b.hid b.size)

/-- PUBLISH_SWAP (R320): a publish starts; once it waits for nothing more the halves are exchanged, and its tag
is set 1 cycle later. -/
def execPublishSwap (die tile : Nat) (s : State) : Host.Outcome State Fault Refusal :=
  let s := match s.copyNext die tile with
    | some (c, cmd) => match cmd.instr with
      | .publish f =>
        if ((s.tile die tile).bufs.get f.buf.toNat).en then
          s.startRun die tile c cmd (s.clock die tile) (s.clock die tile) [] none 1
        else s.bounce die tile c cmd (cmd.trapC 0x68 f.buf.toNat)
      | _ => s
    | none => s
  .next (((s.tile die tile).runs.filter fun r => r.prog == 1).foldl (fun s r =>
    match r.cmd.instr with
    | .publish f =>
      if s.publishReady die tile r.ctx r.cmd f then
        s.modTile die tile fun x =>
          let b := x.bufs.get f.buf.toNat
          { x with bufs := x.bufs.set f.buf.toNat { b with g := !b.g } }.putRun
            { r with prog := 0, done := s.clock die tile + 1 }
      else s
    | _ => s) s)

/-! ## Writing and completion (R313, R314) -/

/-- Where the packets of a tile write that are not yet acknowledged, by storage. -/
def Pkt.storage (p : Pkt) (s : State) : Nat × Nat :=
  (if p.dst.module = s.modnum then s.placeKey p.dst.die (match p.dst.kind with
      | 0 => .tile p.dst.idx (p.addr % 0x80000)
      | 2 => .host p.addr
      | 4 => .tier p.addr
      | _ => .die p.dst.die p.addr)
    else (16 + 4 * p.dst.module + p.dst.die) * region + p.addr, p.len)
/-- Storage that an earlier copy of the context has still to write (R313): rows not written, and packets not acknowledged,
but for those of the stream in which this one sends. -/
def State.copyAhead (s : State) (d t : Nat) (r : Run) (stm : Option Nat) : List (Nat × Nat) :=
  let w := s.who d t r.ctx
  (((s.tile d t).runsOf 1).filter fun y => y.ctx == r.ctx && y.cmd.ord < r.cmd.ord).flatMap fun y =>
    let mine : Option Nat := match y.cmd.instr with
      | .copy f => if y.cmd.rsv.isSome then some f.stm.toNat else none
      | _ => none
    if stm.isSome && mine == stm then []
    else (y.jobs.flatMap fun j => s.storage w .write (j.row.dst + j.off) j.len)
      ++ ((s.tile d t).retx.filter fun p => p.src.ctx == r.ctx && p.eng == 5 && p.cmd == some y.cmd.idx).map
        fun p => p.storage s
/-- The tile that a row of a copy is written to is being scrubbed, or a read is bound to the half that it would reach. -/
def State.rowKept (s : State) (w : Who) (va n : Nat) : Bool :=
  match s.padOf w .write va with
  | some (d, t, x) => s.now < (s.tile d t).scrubAt || s.hiddenHeld d t x n
  | none => false
/-- A row that has come from elsewhere may meet a parity error in the buffer behind its link (R449): the context takes
0xA7. -/
def State.rowParity (s : State) (w : Who) (ctx x n : Nat) (own : Bool) (baddr : Nat) : State :=
  if own then s
  else
    let (s, bad, st) := s.bufferError w.die w.tile x n
    if bad then s.raiseAt w.die w.tile ctx { cause := 0xA7, kind := 5, eng := 13, status := st, baddr := some baddr } else s
/-- Send one row of a window copy as a packet, with its reserved number (R313, R325). -/
def State.sendRow (s : State) (d t : Nat) (r : Run) (n seq ep : Nat) (j : CopyJob) (bs : List Byte) : Option State × Run :=
  let (s', p) := s.reach d (s.car d t).asid .write (j.row.dst + j.off)
  match p with
    | .error e => (none, { r with jobs := [], trap := some (r.cmd.trapC 0x46 e.status (j.row.dst + j.off)) })
    | .ok p =>
      (some (s'.emit d t r.ctx n ((seq + r.cmd.prog) % 4096) ep
        { kind := .store, place := p, data := bs, len := bs.length, baddr := r.cmd.baddr, cmd := some r.cmd.idx,
          eng := 5, ord := some r.cmd.ord }), { r with cmd := { r.cmd with prog := r.cmd.prog + 1 } })
/-- A copy that has to wait, with hold kind 1; under a timetable that is a deviation (R277). -/
def State.copyWaits (s : State) (d t : Nat) (r : Run) : State × Run :=
  if (s.car d t).timed then (s, { r with jobs := [], trap := some (r.cmd.trapC 0x82), done := s.clock d t })
  else (s.holdEng d t r.ctx, r)
/-- Write a copy's rows that are due, in order (R313), as packets or in place; `fuel` bounds them. One that would write
before an earlier copy of the context, or to a half that is read, waits. -/
def State.writeJobs (s : State) (d t : Nat) : Nat → Run → State × Run
  | 0, r => (s, r)
  | k + 1, r =>
    match r.cmd.instr, r.jobs with
    | .copy f, j :: rest =>
      let w := s.who d t r.ctx
      let va := j.row.dst + j.off
      let n := f.stm.toNat
      let win := rowWin va
      match j.data with
      | none => (s, r)
      | some bs =>
        if s.clock d t < j.wr || r.lost
            || runsMeet (s.storage w .write va j.len) (s.copyAhead d t r (if win then some n else none)) then (s, r)
        else if win then
          match r.cmd.rsv with
          | none => (s, r)
          | some (seq, ep) =>
            if !s.mayDepartAt d t r.ctx n ep then s.copyWaits d t r
            else match s.sendRow d t r n seq ep j bs with
              | (none, r) => (s, { r with done := s.clock d t })
              | (some s, r) => (s.unholdEng d t r.ctx).writeJobs d t k { r with jobs := rest }
        else if s.rowKept w va j.len then s.copyWaits d t r
        else match s.writeRun w va bs with
          | (s, .error e) => (s, { r with jobs := [], trap := some (e.info 0x46 r.cmd), done := s.clock d t })
          | (s, .ok l) =>
            let s := ((s.unholdEng d t r.ctx).applyEffs d t r.ctx l)
            let s := if va < padSize then
                s.rowParity w r.ctx va j.len (j.row.src < padSize) r.cmd.baddr else s
            s.writeJobs d t k { r with jobs := rest }
    | _, _ => (s, r)

/-- Packets of a command are unacknowledged. -/
def State.cmdUnacked (s : State) (d t : Nat) (r : Run) : Bool :=
  (s.tile d t).retx.any fun p => p.src.ctx == r.ctx && p.eng == 5 && p.cmd == some r.cmd.idx
/-- The later copy commands of a context whose copy has met a fault go back unstarted (R311). Of what they have written, the
bytes stay: DESIGN CHOICE (log 108). -/
def State.backLater (s : State) (d t : Nat) : State :=
  let l := (s.tile d t).runsOf 1
  (l.filter fun r => l.any fun y => y.ctx == r.ctx && y.trap.isSome && y.cmd.ord < r.cmd.ord).foldl
    (fun s r => (s.modTile d t fun x => x.dropRun r).returnCmd d t r.ctx r.cmd) s

/-- COPY_COMMAND_COMPLETE (R313): the rows that are due are written or depart; a copy, bufset or publish whose effects are
all there ends and its tag is set; one whose stream broke goes back unstarted, and one that met a fault once the context's
earlier ones have ended (R311). -/
def execCopyCommandComplete (die tile : Nat) (s : State) : Host.Outcome State Fault Refusal :=
  let s := ((s.tile die tile).runsOf 1).foldl (fun s r =>
    let (s, r') := s.writeJobs die tile r.jobs.length r
    s.modTile die tile fun x => x.putRun r') s
  let s := s.backLater die tile
  .next ((((s.tile die tile).runsOf 1).filter fun r => (r.done ≤ s.clock die tile || r.lost) && r.prog == 0).foldl (fun s r =>
    if r.lost then (s.modTile die tile fun x => x.dropRun r).returnCmd die tile r.ctx r.cmd
    else if r.trap.isSome then (if s.earlier die tile r.ctx r.cmd then s else s.finishRun die tile r)
    else if !r.jobs.isEmpty || (r.cmd.rsv.isSome && s.cmdUnacked die tile r) then s
    else s.finishRun die tile r) s)

end Sys2Proof.Machine
end

