-- ==== Sys2Proof/Machine/Quire.lean ====
section
/-! DEFINITION. The quire instructions of the vector slots (R199 to R204). -/

namespace Sys2Proof.Machine

/-- The value that a chaining instruction adds to (R202): what the open chain leaves, or q as read. -/
def State.chainBase (s : State) (n : Nat) : Row :=
  match openChain s.fctx.r.qW n s.t with
  | some p => p.val
  | none => s.rq n

/-- Add the terms of the enabled elements to a quire, in a chain (R202, R203). -/
def State.quireOp (s : State) (f : VF) (srcs : List (BitVec 8 × Nat)) (bound : Nat)
    (term : List (BitVec 8 × VReg) → List Val) : SlotRes := do
  let en := s.enabled f (vfW f) (vfN f)
  let (s, got) ← s.sources srcs
  let l := ((en.zip (term got)).filter (·.1)).map (·.2)
  let r := quireSum (vfFmt f).isF (s.chainBase f.vd.toNat) l
  .ok ((s.wqChain f.vd.toNat r.1 bound).wf r.2 bound)

/-- The elements of A as values. -/
def termsA (f : VF) (got : List (BitVec 8 × VReg)) : List Val :=
  (elems (vfW f) (vfN f) (pick got f.va)).map (vfFmt f).dec

/-- QuireAdd of two quires (R203). -/
def quireAddQ (a b : Row) (neg : Bool) : Row × Flags :=
  if b = quireNaR then (quireNaR, 0) else quireAddI a (if neg then -b.toInt else b.toInt)

/-- The address of QSAVE and QLOAD, with the checks of R204. -/
def State.quireAddr (s : State) (f : VF) : Try Nat := do
  let a := (s.rsV f.va).toNat
  trapIf (a % 64 != 0) 0x42 2 0 a
  trapIf (padBad a 64) 0x43 2 0 a
  .ok a

/-- qclr: q ← 0. -/
def semQclr (f : VF) (s : State) : SlotRes :=
  .ok (s.wq f.vd.toNat 0 2)
/-- QCLR by itself. -/
def execQclr (f : VF) (s : State) : Host.Outcome State Fault Refusal := finish s (semQclr f s)

/-- qadd: every enabled element is added exactly. -/
def semQadd (f : VF) (s : State) : SlotRes :=
  s.quireOp f [(f.va, vh f)] (vocc f + 6) (termsA f)
/-- QADD by itself. -/
def execQadd (f : VF) (s : State) : Host.Outcome State Fault Refusal := finish s (semQadd f s)

/-- qsub: every enabled element is subtracted exactly. -/
def semQsub (f : VF) (s : State) : SlotRes :=
  s.quireOp f [(f.va, vh f)] (vocc f + 6) fun g => (termsA f g).map Val.negate
/-- QSUB by itself. -/
def execQsub (f : VF) (s : State) : Host.Outcome State Fault Refusal := finish s (semQsub f s)

/-- qdot: every enabled product is added exactly; B is decoded at BES. -/
def semQdot (f : VF) (s : State) : SlotRes :=
  s.quireOp f [(f.va, vh f), (f.vb, vh f)] (vocc f + 8) fun g =>
    let b := (elems (vfW f) (vfN f) (pick g f.vb)).map (tyFmt f.ty.toNat (f.vc.toNat % 4)).dec
    ((termsA f g).zip b).map fun e => tapProd e.1 e.2
/-- QDOT by itself. -/
def execQdot (f : VF) (s : State) : Host.Outcome State Fault Refusal := finish s (semQdot f s)

/-- qaddq. -/
def semQaddq (f : VF) (s : State) : SlotRes :=
  let r := quireAddQ (s.rq f.va.toNat) (s.rq f.vb.toNat) false
  .ok ((s.wq f.vd.toNat r.1 4).wf r.2 4)
/-- QADDQ by itself. -/
def execQaddq (f : VF) (s : State) : Host.Outcome State Fault Refusal := finish s (semQaddq f s)

/-- qsubq. -/
def semQsubq (f : VF) (s : State) : SlotRes :=
  let r := quireAddQ (s.rq f.va.toNat) (s.rq f.vb.toNat) true
  .ok ((s.wq f.vd.toNat r.1 4).wf r.2 4)
/-- QSUBQ by itself. -/
def execQsubq (f : VF) (s : State) : Host.Outcome State Fault Refusal := finish s (semQsubq f s)

/-- qneg: exact; the image of NaR is its own negative. -/
def semQneg (f : VF) (s : State) : SlotRes :=
  .ok (s.wq f.vd.toNat (-(s.rq f.va.toNat)) 4)
/-- QNEG by itself. -/
def execQneg (f : VF) (s : State) : Host.Outcome State Fault Refusal := finish s (semQneg f s)

/-- qrnd: rounded once, zero-extended (R132). -/
def semQrnd (f : VF) (s : State) : SlotRes :=
  let r := quireRound (vfFmt f) f.rm.toNat (s.rq f.va.toNat)
  .ok ((s.ws (f.vd.setWidth 6) (BitVec.ofNat 64 r.1) 8).wf r.2 8)
/-- QRND by itself. -/
def execQrnd (f : VF) (s : State) : Host.Outcome State Fault Refusal := finish s (semQrnd f s)

/-- qsave: the image, written at issue + 2 (R204). -/
def semQsave (f : VF) (s : State) : SlotRes :=
  do
  let a ← s.quireAddr f
  .ok (s.padWrite (s.t + 2) (atAddr a (rowBytes (s.rq f.vb.toNat))))
/-- QSAVE by itself. -/
def execQsave (f : VF) (s : State) : Host.Outcome State Fault Refusal := finish s (semQsave f s)

/-- qload: the image, read at issue + 1 (R204); a poisoned row delivers nothing (R451). -/
def semQload (f : VF) (s : State) : SlotRes :=
  do
  let a ← s.quireAddr f
  let (s', bad) := s.padTake [(s.t + 1, a, 64)]
  if bad then .ok s' else .ok (s'.wq f.vd.toNat (s.padRow (s.t + 1) a) 4)
/-- QLOAD by itself. -/
def execQload (f : VF) (s : State) : Host.Outcome State Fault Refusal := finish s (semQload f s)

/-- qtov: the image to row 0. -/
def semQtov (f : VF) (s : State) : SlotRes :=
  s.dest f.vd 1 (rowMask 1) ((s.rq f.va.toNat).zeroExtend 8192) 4
/-- QTOV by itself. -/
def execQtov (f : VF) (s : State) : Host.Outcome State Fault Refusal := finish s (semQtov f s)

/-- vtoq: row 0 as an image. -/
def semVtoq (f : VF) (s : State) : SlotRes :=
  do
  let (s, got) ← s.sources [(f.va, 1)]
  .ok (s.wq f.vd.toNat (rowOf (pick got f.va) 0) 3)
/-- VTOQ by itself. -/
def execVtoq (f : VF) (s : State) : Host.Outcome State Fault Refusal := finish s (semVtoq f s)

end Sys2Proof.Machine
end

