-- ==== Sys2Proof/Machine/Waybill.lean ====
section
/-! DEFINITION. Waybills (R241, R242, R248), launching them from a program (R268, R275), and HADV (R295). -/

namespace Sys2Proof.Machine

/-! ## Fields (R241) -/

/-- Bits h to l of the doubleword at an offset of an image. -/
def wbf (img : List Byte) (off h l : Nat) : Nat := leNat ((img.drop off).take 8) / 2 ^ l % 2 ^ (h + 1 - l)
/-- VER. -/
def wVer (i : List Byte) : Nat := wbf i 0 63 48
/-- ASID. -/
def wAsid (i : List Byte) : Nat := wbf i 0 47 32
/-- LDIE. -/
def wLdie (i : List Byte) : Nat := wbf i 0 31 30
/-- MODE. -/
def wMode (i : List Byte) : Nat := wbf i 0 29 28
/-- FO. -/
def wFo (i : List Byte) : Bool := wbf i 0 27 27 == 1
/-- PRIO. -/
def wPrio (i : List Byte) : Nat := wbf i 0 26 25
/-- Contexts of a caravan: NCTX + 1. -/
def wNctx (i : List Byte) : Nat := wbf i 0 24 23 + 1
/-- LH. -/
def wLh (i : List Byte) : Nat := wbf i 0 22 20
/-- LW. -/
def wLw (i : List Byte) : Nat := wbf i 0 19 17
/-- Caravans: NCAR + 1. -/
def wNcar (i : List Byte) : Nat := wbf i 0 16 7 + 1
/-- LEASE; 0, and version 1, mean 16. -/
def wLease (i : List Byte) : Nat := if wVer i = 1 || wbf i 0 6 0 = 0 then 16 else wbf i 0 6 0
/-- ENTRY. -/
def wEntry (i : List Byte) : Nat := wbf i 0x08 56 0
/-- HAUL. -/
def wHaul (i : List Byte) : Nat := wbf i 0x10 56 0
/-- E3; version 1 has 1. -/
def wE3 (i : List Byte) : Nat := if wVer i = 1 then 1 else wbf i 0x48 15 0
/-- K5. -/
def wK5 (i : List Byte) : Nat := wbf i 0x50 63 0
/-- PROW and PCOL. -/
def wPos (i : List Byte) : Nat × Nat := (wbf i 0x58 8 5, wbf i 0x58 4 0)
/-- TTAB. -/
def wTtab (i : List Byte) : Nat := wbf i 0x60 56 0
/-- TAGM of a context. -/
def wTagm (i : List Byte) (n : Nat) : Nat := wbf i (0x68 + 16 * n) 63 0
/-- BBUD of a context. -/
def wBbud (i : List Byte) (n : Nat) : Nat := wbf i (0x70 + 16 * n) 22 16
/-- VGM of a context. -/
def wVgm (i : List Byte) (n : Nat) : Nat := wbf i (0x70 + 16 * n) 15 0
/-- Width of a level of the work identifier (R248). -/
def wWid (i : List Byte) (n : Nat) : Nat := wbf i 0x40 (7 * n + 6) (7 * n)

/-- Dependence d is met (R245). -/
def State.depMet (s : State) (die : Nat) (i : List Byte) (d : Nat) : Bool :=
  wbf i (0x18 + 8 * d) 63 63 == 0
    || ((s.die die).ccnt.get (wbf i (0x18 + 8 * d) 37 32) - BitVec.ofNat 32 (wbf i (0x18 + 8 * d) 31 0)).toNat < 2 ^ 31

/-! ## Queues (R243) -/

/-- Append a waybill to a queue of a die with the next entry number, LASTENT from then on (R243, R406); the caller has
checked for room. -/
def State.append (s : State) (d q : Nat) (img : List Byte) : State :=
  s.modDie d fun x =>
    { x with
      queues := x.queues.set q (x.queues.get q ++ [⟨x.entNo, img⟩])
      entNo := x.entNo + 1
      qwin := x.qwin.modify q fun w => { w with lastent := x.entNo } }
/-- A queue has room. -/
def State.queueRoom (s : State) (d q : Nat) : Bool := ((s.die d).queues.get q).length < 32

/-! ## launch and ttstart (R268, R275) -/

/-- Check the image address as a 256-byte vector access. -/
def launchAddr (a : Nat) : Try Unit := do
  trapIf (a % 64 != 0) 0x42 3 0 a
  match ((upFrom 0 4).map fun q => a + 64 * q).find? fun x => padBad x 64 with
  | some x => trapB 0x43 3 0 x
  | none => .ok ()
/-- Four rows of an image, which the lead reads from t + 1 to t + 4, one in each cycle: DEDUCED (log 109). -/
def State.imageRows (s : State) (a : Nat) : VReg :=
  ofRows ((upFrom 0 4).map fun q => s.padRow (s.t + 1 + q) (a + 64 * q))
/-- The image: the rows read before the bundle, or read now where it stands alone. -/
def State.image (s : State) (a : Nat) : List Byte :=
  let v := match s.fctx.early.find? 7 with
    | some v => v
    | none => s.imageRows a
  leBytes 256 v.toNat
/-- What makes a launch invalid (R268, R275). -/
def State.launchBad (s : State) (timed : Bool) (i : List Byte) : Bool :=
  let c := s.car s.focus.die s.focus.tile
  !(wVer i == 1 || wVer i == 2) || wAsid i != c.asid || wLdie i != s.focus.die
    || (if timed then wMode i != 1 || wTtab i == 0 else wMode i != 0 && wMode i != 2)
/-- Decision: whether the queue takes the image, in bit 0 (R421). -/
def decLaunch (q : BitVec 7) (s : State) : Decision :=
  { (default : Decision) with res := some (s.queueRoom s.focus.die q.toNat).toNat }
/-- LAUNCH and TTSTART: the lead checks and appends; every tile writes the status with bound 12. -/
def State.launchOp (s : State) (timed : Bool) (bx by' : BitVec 6) (q : BitVec 7) : SlotRes := do
  let d := s.decOf (decLaunch q s)
  let st := d.res.getD 0 % 2
  if !s.deciding then .ok (s.ws by' (BitVec.ofNat 64 st) 12)
  else do
    let a := (s.rs bx).toNat
    launchAddr a
    let img := s.image a
    trapIf (s.launchBad timed img) 0x93 3
    let s := if st = 1 then s.append s.focus.die q.toNat img else s
    .ok (s.ws by' (BitVec.ofNat 64 st) 12)
/-- launch. -/
def semLaunch (bx by' : BitVec 6) (q : BitVec 7) (s : State) : SlotRes := s.launchOp false bx by' q
/-- LAUNCH by itself. -/
def execLaunch (bx by' : BitVec 6) (q : BitVec 7) (s : State) : Host.Outcome State Fault Refusal :=
  finish s (semLaunch bx by' q s)
/-- ttstart. -/
def semTtstart (bx by' : BitVec 6) (q : BitVec 7) (s : State) : SlotRes := s.launchOp true bx by' q
/-- TTSTART by itself. -/
def execTtstart (bx by' : BitVec 6) (q : BitVec 7) (s : State) : Host.Outcome State Fault Refusal :=
  finish s (semTtstart bx by' q s)

/-! ## hadv (R295) -/

/-- Update the haul list of a waybill. -/
def Die.modHaul (x : Die) (wb : Nat) (f : Haul → Haul) : Die :=
  { x with hauls := x.hauls.map fun h => if h.wb = wb then f h else h }
/-- The haul list of a waybill. -/
def Die.haulOf (x : Die) (wb : Nat) : Option Haul := x.hauls.find? fun h => h.wb == wb
/-- The slots of the bundles that are ahead of the one in focus and have not run at a follower yet. -/
def State.slotsAhead (s : State) (t : Nat) : List (Slot × Instr) :=
  let f := s.focus
  let n := (s.ctx f.die t f.ctx).nextNo
  if t = f.tile then []
  else ((s.lead f.die f.tile f.ctx).hist.filter fun h => n ≤ h.no && h.no < f.no).flatMap (·.slots)
/-- A command that a slot will enter at a tile, with the staging set that it names as it now stands (log 99). -/
def EngSt.cmdAhead (e : EngSt) (i : Instr) : Option Cmd :=
  match setxOf i with
  | some (eng, b) => if eng ≤ 1 then some
      { eng := eng, instr := i, hdr := 0, stg := e.stgOf eng b, set := some b, idx := 0, at' := 0, ord := 0, prog := 0
        rsv := none, ix := 0, vx := 0, mask := 0, baddr := 0 } else none
  | none => none
/-- A slot writes a staging register. -/
def stages : Slot × Instr → Bool
  | (_, .movstg _) => true
  | _ => false
/-- A copy or matrix command of the context in focus, at a tile, that still reads a depot slot (R295): one that has been
entered, or one of a bundle that is still on its way there. -/
def State.slotRead (s : State) (t slot : Nat) (h : Haul) : Bool :=
  let f := s.focus
  let w := s.who f.die t f.ctx
  let e := (s.ctx f.die t f.ctx).e
  let hits (c : Cmd) : Bool := (s.touches w c).any fun e => e.1 == .read && h.slotOf e.2 == some slot
  let reads (c : Cmd) : Bool := c.eng ≤ 1 && c.at' < s.clock f.die t && hits c
  let ahead := s.slotsAhead t
  let coming := ahead.filterMap fun x => e.cmdAhead x.2
  e.queue.any reads || ((s.tile f.die t).runs.any fun r => r.ctx == f.ctx && reads r.cmd)
    || coming.any hits || (!s.timed && !coming.isEmpty && ahead.any stages)
/-- A release of a depot slot: at RTGT of them it is free. -/
def Haul.release (h : Haul) (n : Nat) : Haul :=
  let x := h.slots.get n
  let y := if x.rel + 1 = h.rtgt then { x with st := 0, rel := 0 } else { x with rel := x.rel + 1 }
  { h with slots := h.slots.set n y }
/-- hadv: acts once per caravan, at the lead; holds until the slot's readers have finished. -/
def semHadv (bx : BitVec 6) (s : State) : SlotRes :=
  if !s.deciding then .ok s
  else
    let f := s.focus
    let car := s.car f.die f.tile
    let n := (s.rs bx).toNat
    match s.fdie.haulOf car.wb with
    | none => trapB 0x94 3
    | some h => do
      trapIf (h.nslot ≤ n) 0x95 3
      trapIf (!h.pub n) 0x96 3
      if car.tiles.any fun t => s.slotRead t n h then s.holdOr 5 0x81 3 5
      else .ok (s.modDie f.die fun x => x.modHaul car.wb fun h => h.release n)
/-- HADV by itself. -/
def execHadv (bx : BitVec 6) (s : State) : Host.Outcome State Fault Refusal := finish s (semHadv bx s)

end Sys2Proof.Machine
end

