-- ==== Sys2Proof/Machine/Stop.lean ====
section
/-! DEFINITION. Stopping a context across its caravan, records and the record ring, handlers, resuming and ending
(R288 to R290, R419 to R431, R437, R445). -/

namespace Sys2Proof.Machine

/-! ## Records (R429, R445) -/

/-- The eight doublewords of a record. -/
def recWords (r : Rec) (sec : Bool) (d t c asid : Nat) (tseq : Nat) : List DWord :=
  let i := r.info
  [BitVec.ofNat 64 (i.cause * 2 ^ 56 + i.eng * 2 ^ 52 + i.kind * 2 ^ 49 + sec.toNat * 2 ^ 48 + r.ndly * 2 ^ 46
      + c % 4 * 2 ^ 44 + r.hm.toNat * 2 ^ 43 + t * 2 ^ 34 + d * 2 ^ 32 + tseq % 2 ^ 32),
   BitVec.ofNat 64 r.ttc, BitVec.ofNat 64 r.ptime, r.pos.enc, BitVec.ofNat 64 (r.baddr % 2 ^ 57),
   BitVec.ofNat 64 (i.addr2 % 2 ^ 57),
   BitVec.ofNat 64 (i.status % 2 ^ 32 * 2 ^ 32 + i.cmdidx % 2 ^ 16 * 2 ^ 16 + asid % 2 ^ 16),
   if r.ndly = 0 then 0 else r.ptgt.enc]

/-- Write a record to a die's ring, or count it as lost (R445); MSI-X vector 0 is raised. -/
def State.ringWrite (s : State) (d : Nat) (l : List DWord) : State :=
  let c := s.ctl d 0x300
  let lg := fld c 4 0
  let head := fld (s.ctl d 0x308) 31 0
  let tail := fld (s.ctl d 0x310) 31 0
  if !bit c 63 || lg < 6 || 20 < lg || (head + 2 ^ 32 - tail) % 2 ^ 32 == 2 ^ lg then s.incCtl d 0x318
  else
    let s := s.store (dieKey d (fld c 51 12 * 4096 + 64 * (head % 2 ^ lg))) (dBytes l)
    let s := s.setCtl d 0x308 (BitVec.ofNat 64 ((head + 1) % 2 ^ 32))
    { s with msix := (d, 0) :: s.msix }

/-- A tile writes a record (R427, R431): TREC and TSTAT.TRAPPED there, the last record of the context at its lead,
and, unless the context's own handler takes it, the ring. -/
def State.writeRec (s : State) (d l t c : Nat) (r : Rec) (sec ring : Bool) : State :=
  let w := recWords r sec d t c (s.car d t).asid (s.tile d t).tseq.toNat
  let s := s.modTile d t fun x => { x with tseq := x.tseq + 1 }
  let s := s.modCtx d t c fun x => { x with t := { x.t with trec := w, trapped := true } }
  let s := s.modLead d l c fun x => { x with lrec := w }
  if ring then s.ringWrite d w else s

/-! ## Registers at a stop (R290) -/

/-- Every write in flight lands in its register. -/
def settleMap {w : Nat} (base : FMap (BitVec w)) (l : List (PWrite w)) : FMap (BitVec w) :=
  l.foldl (fun (m : FMap (BitVec w)) p => m.set p.reg (mix p.mask p.val (m.get p.reg))) base
/-- Writes that have closed by a clock land; the others stay in flight. A chain lands when it closes. -/
def landMap {w : Nat} (t : Nat) (base : FMap (BitVec w)) (l : List (PWrite w)) :
    FMap (BitVec w) × List (PWrite w) :=
  match l with
  | [] => (base, [])
  | p :: r =>
    if p.t0 + p.bound < t then landMap t (base.set p.reg (mix p.mask p.val (base.get p.reg))) r else (base, p :: r)
/-- Land the writes of a context: all of them, or those that have closed by a clock. Writes to main-file registers
go to the pool of the tile (R242). -/
def State.landRegs (s : State) (d t c : Nat) (all : Bool) : State :=
  let clk := if all then 2 ^ 64 else s.clock d t
  let x := s.ctx d t c
  let r := x.r
  let (ps, sW) := landMap clk r.s r.sW
  let (pp, pW) := landMap clk r.p r.pW
  let (pk, kW) := landMap clk r.k r.kW
  let (pq, qW) := landMap clk r.q r.qW
  let (po, oW) := landMap clk r.o r.oW
  let (pg, gW) := landMap clk x.e.stg x.e.stgW
  let n := r.vW.length - (landMap clk [] r.vW).2.length
  let fsr := r.readFsr (clk - 1)
  let s := if all then
      { s with lates := s.lates.filter fun o => !(o.focus.die == d && o.focus.tile == t && o.focus.ctx == c) } else s
  let s := s.modTile d t fun y =>
    { y with pool := (r.vW.take n).foldl (fun (m : FMap VReg) p =>
        m.set (x.poolReg p.reg) (mix p.mask p.val (m.get (x.poolReg p.reg)))) y.pool }
  let no := r.oW.length - oW.length
  let s := (r.vW.take n).foldl (fun s p => s.cleanReg (poolKey d t (x.poolReg p.reg)) p.mask) s
  let s := (r.oW.take no).foldl (fun s p => s.cleanReg (opKey d t c p.reg) p.mask) s
  s.setCtx d t c { x with
    r := { r with
      s := ps, sW := sW, p := pp, pW := pW, k := pk, kW := kW, q := pq, qW := qW, o := po, oW := oW,
      vW := r.vW.drop n, fsr := fsr, fW := r.fW.filter fun f => clk ≤ f.land }
    e := { x.e with stg := pg, stgW := gW } }

/-! ## What the lead waits for -/

/-- Every issued bundle of a context has executed or has been withheld at every tile (R425 step 2, R288 step 2). -/
def State.drained (s : State) (d l c : Nat) : Bool :=
  (s.car d l).tiles.all fun t => let x := s.ctx d t c; x.inbox.isEmpty && x.latch.isEmpty
/-- A started command of a context is running, or a packet of it is not acknowledged (R288 step 3). -/
def State.unfinished (s : State) (d l c : Nat) : Bool :=
  (s.car d l).tiles.any fun t =>
    let x := s.tile d t
    x.runs.any (fun r => r.ctx == c) || x.retx.any fun p => p.src.ctx == c
/-- The window entries of a context are to be applied as it stops (R348). -/
def State.flushWindows (s : State) (d l c : Nat) : State :=
  (s.car d l).tiles.foldl (fun s t =>
    if s.windowClear d t c || (s.ctx d t c).evict then s else s.modCtx d t c fun x => { x with evict := true }) s
/-- Some tile's window still holds an entry of a context. -/
def State.windowsLeft (s : State) (d l c : Nat) : Bool := (s.car d l).tiles.any fun t => !s.windowClear d t c

/-- Tiles of a caravan that hold a record of the stop under way. -/
def State.trappers (s : State) (d l c : Nat) : List (Nat × Rec) :=
  (s.car d l).tiles.filterMap fun t => ((s.ctx d t c).t.cur).map fun r => (t, r)
/-- The primary record (R423): the lowest issue number, then the lowest tile. -/
def primary (l : List (Nat × Rec)) : Option (Nat × Rec) :=
  (sortBy (fun (e : Nat × Rec) => e.2.no * 512 + e.1) l).head?

/-- A record with the position fields of its kind (R419), as the stop leaves them. -/
def State.placeRec (s : State) (d l c : Nat) (r : Rec) : Rec :=
  let x := s.lead d l c
  if r.info.kind ≤ 1 then
    let (n, g) := pendAt x.hist r.no
    let (n, g) := if r.no = x.no then ((x.flow.pend.map (·.2)).getD 0, x.flow.pend.bind (·.1)) else (n, g)
    if g.isSome then { r with ndly := n, ptgt := s.outPos d l c (g.getD ⟨0, 0, 0⟩) }
    else { r with ndly := 0, ptgt := ⟨0, 0, 0⟩ }
  else
    let g := x.flow.pend.bind (·.1)
    { r with
      pos := s.outPos d l c x.flow.pos
      ndly := if g.isSome then (x.flow.pend.map (·.2)).getD 0 else 0
      ptgt := s.outPos d l c (g.getD ⟨0, 0, 0⟩)
      baddr := if r.info.kind = 4 then ((x.hist.getLast?).map (·.baddr)).getD 0 else r.baddr }

/-- The class bit of TDELEG, TVEC.EN and handler mode at the lead (R424). -/
def State.delegated (s : State) (d l c : Nat) (i : TrapInfo) : Bool :=
  let t := (s.ctx d l c).t
  i.kind ≤ 3 && i.cause / 32 ≤ 3 && bit t.tdeleg (i.cause / 32) && bit t.tvec 63 && !t.hm

/-! ## Stopping (R288, R427) -/

/-- TRAP has taken effect (R434): the lead's tile keeps the record of the software trap, unless a bundle of the context
has trapped there, and issue stops. Beside the record of another cause there it is taken when the context resumes (R423). -/
def State.softTrap (s : State) (d l c n : Nat) : State :=
  let x := s.lead d l c
  let b := x.hist.reverse.find? fun h => h.slots.any fun e => match e.2 with
    | .trap _ => true
    | _ => false
  if (s.ctx d l c).t.cur.isSome then s.modLead d l c fun y =>
    { y with halted := true, flow := { y.flow with after := 8, trapN := some n } }
  else
  let r := s.mkRec d l c { cause := 0x0F, kind := 3, eng := 3, status := n } ((b.map fun (h : Issued) => h.no).getD x.no) x.flow.pos
    ((b.map fun (h : Issued) => h.baddr).getD 0)
  (s.modCtx d l c fun y => { y with t := { y.t with cur := some r } }).modLead d l c fun y =>
    { y with halted := true, flow := { y.flow with after := if y.flow.after = 8 then 0 else y.flow.after, trapN := none } }
/-- Ask the lead to stop a context with a cause of kind P (R288). -/
def State.askStop (s : State) (d l c : Nat) (i : TrapInfo) : State :=
  s.modLead d l c fun x => if x.stop.isSome then x else { x with stop := some ⟨i, l⟩ }
/-- The record that a cause of the lead has. -/
def State.leadRec (s : State) (d l c : Nat) (i : TrapInfo) : Rec :=
  let x := s.lead d l c
  s.mkRec d l c i x.no x.flow.pos (((x.hist.getLast?).map (·.baddr)).getD 0)
/-- The records of a stop: those of the tiles that trapped; for an imprecise cause one of the lead's tile, where it has not
trapped itself; the lead's where none has a cause (R423, R427). -/
def State.stopRecs (s : State) (d l c : Nat) : List (Nat × Rec) :=
  let all := s.trappers d l c
  let own := all.filter fun e => e.2.info.kind ≠ 5
  match all, (s.lead d l c).stop with
  | [], some i => [(l, s.leadRec d l c i.info)]
  | _, _ => own ++ if own.any fun e => e.1 == l then [] else
      ((primary (all.filter fun e => e.2.info.kind == 5)).toList).map fun e =>
        (l, { e.2 with tseq := (s.tile d l).tseq.toNat, hm := (s.ctx d l c).t.hm })

/-- A held lease passes, and the context is then in state requested (R290). -/
def State.parkLease (s : State) (d t c : Nat) : State :=
  if (s.ctx d t c).lease != 2 then s
  else (s.modCtx d t c fun x => { x with lease := 1 }).modTile d t fun x =>
    { x with holder := none, lastHolder := some c }

/-- An instruction of a context that waits for the save engine or for R390 waits no longer: it has not executed, and
what it has begun goes on. -/
def State.dropWait (s : State) (d l c : Nat) : State :=
  (s.modDie d fun x =>
    { x with saves := (x.saves.filter fun o => !(o.dry && o.waiter == some (l, c))).map fun o =>
        if o.waiter == some (l, c) then { o with waiter := none } else o }).modLead
    d l c fun x => { x with isol := none, sysGo := false, sysRes := none }

/-- A PREQ request waits for a context no more (R287): it has stopped (1), or ended (0). -/
def State.preqLess (s : State) (d l c n : Nat) : State :=
  if (s.die d).preq.contains (l, c) then
    let v := s.ctl d 0x10
    let rest := (s.die d).preq.filter (· != (l, c))
    let s := s.modDie d fun x => { x with preq := rest }
    s.setCtl d 0x10 (BitVec.ofNat 64 ((if rest.isEmpty then 2 ^ 61 else 2 ^ 63) + (fld v 11 0 + n) % 2 ^ 12))
  else s
/-- The context has stopped (R427): records of every trapping tile to the ring, registers settled, lease passed. -/
def State.enterStopped (s : State) (d l c : Nat) : State :=
  let recs := s.stopRecs d l c
  let p := primary recs
  let s := recs.foldl (fun s e =>
    s.writeRec d l e.1 c (s.placeRec d l c e.2) (p.map (·.1) != some e.1) true) s
  let s := (s.car d l).tiles.foldl (fun s t =>
    ((s.landRegs d t c true).parkLease d t c).modCtx d t c fun x =>
      { x with st := .stopped, hold := [], evict := false, t := { x.t with cur := none, stuck := false } }) s
  let s := (s.modLead d l c fun x => { x with stop := none, halted := true, sigs := [] }).dropWait d l c
  s.preqLess d l c 1

/-! ## Handler entry and return (R425, R426) -/

/-- Position at which a tile resumes: that of its first bundle not executed. -/
def State.tilePos (s : State) (d l t c : Nat) : Pos :=
  let x := s.lead d l c
  match x.hist.find? fun h => h.no == (s.ctx d t c).nextNo with
  | some h => s.outPos d l c h.pos
  | none => s.outPos d l c x.flow.pos
/-- Enter the handler (R425): TREC and TSTAT at every tile, HM, and the segment at TVEC. -/
def State.enterHandler (s : State) (d l c : Nat) : State :=
  let recs := s.stopRecs d l c
  let p := primary recs
  let x := s.lead d l c
  let pos := (s.car d l).tiles.map fun t => (t, (s.tilePos d l t c).enc)
  let s := (s.car d l).tiles.foldl (fun s t => s.modCtx d t c fun y =>
    { y with t := { y.t with trapped := false } }) s
  let s := recs.foldl (fun s e =>
    s.writeRec d l e.1 c (s.placeRec d l c e.2) (p.map (·.1) != some e.1) false) s
  let s := pos.foldl (fun s e => s.modCtx d e.1 c fun y =>
    { y with
      nextNo := x.no
      t := { y.t with hm := true, cur := none, stuck := false, trpos := e.2, resume := y.nextNo } }) s
  let seg := fld (s.ctx d l c).t.tvec 62 10 * 16
  (s.dropWait d l c).modLead d l c fun x =>
    { x with
      saved := some ⟨x.hist, x.flow, x.no, x.exitPh⟩, hist := [], re := none, exitPh := 0, halted := false, stop := none, sigs := [],
      flow := { (default : Flow) with pos := ⟨seg, 0, 0⟩ } }

/-- Expansions with a line that could not be fetched are dropped, of every segment at which the context resumes: that of
its place, and those of the bundles from an issue number on, which are reissued (R51, R422). -/
def Lead.dropFailed (x : Lead) (low : Nat) : Lead :=
  let segs := x.flow.pos.seg :: (x.hist.filter fun h => low ≤ h.no).map fun h => h.pos.seg
  let f (h : Half) : Half := if h.valid && h.fail.isSome && segs.contains h.addr then default else h
  { x with h0 := f x.h0, h1 := f x.h1 }
/-- The history from the lowest first bundle not executed is reissued (R422). -/
def State.reissue (s : State) (d l c : Nat) : State :=
  let low := (s.car d l).tiles.foldl (fun a t => min a (s.ctx d t c).nextNo) (s.lead d l c).no
  s.modLead d l c fun x => { x.dropFailed low with re := if low < x.no then some low else none }

/-- ERET in handler mode (R426): the interrupted history, place and resume positions come back. -/
def State.leaveHandler (s : State) (d l c : Nat) : State :=
  match (s.lead d l c).saved with
  | none => s
  | some v =>
    let s := (s.car d l).tiles.foldl (fun s t => s.modCtx d t c fun y =>
      { y with nextNo := y.t.resume, t := { y.t with hm := false } }) s
    (s.modLead d l c fun x => { x with
      hist := v.hist, flow := v.flow, no := v.no, exitPh := v.exitPh, saved := none }).reissue d l c

/-- A write of TRPOS at the lead in handler mode (R428): every tile resumes there, and the history is empty. -/
def State.writeTrpos (s : State) (d l c : Nat) (v : DWord) : State :=
  match (s.lead d l c).saved with
  | none => s
  | some w =>
    let s := (s.car d l).tiles.foldl (fun s t => s.modCtx d t c fun y =>
      { y with t := { y.t with trpos := v, resume := w.no } }) s
    s.modLead d l c fun x =>
      { x with saved := some ⟨[], { (default : Flow) with pos := (Pos.dec v).inside, chk := true }, w.no, 0⟩ }

/-! ## Resuming and ending a stopped context (R282, R426, R433, R437) -/

/-- Resume a stopped context. One of an aborted domain takes timetable domain aborted again (R282). -/
def State.resumeCtx (s : State) (d l c : Nat) : State :=
  if ((s.die d).wbs.get (s.car d l).wb).aborted then
    s.writeRec d l l c (s.placeRec d l c (s.leadRec d l c { cause := 0x88, kind := 4, eng := 10 })) false true
  else
    let s := (s.car d l).tiles.foldl (fun s t => s.modCtx d t c fun y => { y with st := .ready }) s
    (s.modLead d l c fun x =>
      { x with halted := false, stop := none, sigs := [], sysGo := false, sysRes := none }).reissue d l c

/-- FIFO rows of a context are discarded at a tile (R339, R437). -/
def Tile.dropFifo (t : Tile) (c : Nat) : Tile :=
  { t with
    fifo := t.fifo.map fun e => (e.1, e.2.filter fun r => r.1 != c)
    fifoIn := t.fifoIn.filter fun r => r.ctx != c }
/-- What a context holds returns to the tile (R121, R259, R437): granules, banks, park slots, lease, FIFO rows. -/
def State.releaseAll (s : State) (d t c : Nat) : State :=
  ((s.modCtx d t c fun x =>
    { x with
      gran := [], banks := 0, parks := 0, lease := 0,
      r := { x.r with vW := [] }
      e := { x.e with queue := [], sqA := [], sqB := [] } }).modTile d t fun x =>
    if x.holder == some c then { x with holder := none, lastHolder := some c } else x).modTile d t (·.dropFifo c)

/-- End a stopped context (R437): everything it holds is released, its streams are closed, those that may not send yet in
later cycles, and it ends when their closes are acknowledged. -/
def State.endCtx (s : State) (d l c : Nat) : State :=
  let s := (s.car d l).tiles.foldl (fun s t => (s.closeAll d t c).1.releaseAll d t c) s
  let s := (s.car d l).tiles.foldl (fun s t => s.modCtx d t c fun x => { x with st := .ready }) s
  s.modLead d l c fun x => { x with halted := true, stop := none, exitPh := 2, re := none, saved := none, sigs := [] }

end Sys2Proof.Machine
end

