-- ==== Sys2Proof/Machine/Save.lean ====
section
/-! DEFINITION. Save areas: their layout, the checks of saves and loads, and their start (R438 to R444, R486). -/

namespace Sys2Proof.Machine

/-! ## Bytes of an area (R439 to R441, R486) -/

/-- A doubleword as bytes. -/
def d8 (v : Nat) : List Byte := leBytes 8 v
/-- The count of bits of a context's masks, and the length of its tile section (R441). -/
def sectionLen (vgm banks park : Nat) : Nat :=
  16384 + 8192 * popCount vgm 16 + 2048 * popCount banks 64 + 1024 * popCount park 128
/-- Blocks of a tile section. -/
def sectionBlocks (pl : Nat) : Nat := (pl + 239) / 240
/-- CID (R439). -/
def State.cid (s : State) (d l c : Nat) : Nat := (s.car d l).wb % 2 ^ 30 * 4 + c % 4
/-- ORIGIN (R440). -/
def originOf (d l c : Nat) : Nat := d * 2 ^ 32 + l * 4 + c % 4

/-- Code position of an issued bundle in the history's layout: its k-th idle bundle has idle offset k − 1. -/
def Issued.hpos (h : Issued) : DWord := { h.pos with ioff := h.pos.ioff - 1 }.enc
/-- One entry of HIST (R440). -/
def Issued.bytes (h : Issued) : List Byte :=
  leBytes 8 h.hpos.toNat ++ d8 (min h.spacing 255 + h.dec.taken.toNat * 2 ^ 8 + h.dec.inBit.toNat * 2 ^ 9
    + h.dec.res.isSome.toNat * 2 ^ 10 + h.dec.res.getD 0 % 2 ^ 24 * 2 ^ 40)

/-- The context section (R440), 2,400 bytes. -/
def State.ctxSection (s : State) (d l c ver seq : Nat) : List Byte :=
  let car := s.car d l
  let x := s.ctx d l c
  let lg (n : Nat) : Nat := ((upFrom 0 6).find? fun k => n ≤ 2 ^ k).getD 5
  let f := x.lead.flow
  let n := ((f.pend.bind fun p => p.1.map fun _ => p.2)).getD 0
  d8 (ver * 2 ^ 48 + car.asid * 2 ^ 32 + lg car.h * 2 ^ 29 + lg car.w * 2 ^ 26 + x.lead.prio * 2 ^ 24 + car.mode % 4 * 2 ^ 22
      + car.fo.toNat * 2 ^ 21 + c * 2 ^ 19 + x.t.hm.toNat * 2 ^ 18 + x.lease * 2 ^ 16)
    ++ d8 (seq % 2 ^ 32 * 2 ^ 32 + s.cid d l c)
    ++ d8 (x.vgmask * 2 ^ 48 + sectionLen x.vgmask x.banks.toNat x.parks.toNat)
    ++ d8 x.banks.toNat ++ leBytes 16 x.parks.toNat ++ d8 x.tagm.toNat ++ d8 (originOf d l c)
    ++ (upFrom 0 8).flatMap (fun i => d8 (x.lead.lrec.getD i 0).toNat)
    ++ d8 x.lead.hist.length ++ d8 n
    ++ d8 (if n = 0 then 0 else (s.outPos d l c (((f.pend.bind (·.1))).getD ⟨0, 0, 0⟩)).enc.toNat)
    ++ leBytes 104 0
    ++ x.lead.hist.flatMap Issued.bytes ++ leBytes (16 * (128 - x.lead.hist.length)) 0
    ++ leBytes 96 0

/-- One stream (R486). -/
def Stream.bytes (st : Stream) (now : Nat) : List Byte :=
  let e := st.bound.getD default
  d8 (st.bound.isSome.toNat * 2 ^ 63 + st.broken.toNat * 2 ^ 62 + st.epoch * 2 ^ 54 + st.next * 2 ^ 42
      + (recentCloses now st.closes).length * 2 ^ 35)
    ++ if st.bound.isNone then d8 0
      else d8 (e.module * 2 ^ 48 + e.die * 2 ^ 46 + e.kind * 2 ^ 44
        + (if e.kind = 0 then e.idx * 2 ^ 35 else 0) + if e.kind = 1 then e.idx * 2 ^ 34 else 0)
/-- The parameters and position of a port (R165, R441). -/
def Port.bytes (p : Port) : List Byte :=
  let q := p.full
  let z (i : Int) : Nat := (i % 2 ^ 32).toNat
  d8 q.base ++ ((q.cnt.zip q.str).flatMap fun e => leBytes 4 e.1 ++ leBytes 4 (z e.2))
    ++ q.pos.flatMap (leBytes 4) ++ d8 0
/-- One command entry (R486). -/
def Cmd.bytes (m : Cmd) : List Byte :=
  d8 (2 ^ 63 + m.eng * 2 ^ 61 + m.hdr.toNat) ++ (upFrom 0 16).flatMap (fun i => d8 (m.stg.getD i 0).toNat)
    ++ d8 (m.prog % 2 ^ 32 + (m.rsv.map fun r => r.1 * 2 ^ 32 + r.2 * 2 ^ 44 + 2 ^ 52).getD 0)
/-- The command area: two entries an engine (R486). -/
def EngSt.cmdBytes (e : EngSt) : List Byte :=
  (upFrom 0 4).flatMap fun g => (upFrom 0 2).flatMap fun i => match (e.waiting g)[i]? with
    | some m => m.bytes
    | none => leBytes 144 0
/-- A scale queue's 64 entries. -/
def sqBytes (l : List (BitVec 128)) : List Byte := (upFrom 0 64).flatMap fun i => leBytes 16 (l.getD i 0).toNat
/-- Bit numbers of a mask of w bits. -/
def bitsOf (m w : Nat) : List Nat := (upFrom 0 w).filter fun i => m.testBit i

/-- A tile section (R441), without its padding. -/
def State.tileSection (s : State) (d l t c : Nat) : List Byte :=
  let x := s.ctx d t c
  let y := s.tile d t
  let r := x.r
  let e := x.e
  let w := s.clock d t + 2 ^ 32
  let stg (set : Bool) : List Byte := (upFrom 0 4).flatMap fun g => (upFrom 0 (stgSize g)).flatMap fun i =>
    d8 (e.stg.get (stgKey set g i)).toNat
  (upFrom 0 64).flatMap (fun n => d8 (r.readS w n).toNat)
    ++ d8 (r.preds w).toNat ++ d8 r.soff ++ d8 r.voff ++ d8 (r.readFsr w).toNat ++ d8 e.mprogWord.toNat
    ++ d8 x.t.tvec.toNat ++ d8 x.t.tdeleg.toNat ++ d8 x.t.tstat.toNat
    ++ (upFrom 0 4).flatMap (fun i => d8 (x.t.tscr.get i).toNat) ++ d8 (s.tilePos d l t c).enc.toNat
    ++ d8 (y.tags &&& x.tagm).toNat ++ d8 ((s.lead d l c).no - x.nextNo) ++ d8 0
    ++ (upFrom 0 8).flatMap (fun i => d8 (x.t.trec.getD i 0).toNat)
    ++ (upFrom 0 16).flatMap (fun i => d8 (e.mrs.get i).toNat)
    ++ (upFrom 0 16).flatMap (fun i => (x.streams.get i).bytes s.now)
    ++ (upFrom 0 8).flatMap (fun i => (x.ports.get i).bytes)
    ++ stg false ++ stg true ++ d8 e.fills.toNat
    ++ d8 ((e.xcfg.map fun (p : Syl × List DWord) => 2 ^ 63 + p.1.toNat).getD 0)
    ++ e.cmdBytes
    ++ d8 e.sqA.length ++ d8 e.sqB.length ++ sqBytes e.sqA ++ sqBytes e.sqB
    ++ (upFrom 0 8).flatMap (fun n => leBytes 128 (r.k.get n).toNat)
    ++ (upFrom 0 8).flatMap (fun n => leBytes 64 (r.q.get n).toNat)
    ++ (upFrom 0 4).flatMap (fun i => d8 (((e.xcfg.map fun (p : Syl × List DWord) => p.2).getD []).getD i 0).toNat)
    ++ leBytes 1024 0
    ++ (upFrom 0 8).flatMap (fun n => leBytes 1024 (r.o.get n).toNat)
    ++ (bitsOf x.vgmask 16).flatMap (fun g => (upFrom 0 8).flatMap fun i =>
        leBytes 1024 (y.pool.get (x.poolReg (8 * g + i))).toNat)
    ++ (bitsOf x.banks.toNat 64).flatMap (fun b => s.load (accKey d t (2048 * b)) 2048)
    ++ (bitsOf x.parks.toNat 128).flatMap (fun b => s.load (accKey d t (1024 * b)) 1024)

/-- Cut a stream of bytes into payloads of 240. -/
def payloads : Nat → List Byte → List (List Byte)
  | 0, _ => []
  | n + 1, l =>
    let p := l.take 240
    (p ++ leBytes (240 - p.length) 0) :: payloads n (l.drop 240)
/-- The tag of a block (R439), CRC and all. -/
def sealBlock (asid blk cid seq : Nat) (p : List Byte) : List Byte :=
  let b := p ++ leBytes 2 asid ++ leBytes 2 blk ++ leBytes 4 cid ++ leBytes 4 seq
  b ++ leBytes 4 (crcUpdate 0 b)
/-- The blocks of the save area of a context. -/
def State.saveArea (s : State) (d l c ver seq : Nat) : List Byte :=
  let x := s.ctx d l c
  let car := s.car d l
  let pl := sectionLen x.vgmask x.banks.toNat x.parks.toNat
  let p := payloads 10 (s.ctxSection d l c ver seq)
    ++ car.tiles.flatMap fun t => payloads (sectionBlocks pl) (s.tileSection d l t c)
  (p.zip (upFrom 0 p.length)).flatMap fun e => sealBlock car.asid (e.2 % 65536) (s.cid d l c) seq e.1

/-! ## Descriptors and targets (R436) -/

/-- A caravan of the die has its lead at a tile. -/
def State.leadsAt (s : State) (d l : Nat) : Bool := (s.tile d l).occ.isSome && (s.car d l).leadTile == l
/-- A load of the target is under way. -/
def State.busyTarget (s : State) (d l c : Nat) : Bool :=
  (s.die d).saves.any fun o => o.load && o.lead == l && o.ctx == c
/-- The target that a descriptor names, or context command invalid; `own` is the executing caravan's lead. -/
def State.target (s : State) (d : Nat) (v : DWord) (own : Option Nat) : Except (Nat × Nat × Nat) (Nat × Nat) :=
  let l := fld v 10 2
  let c := fld v 1 0
  let x := s.ctx d l c
  if fld v 63 11 != 0 || !s.leadsAt d l || (s.car d l).nctx ≤ c || own == some l
    || !(x.st == .stopped || x.st == .damaged) || s.busyTarget d l c then .error (0x97, 0, 0)
  else .ok (l, c)

/-! ## Addresses of blocks (R438, R445) -/

/-- Where the area lies: a virtual address in an ASID, or a die-physical one. -/
inductive AreaAt where
  | virt (asid : Nat)
  | phys
  deriving DecidableEq, Repr
/-- The ASID of a translated area. -/
def AreaAt.asid? : AreaAt → Option Nat
  | .virt a => some a
  | .phys => none
/-- The key of a block, or the save-area access fault with its kind. -/
def State.blockKey (s : State) (d : Nat) (at' : AreaAt) (load : Bool) (a : Nat) :
    State × Except (Nat × Nat × Nat) (Nat × Place) :=
  match at' with
  | .phys => (s, if a + 256 ≤ hbmEnd then .ok (dieKey d a, .die d a) else .error (0x51, 0, a))
  | .virt asid =>
    if a < padSize then (s, .error (0x51, 3, a))
    else
      let (s, r) := s.reach d asid (if load then .read else .write) a
      match r with
      | .error f => (s, .error (0x51, f.status, a))
      | .ok p =>
        (s, match p with
          | .die _ _ | .host _ => .ok (s.placeKey d p, p)
          | _ => .error (0x51, 3, a))
/-- The keys of n blocks from an address on. -/
def State.blockKeys (s : State) (d : Nat) (at' : AreaAt) (load : Bool) (a : Nat) :
    Nat → State × Except (Nat × Nat × Nat) (List Nat)
  | 0 => (s, .ok [])
  | n + 1 =>
    match s.blockKey d at' load a with
    | (s, .error e) => (s, .error e)
    | (s, .ok (k, _)) =>
      match s.blockKeys d at' load (a + 256) n with
      | (s, .error e) => (s, .error e)
      | (s, .ok l) => (s, .ok (k :: l))

/-! ## Fields of block 0 (R440, R443) -/

/-- The doubleword at an offset of the bytes of an area's stream. -/
def sd8 (b : List Byte) (off : Nat) : Nat := leNat ((b.drop off).take 8)
/-- VGMASK, BANKS and PARK. -/
def areaMasks (b : List Byte) : Nat × Nat × Nat :=
  (sd8 b 0x10 / 2 ^ 48, sd8 b 0x18, leNat ((b.drop 0x20).take 16))
/-- Block 0 does not suit the target (R443). -/
def State.areaBad (s : State) (d l c : Nat) (b : List Byte) : Bool :=
  let car := s.car d l
  let v := sd8 b 0
  let m := areaMasks b
  !(v / 2 ^ 48 == 1 || v / 2 ^ 48 == 2) || 2 ^ nbits v 31 29 != car.h || 2 ^ nbits v 28 26 != car.w
    || nbits v 47 32 != car.asid || sd8 b 0x30 != (s.ctx d l c).tagm.toNat
    || nbits (sd8 b 0x10) 31 0 != sectionLen m.1 m.2.1 m.2.2
/-- A tile can give the target what the area names (R443). -/
def State.areaFits (s : State) (d t c : Nat) (b : List Byte) : Bool :=
  let m := areaMasks b
  let others := (s.ctxNums d t).filter (· != c)
  let used := others.flatMap fun n => (s.ctx d t n).gran.map (·.2)
  let due := (s.tile d t).granDue.filter fun e => s.now < e.2
  let banks := others.foldl (fun a n => a ||| (s.ctx d t n).banks) 0
  let parks := others.foldl (fun a n => a ||| (s.ctx d t n).parks) 0
  popCount m.1 16 ≤ ((upFrom 0 16).filter fun g => !used.contains g && !due.any fun e => e.1 == g).length
    && (bitsOf m.2.1 64).all (bankFree banks parks)
    && (bitsOf m.2.2 128).all fun n => slotFree (banks ||| BitVec.ofNat 64 m.2.1) parks n
/-- The target takes what the area names: granules by the choice of ALLOT, banks and park slots. -/
def State.takeArea (s : State) (d t c : Nat) (b : List Byte) : State :=
  let m := areaMasks b
  let s := s.modCtx d t c fun x =>
    { x with gran := [], banks := BitVec.ofNat 64 m.2.1, parks := BitVec.ofNat 128 m.2.2 }
  (bitsOf m.1 16).foldl (fun s g =>
    let p := (s.freeGran d t).headD 0
    s.modCtx d t c fun x => { x with gran := x.gran.set g p }) s

/-! ## Starting a save or a load (R438, R442, R443, R445) -/

/-- Why a save or load does not start: the cause, the status and ADDR2. -/
abbrev SaveTry := State × Except (Nat × Nat × Nat) State
/-- The cycle in which the save engine, one block a cycle for the die, ends an operation. -/
def State.saveEnd (s : State) (d n lat : Nat) : Nat :=
  ((s.die d).saves.foldl (fun a o => max a o.done) s.now) + n + lat
/-- Put an operation under way. -/
def State.addSave (s : State) (d : Nat) (o : SaveOp) : State := s.modDie d fun x => { x with saves := x.saves ++ [o] }
/-- Scale-queue entries or park slots of a context, which format level 1 lacks (R442). -/
def State.needs2 (s : State) (d l c : Nat) : Bool :=
  (s.car d l).tiles.any fun t => let x := s.ctx d t c; x.parks != 0 || !x.e.sqA.isEmpty || !x.e.sqB.isEmpty

/-- The operation just put under way ends in this cycle. -/
def State.endNow (s : State) (d : Nat) : State :=
  s.modDie d fun x => { x with
    saves := x.saves.dropLast ++ (x.saves.getLast?.toList.map fun o => { o with done := s.now }) }
/-- The operation just put under way, as a wait that has no effect of its own: a dry operation of the state that it was
started in. -/
def State.dryOf (s s' : State) (d : Nat) : State :=
  ((s'.die d).saves.getLast?.toList).foldl (fun s o => s.addSave d { o with dry := true }) s
/-- Start a save of a target. -/
def State.startSave (s : State) (d l c : Nat) (at' : AreaAt) (a : Nat) (waiter : Option (Nat × Nat)) : SaveTry :=
  let x := s.ctx d l c
  let n := 10 + (s.car d l).tiles.length * sectionBlocks (sectionLen x.vgmask x.banks.toNat x.parks.toNat)
  if a % 256 != 0 then (s, .error (0x42, 0, a))
  else
    let (s, r) := s.blockKeys d at' false a n
    match r with
    | .error e => (s, .error e)
    | .ok keys =>
      let ver := fld (s.ctl d 0xB0) 3 0
      if !(ver == 1 || ver == 2) || (ver == 1 && s.needs2 d l c) then (s, .error (0x99, 0, 0))
      else
        let seq := ((s.ctl d 0x338).toNat + 1) % 2 ^ 32
        let s := s.setCtl d 0x338 (BitVec.ofNat 64 seq)
        let lat := if (keys.headD 0) < 4 * region then 260 else crossD + 4
        (s, .ok (s.addSave d ⟨false, l, c, keys, a, s.saveEnd d n lat, waiter, seq, s.saveArea d l c ver seq,
          at'.asid?, s.now, false⟩))
/-- Start a load into a target: block 0, the other blocks' addresses, resources. A block 0 that cannot be read
aborts the restore (R444). -/
def State.startLoad (s : State) (d l c : Nat) (at' : AreaAt) (a : Nat) (waiter : Option (Nat × Nat)) : SaveTry :=
  if a % 256 != 0 then (s, .error (0x42, 0, a))
  else
    match s.blockKey d at' true a with
    | (s, .error e) => (s, .error e)
    | (s, .ok (k, _)) =>
      let tiles := (s.car d l).tiles
      let b := s.load k 256
      let go (s : State) (keys : List Nat) : State :=
        let lat := if k < 4 * region then 520 else 2 * crossD
        s.addSave d ⟨true, l, c, keys, a, s.saveEnd d keys.length lat, waiter, 0, [], at'.asid?, s.now, false⟩
      if s.poisoned k 256 then (s, .ok (go s [k]))
      else if s.areaBad d l c b then (s, .error (0x99, 0, 0))
      else
        let n := 10 + tiles.length * sectionBlocks (nbits (sd8 b 0x10) 31 0)
        let (s, r) := s.blockKeys d at' true a n
        match r with
        | .error e => (s, .error e)
        | .ok keys =>
          if !tiles.all fun t => s.areaFits d t c b then (s, .error (0x9A, 0, 0))
          else (s, .ok (go (tiles.foldl (fun s t => s.takeArea d t c b) s) keys))

end Sys2Proof.Machine
end

