-- ==== Sys2Proof/Machine/Sys.lean ====
section
/-! DEFINITION. The system instructions of slot B: the isolation instructions (R387 to R390), trap and the returns
(R433 to R437), ctxsave and ctxload (R438 to R444), jmark and jflush (R462). -/

namespace Sys2Proof.Machine

/-! ## Dropping cached translations (R389, R405) -/

/-- Drop the cached translations that a predicate accepts, from the die and from its tiles (R390). -/
def State.dropTlb (s : State) (d : Nat) (p : TlbEnt → Bool) : State :=
  let kept := (s.die d).tlb.filter fun e => !p e
  let has (e : Nat × Nat) : Bool := kept.any fun k => k.asid == e.1 && k.page == e.2
  let s := s.modDie d fun x => { x with tlb := kept }
  { s with tiles := s.tiles.map fun e =>
      if e.1 / 512 = d && !(e.2.micro.isEmpty && e.2.piped.isEmpty) then
        (e.1, { e.2 with micro := e.2.micro.filter has, piped := e.2.piped.filter fun x => has x.2 })
      else e }
/-- The translation covers the page of an address, in the page of its leaf. -/
def TlbEnt.covers (e : TlbEnt) (va : Nat) : Bool := (e.page * 4096) / 2 ^ e.res.lg == va / 2 ^ e.res.lg

/-- A command or a packet from before a cycle reaches a die under its source ranges (R390, R396): of any die of the package,
the die itself among them, by an import slot that names the die. -/
def State.srcBusy (s : State) (d since : Nat) : Bool :=
  (upFrom 0 4).any fun e => (upFrom 0 512).any fun t =>
    let x := s.tile e t
    let hits (w : Who) (a : Agent × Nat) : Bool := match (s.reach w.die w.asid a.1 a.2).2 with
      | .ok (.peer m d' _ _) => m == s.modnum && d' == d
      | _ => false
    x.runs.any (fun r => r.start + (s.now - since) ≤ s.clock e t
        && (s.openTouches (s.who e t r.ctx) r).any (hits (s.who e t r.ctx)))
      || x.retx.any fun p => p.born ≤ since && p.dst.module == s.modnum && p.dst.die == d && (e != d || p.dst.kind == 1)
/-- A command, a save or a load, or a packet that is not acknowledged, of an ASID from before a cycle on the die; for any ASID,
also what the die's source ranges admit (R389, R390). The miss handler does not wait for the commands of its own tile,
which stand still while it runs (R283). -/
def State.isoBusy (s : State) (d : Nat) (asid : Option Nat) (since : Nat) : Bool :=
  let mine (a : Nat) : Bool := asid.all (· == a)
  (asid.isNone && s.srcBusy d since)
    || ((s.die d).saves.any fun o => o.since ≤ since && (o.asid.map mine) == some true) || (upFrom 0 512).any fun t =>
    let x := s.tile d t
    mine (s.car d t).asid && !(s.focus.ctx == 4 && s.focus.tile == t)
        && (x.runs.any (fun r => r.start + (s.now - since) ≤ s.clock d t))
      || x.retx.any fun p => mine p.asid && p.born ≤ since

/-! ## rngset, rngclr, tlbinv, tlbinva (R387 to R390) -/

/-- The right to run them (R387): SYS of the context's own ASID; the shadow context always may. -/
def State.maySys (s : State) : Try Unit :=
  trapIf (s.focus.ctx != 4 && !s.asidSys s.focus.die (s.car s.focus.die s.focus.tile).asid) 0x4F 3
/-- The ASID that a register names. -/
def State.asidIn (s : State) (by' : BitVec 6) : Nat := fld (s.rs by') 15 0
/-- What such an instruction does at once, before it waits: its table write and the dropped translations. The lead
keeps the cycle. -/
def State.isoStart (s : State) (f : State → State) : State :=
  if s.myLead.isol.isSome then s else (f s).modMyLead fun l => { l with isol := some s.now }
/-- Completion (R390): the instruction holds until what used a dropped entry has performed; in timetabled mode it
traps if it would. -/
def State.isoEnd (s : State) (asid : Option Nat) : SlotRes :=
  if s.isoBusy s.focus.die asid (s.myLead.isol.getD s.now) then s.holdOr 5 0x81 3 5
  else .ok (s.modMyLead fun l => { l with isol := none })
/-- Begin an isolation instruction: nothing where it may not run or is not at its lead. -/
def State.isoGo (s : State) (check : Try Unit) (f : State → State) : State :=
  match check with
  | .ok _ => if s.deciding && !s.timed then s.isoStart f else s
  | .error _ => s
/-- An isolation instruction as a slot: the checks and its action if it has not begun, then its wait. -/
def State.isoSlot (s : State) (check : Try Unit) (f : State → State) (asid : Option Nat) : SlotRes :=
  if !s.deciding then .ok s
  else if s.myLead.isol.isSome then s.isoEnd asid
  else do
    check
    (s.isoStart f).isoEnd asid

/-- The 32 bytes of the image that RNGSET reads (R388). -/
def State.rngRow (s : State) (a : Nat) : List Byte := s.padBytes s.focus.die s.focus.tile (s.tt + 1) a 32
/-- The image: as read before the bundle, or now where the instruction stands alone. -/
def State.rngImage (s : State) (a : Nat) : List Byte :=
  match s.fctx.early.find? 7 with
  | some v => leBytes 32 v.toNat
  | none => s.rngRow a
/-- Checks of RNGSET (R387, R388). -/
def State.rngsetCheck (s : State) (bx : BitVec 6) : Try Unit := do
  s.maySys
  let a := (s.rs bx).toNat
  trapIf (a % 32 != 0) 0x42 3 0 a
  trapIf (padBad a 32) 0x43 3 0 a
  let i := s.rngImage a
  let e (n : Nat) : DWord := bytesD ((i.drop (8 * n)).take 8)
  trapIf (bit (e 0) 63 && !rangeOk (e 0) (e 1) (e 2) (e 3)) 0x50 3
/-- Replace bytes of entry n of an ASID's range table, and drop the ASID's translations that the old or the new
entry covers. -/
def State.putRange (s : State) (asid n : Nat) (bs : List Byte) : State :=
  let d := s.focus.die
  let a := s.rangeAt d asid n
  let old := (fld (s.readD d a) 56 0, fld (s.readD d (a + 8)) 56 0)
  let s := s.store (dieKey d a) bs
  let new := (fld (s.readD d a) 56 0, fld (s.readD d (a + 8)) 56 0)
  s.dropTlb d fun e => e.asid == asid &&
    ((old.1 ≤ e.page * 4096 && e.page * 4096 < old.2) || (new.1 ≤ e.page * 4096 && e.page * 4096 < new.2))
/-- RNGSET's action. -/
def rngsetAct (bx by' : BitVec 6) (n : BitVec 7) (s : State) : State :=
  s.putRange (s.asidIn by') n.toNat (s.rngImage (s.rs bx).toNat)
/-- rngset begins. -/
def goRngset (bx by' : BitVec 6) (n : BitVec 7) (s : State) : State :=
  s.isoGo (s.rngsetCheck bx) (rngsetAct bx by' n)
/-- rngset. -/
def semRngset (bx by' : BitVec 6) (n : BitVec 7) (s : State) : SlotRes :=
  s.isoSlot (s.rngsetCheck bx) (rngsetAct bx by' n) (some (s.asidIn by'))
/-- RNGSET by itself. -/
def execRngset (bx by' : BitVec 6) (n : BitVec 7) (s : State) : Host.Outcome State Fault Refusal :=
  finish (goRngset bx by' n s) (semRngset bx by' n (goRngset bx by' n s))

/-- RNGCLR's action: 0 to the first doubleword of the entry. -/
def rngclrAct (by' : BitVec 6) (n : BitVec 7) (s : State) : State :=
  s.putRange (s.asidIn by') n.toNat (leBytes 8 0)
/-- rngclr begins. -/
def goRngclr (by' : BitVec 6) (n : BitVec 7) (s : State) : State := s.isoGo s.maySys (rngclrAct by' n)
/-- rngclr. -/
def semRngclr (by' : BitVec 6) (n : BitVec 7) (s : State) : SlotRes :=
  s.isoSlot s.maySys (rngclrAct by' n) (some (s.asidIn by'))
/-- RNGCLR by itself. -/
def execRngclr (by' : BitVec 6) (n : BitVec 7) (s : State) : Host.Outcome State Fault Refusal :=
  finish (goRngclr by' n s) (semRngclr by' n (goRngclr by' n s))

/-- TLBINV's action; bits 63:57 of the address are ignored: DESIGN CHOICE (log 112). -/
def tlbinvAct (bx by' : BitVec 6) (s : State) : State :=
  let va := (s.rs bx).toNat % 2 ^ 57
  s.dropTlb s.focus.die fun e => e.asid == s.asidIn by' && e.covers va
/-- tlbinv begins. -/
def goTlbinv (bx by' : BitVec 6) (s : State) : State := s.isoGo s.maySys (tlbinvAct bx by')
/-- tlbinv. -/
def semTlbinv (bx by' : BitVec 6) (s : State) : SlotRes :=
  s.isoSlot s.maySys (tlbinvAct bx by') (some (s.asidIn by'))
/-- TLBINV by itself. -/
def execTlbinv (bx by' : BitVec 6) (s : State) : Host.Outcome State Fault Refusal :=
  finish (goTlbinv bx by' s) (semTlbinv bx by' (goTlbinv bx by' s))

/-- TLBINVA's action. -/
def tlbinvaAct (by' : BitVec 6) (s : State) : State :=
  s.dropTlb s.focus.die fun e => e.asid == s.asidIn by'
/-- tlbinva begins. -/
def goTlbinva (by' : BitVec 6) (s : State) : State := s.isoGo s.maySys (tlbinvaAct by')
/-- tlbinva. -/
def semTlbinva (by' : BitVec 6) (s : State) : SlotRes :=
  s.isoSlot s.maySys (tlbinvaAct by') (some (s.asidIn by'))
/-- TLBINVA by itself. -/
def execTlbinva (by' : BitVec 6) (s : State) : Host.Outcome State Fault Refusal :=
  finish (goTlbinva by' s) (semTlbinva by' (goTlbinva by' s))

/-- TLBINVA.ALL's action. -/
def tlbinvaAllAct (s : State) : State := s.dropTlb s.focus.die fun _ => true
/-- tlbinva.all begins. -/
def goTlbinvaAll (s : State) : State := s.isoGo s.maySys tlbinvaAllAct
/-- tlbinva.all. -/
def semTlbinvaAll (s : State) : SlotRes := s.isoSlot s.maySys tlbinvaAllAct none
/-- TLBINVA.ALL by itself. -/
def execTlbinvaAll (s : State) : Host.Outcome State Fault Refusal :=
  finish (goTlbinvaAll s) (semTlbinvaAll (goTlbinvaAll s))

/-! ## trap, eret, eret.ctx (R433 to R437) -/

/-- trap: software trap after the bundle and its idle count, at the lead only (R434). -/
def semTrap (n : BitVec 7) (s : State) : SlotRes :=
  .ok (if s.deciding then s.modFlow fun f => { f with trapN := some n.toNat } else s)
/-- TRAP by itself. -/
def execTrap (n : BitVec 7) (s : State) : Host.Outcome State Fault Refusal := finish s (semTrap n s)

/-- eret: in handler mode, or in the shadow context, at the end of the bundle and its idle count (R285, R426). -/
def semEret (s : State) : SlotRes := do
  trapIf (s.deciding && s.focus.ctx != 4 && !s.fctx.t.hm) 0x10 3
  .ok (s.thenDo 3)
/-- ERET by itself. -/
def execEret (s : State) : Host.Outcome State Fault Refusal := finish s (semEret s)

/-- A failed check of the context commands as a trap; the save engine's causes carry its number (R430). -/
def ctxTrap {α : Type} (e : Nat × Nat × Nat) : Try α :=
  trapB e.1 (if e.1 == 0x51 || 0x99 ≤ e.1 then 14 else 3) e.2.1 e.2.2
/-- The target of a context instruction (R435, R436). -/
def State.ctxTarget (s : State) (bx : BitVec 6) : Try (Nat × Nat) := do
  s.maySys
  match s.target s.focus.die (s.rs bx) (some s.leadOf) with
  | .ok t => .ok t
  | .error e => ctxTrap e
/-- The target is damaged (R437, R444). -/
def State.damaged (s : State) (d l c : Nat) : Bool := (s.ctx d l c).st == .damaged
/-- eret.ctx: resume the target, or end it. -/
def semEretCtx (bx : BitVec 6) (op : BitVec 7) (s : State) : SlotRes :=
  if !s.deciding then .ok s
  else do
    let (l, c) ← s.ctxTarget bx
    let d := s.focus.die
    if op.toNat = 1 then .ok (s.endCtx d l c)
    else do
      trapIf (s.damaged d l c) 0x98 3
      .ok (s.resumeCtx d l c)
/-- ERET.CTX by itself. -/
def execEretCtx (bx : BitVec 6) (op : BitVec 7) (s : State) : Host.Outcome State Fault Refusal :=
  finish s (semEretCtx bx op s)

/-! ## ctxsave and ctxload (R438, R442, R443) -/

/-- The dry operation that the bundle in focus waits for. -/
def State.myDry (s : State) : Option SaveOp :=
  (s.die s.focus.die).saves.find? fun o => o.dry && o.waiter == some (s.leadOf, s.focus.ctx)
/-- The checks of a save or a load by an instruction, and its start. In timetabled mode neither may run, and nothing
may be loaded into a timetabled target (R438). -/
def State.ctxStart (s : State) (load : Bool) (bx by' : BitVec 6) (waiter : Option (Nat × Nat)) : Try State := do
  let (l, c) ← s.ctxTarget bx
  let d := s.focus.die
  trapIf (s.timed || (load && (s.car d l).timed)) 0x97 3
  trapIf (s.damaged d l c) 0x98 3
  let at' := AreaAt.virt (s.car d s.focus.tile).asid
  let a := (s.rs by').toNat
  match (if load then s.startLoad d l c at' a waiter else s.startSave d l c at' a waiter).2 with
  | .ok s => .ok s
  | .error e => ctxTrap e
/-- A save or load begins: nothing where it may not. A bundle with other slots only begins the wait for the save engine, a
dry operation, so that a trap that one of them takes later in the hold finds nothing done (R64). -/
def State.ctxGo (s : State) (load dry : Bool) (bx by' : BitVec 6) : State :=
  if !s.deciding || s.myLead.sysGo then s
  else match s.ctxStart load bx by' (some (s.leadOf, s.focus.ctx)) with
    | .ok s' => (if dry then s.dryOf s' s.focus.die else s').modMyLead fun x => { x with sysGo := true }
    | .error _ => s
/-- A save or load as a slot: hold kind 5 from its start until it has completed; after a dry wait, the operation itself,
which ends at once. -/
def State.ctxSlot (s : State) (load : Bool) (bx by' : BitVec 6) : SlotRes :=
  if !s.deciding then .ok s
  else
    let x := s.myLead
    let d := s.focus.die
    let s1 := s.modMyLead fun x => { x with sysGo := false, sysRes := none }
    if !x.sysGo then do
      let _ ← s.ctxStart load bx by' none
      holdT 5
    else match x.sysRes, s.myDry with
      | none, _ => holdT 5
      | some (some i), _ => .error (.trap i)
      | some none, none => .ok s1
      | some none, some o => do
        let s2 ← (s1.modDie d fun x => { x with saves := x.saves.filter fun p => p != o }).ctxStart load bx by' none
        .ok (s2.endNow d)

/-- ctxsave begins. -/
def goCtxsave (bx by' : BitVec 6) (s : State) : State := s.ctxGo false false bx by'
/-- ctxsave beside other slots begins. -/
def goCtxsaveDry (bx by' : BitVec 6) (s : State) : State := s.ctxGo false true bx by'
/-- ctxsave. -/
def semCtxsave (bx by' : BitVec 6) (s : State) : SlotRes := s.ctxSlot false bx by'
/-- CTXSAVE by itself. -/
def execCtxsave (bx by' : BitVec 6) (s : State) : Host.Outcome State Fault Refusal :=
  finish (goCtxsave bx by' s) (semCtxsave bx by' (goCtxsave bx by' s))

/-- ctxload begins. -/
def goCtxload (bx by' : BitVec 6) (s : State) : State := s.ctxGo true false bx by'
/-- ctxload beside other slots begins. -/
def goCtxloadDry (bx by' : BitVec 6) (s : State) : State := s.ctxGo true true bx by'
/-- ctxload. -/
def semCtxload (bx by' : BitVec 6) (s : State) : SlotRes := s.ctxSlot true bx by'
/-- CTXLOAD by itself. -/
def execCtxload (bx by' : BitVec 6) (s : State) : Host.Outcome State Fault Refusal :=
  finish (goCtxload bx by' s) (semCtxload bx by' (goCtxload bx by' s))

/-! ## Divergence, jmark, jflush (R462, R464) -/

/-- Leads and contexts of the replayed caravans of a die. -/
def State.replayed (s : State) (d : Nat) : List (Nat × Nat) :=
  ((s.die d).cars.filter fun e => e.2.mode == 2).flatMap fun e =>
    (upFrom 0 e.2.nctx).filterMap fun c =>
      if (s.ctx d e.2.leadTile c).st == .ready then some (e.2.leadTile, c) else none
/-- A replay diverges: DIV is set, and every context of the replayed waybills stops with pre-emption, status 2. -/
def State.diverge (s : State) (d : Nat) : State :=
  let s := s.setCtl d 0x418 (s.ctl d 0x418 ||| BitVec.ofNat 64 (2 ^ 61))
  (s.replayed d).foldl (fun s e => s.askStop d e.1 e.2 { cause := 0x89, kind := 4, eng := 10, status := 2 }) s

/-- jmark: a type-6 entry, or a check against the next one of the context under replay. -/
def semJmark (bx : BitVec 6) (n : BitVec 7) (s : State) : SlotRes :=
  let f := s.focus
  let v := s.rs bx
  if !s.deciding then .ok s
  else if s.replaying f.die f.tile then
    match s.replayNext f.die fun e => tileEntry 6 s.leadOf e && fld e 59 58 == f.ctx with
    | none => .ok s
    | some e =>
      let same := s.rentry f.die e 2 == v && fld (s.rentry f.die e 3) 6 0 == n.toNat
      let s := s.ruse f.die e
      .ok (if same then s else s.diverge f.die)
  else .ok (s.journal f.die s.leadOf f.ctx 6 v.toNat n.toNat)
/-- JMARK by itself. -/
def execJmark (bx : BitVec 6) (n : BitVec 7) (s : State) : Host.Outcome State Fault Refusal := finish s (semJmark bx n s)

/-- jflush: an entry is in the ring as soon as its event has happened, so nothing is waited for (log 26); the commit
runs that are still open are written. -/
def semJflush (s : State) : SlotRes :=
  .ok (if s.deciding && s.recording s.focus.die && (s.car s.focus.die s.focus.tile).mode == 0 then
    s.flushRuns s.focus.die else s)
/-- JFLUSH by itself. -/
def execJflush (s : State) : Host.Outcome State Fault Refusal := finish s (semJflush s)

end Sys2Proof.Machine
end

