-- ==== Sys2Proof/Machine/SlotExec.lean ====
section
/-! DEFINITION. The slot instructions as bundles run them: the meaning of each as an attempt, the decision that the lead
takes for a B slot, and what a waiting B slot does before it waits (R23, R112, R421). -/

namespace Sys2Proof.Machine

/-- A slot instruction's attempt; the machine's own steps stand in no slot. -/
def slotSem (i : Instr) (s : State) : SlotRes :=
  match i with
  | .add f => semAdd f s
  | .sub f => semSub f s
  | .mul f => semMul f s
  | .mulh f => semMulh f s
  | .mulhz f => semMulhz f s
  | .div f => semDiv f s
  | .divz f => semDivz f s
  | .rem f => semRem f s
  | .remz f => semRemz f s
  | .and f => semAnd f s
  | .or f => semOr f s
  | .xor f => semXor f s
  | .andn f => semAndn f s
  | .shl f => semShl f s
  | .shr f => semShr f s
  | .sar f => semSar f s
  | .rotl f => semRotl f s
  | .clz f => semClz f s
  | .ctz f => semCtz f s
  | .popc f => semPopc f s
  | .min f => semMin f s
  | .max f => semMax f s
  | .minz f => semMinz f s
  | .maxz f => semMaxz f s
  | .addsh f => semAddsh f s
  | .sel f => semSel f s
  | .addi f => semAddi f s
  | .movi f => semMovi f s
  | .movhi f => semMovhi f s
  | .cmp f => semCmp f s
  | .pset f => semPset f s
  | .plog f => semPlog f s
  | .ld f => semLd f s
  | .st f => semSt f s
  | .fadd f => semFadd f s
  | .fsub f => semFsub f s
  | .fmul f => semFmul f s
  | .fma f => semFma f s
  | .fdiv f => semFdiv f s
  | .fsqrt f => semFsqrt f s
  | .fmin f => semFmin f s
  | .fmax f => semFmax f s
  | .fcmp f => semFcmp f s
  | .fcvt f => semFcvt f s
  | .fclass f => semFclass f s
  | .fchk f => semFchk f s
  | .movsys f => semMovsys f s
  | .movctlRead f => semMovctlRead f s
  | .movctlWrite f => semMovctlWrite f s
  | .movstg f => semMovstg f s
  | .rdstg f => semRdstg f s
  | .rst f => semRst f s
  | .rstf f => semRstf f s
  | .rld f => semRld f s
  | .vadd f => semVadd f s
  | .vsub f => semVsub f s
  | .vmul f => semVmul f s
  | .vmulh f => semVmulh f s
  | .vfma f => semVfma f s
  | .vmin f => semVmin f s
  | .vmax f => semVmax f s
  | .vabs f => semVabs f s
  | .vneg f => semVneg f s
  | .vand f => semVand f s
  | .vor f => semVor f s
  | .vxor f => semVxor f s
  | .vandn f => semVandn f s
  | .vshl f => semVshl f s
  | .vshr f => semVshr f s
  | .vsar f => semVsar f s
  | .vcmp f => semVcmp f s
  | .vsel f => semVsel f s
  | .vclz f => semVclz f s
  | .vpopc f => semVpopc f s
  | .vcrc f => semVcrc f s
  | .vmov f => semVmov f s
  | .klog f => semKlog f s
  | .vsplat f => semVsplat f s
  | .vext f => semVext f s
  | .vins f => semVins f s
  | .vld f => semVld f s
  | .vst f => semVst f s
  | .vgather f => semVgather f s
  | .vscatter f => semVscatter f s
  | .gset f => semGset f s
  | .greset f => semGreset f s
  | .vrotr f => semVrotr f s
  | .vrotc f => semVrotc f s
  | .vbcr f => semVbcr f s
  | .vbcc f => semVbcc f s
  | .vredr f => semVredr f s
  | .vredc f => semVredc f s
  | .vscanR f => semVscanR f s
  | .vscanC f => semVscanC f s
  | .vtrn f => semVtrn f s
  | .vshfr f => semVshfr f s
  | .vtopk f => semVtopk f s
  | .vcvt f => semVcvt f s
  | .vrcp f => semVrcp f s
  | .vrsq f => semVrsq f s
  | .vsqrt f => semVsqrt f s
  | .vdiv f => semVdiv f s
  | .vexp2 f => semVexp2 f s
  | .vlog2 f => semVlog2 f s
  | .vexp f => semVexp f s
  | .vlog f => semVlog f s
  | .vtanh f => semVtanh f s
  | .vsig f => semVsig f s
  | .vsin f => semVsin f s
  | .vcos f => semVcos f s
  | .qclr f => semQclr f s
  | .qadd f => semQadd f s
  | .qsub f => semQsub f s
  | .qdot f => semQdot f s
  | .qaddq f => semQaddq f s
  | .qsubq f => semQsubq f s
  | .qneg f => semQneg f s
  | .qrnd f => semQrnd f s
  | .qsave f => semQsave f s
  | .qload f => semQload f s
  | .qtov f => semQtov f s
  | .vtoq f => semVtoq f s
  | .mma f => semMma f s
  | .mzero f => semMzero f s
  | .mdrain f => semMdrain f s
  | .mload f => semMload f s
  | .mstore f => semMstore f s
  | .copy f => semCopy f s
  | .bufset f => semBufset f s
  | .bufsetOff f => semBufsetOff f s
  | .publish f => semPublish f s
  | .quant f => semQuant f s
  | .dequant f => semDequant f s
  | .sqld f => semSqld f s
  | .sqclr f => semSqclr f s
  | .xpush f => semXpush f s
  | .xfetch f => semXfetch f s
  | .xflush => semXflush s
  | .xcfg f => semXcfg f s
  | .br => semBr s
  | .brc bp bn => semBrc bp bn s
  | .call bx => semCall bx s
  | .ret bx => semRet bx s
  | .jmpr bx => semJmpr bx s
  | .loop bx imm => semLoop bx imm s
  | .loopRot bx imm => semLoopRot bx imm s
  | .loopw bp bn imm => semLoopw bp bn imm s
  | .yield => semYield s
  | .exit => semExit s
  | .allot bx by' => semAllot bx by' s
  | .shrink by' => semShrink by' s
  | .balloc bx q n => semBalloc bx q n s
  | .bfree bx n => semBfree bx n s
  | .vpark bx n => semVpark bx n s
  | .vunpark bx n => semVunpark bx n s
  | .mlease => semMlease s
  | .mrelease => semMrelease s
  | .launch bx by' q => semLaunch bx by' q s
  | .barcfg bx b => semBarcfg bx b s
  | .bar b => semBar b s
  | .barw b => semBarw b s
  | .bartst bp b => semBartst bp b s
  | .hadv bx => semHadv bx s
  | .ttstart bx by' q => semTtstart bx by' q s
  | .waitany bx => semWaitany bx s
  | .waitall bx => semWaitall bx s
  | .ffr bx by' => semFfr bx by' s
  | .tagclr bx => semTagclr bx s
  | .semw bx n => semSemw bx n s
  | .semsig bx n => semSemsig bx n s
  | .semset bx n => semSemset bx n s
  | .sclose stm => semSclose stm s
  | .fence scope => semFence scope s
  | .rngset bx by' n => semRngset bx by' n s
  | .rngclr by' n => semRngclr by' n s
  | .tlbinv bx by' => semTlbinv bx by' s
  | .tlbinva by' => semTlbinva by' s
  | .tlbinvaAll => semTlbinvaAll s
  | .trap n => semTrap n s
  | .eret => semEret s
  | .eretCtx bx op => semEretCtx bx op s
  | .ctxsave bx by' => semCtxsave bx by' s
  | .ctxload bx by' => semCtxload bx by' s
  | .jmark bx n => semJmark bx n s
  | .jflush => semJflush s
  | _ => .ok s

/-- The lead's decision for a B slot (R421). -/
def decideB (i : Instr) (s : State) : Decision :=
  match i with
  | .br => decBr s
  | .brc bp bn => decBrc bp bn s
  | .call _ => decCall s
  | .ret bx => decRet bx s
  | .jmpr bx => decJmpr bx s
  | .loop bx _ => decLoop bx s
  | .loopRot bx _ => decLoopRot bx s
  | .loopw bp bn _ => decLoopw bp bn s
  | .allot _ by' => decAllot by' s
  | .shrink by' => decShrink by' s
  | .balloc _ q n => decBalloc q n s
  | .bfree bx _ => decBfree bx s
  | .vpark _ _ => decVpark s
  | .vunpark bx _ => decVunpark bx s
  | .launch _ _ q => decLaunch q s
  | .barcfg bx _ => decBarcfg bx s
  | .ttstart _ _ q => decLaunch q s
  | _ => default

/-- What a B slot that has other slots beside it begins before it waits: only the wait of CTXSAVE and CTXLOAD, without effect.
An isolation instruction acts there in the cycle in which its bundle issues (R64, log 82). -/
def slotDry (i : Instr) (s : State) : State :=
  match i with
  | .ctxsave bx by' => goCtxsaveDry bx by' s
  | .ctxload bx by' => goCtxloadDry bx by' s
  | _ => s
/-- What a B slot alone in its bundle begins before it waits: the isolation instructions, CTXSAVE, CTXLOAD (R390, R438). -/
def slotGo (i : Instr) (s : State) : State :=
  match i with
  | .rngset bx by' n => goRngset bx by' n s
  | .rngclr by' n => goRngclr by' n s
  | .tlbinv bx by' => goTlbinv bx by' s
  | .tlbinva by' => goTlbinva by' s
  | .tlbinvaAll => goTlbinvaAll s
  | .ctxsave bx by' => goCtxsave bx by' s
  | .ctxload bx by' => goCtxload bx by' s
  | _ => s

end Sys2Proof.Machine
end

