-- ==== Sys2Proof/Machine/Run.lean ====
section
/-! DEFINITION. Running one bundle at one tile: every slot takes effect or none does (R22, R64, R90, R250). -/

namespace Sys2Proof.Machine

/-- How an attempt to run a bundle ends. -/
inductive Ran where
  | done
  | held (kinds : List Nat)
  | trapped (i : TrapInfo)
  deriving DecidableEq, Repr

/-- Aim at a bundle of a context at a tile. -/
def State.aim (s : State) (d t c : Nat) (b : Issued) : State :=
  { s with focus := ⟨d, t, c, .s0, b.no, b.baddr, b.pos, 0, b.dec⟩ }
/-- The syllable of a slot's header. -/
def hdrOf (l : List (Slot × Syl)) (p : Slot) : Syl := ((l.find? fun e => e.1 == p).map (·.2)).getD 0
/-- B instructions whose wait is looked at before any slot acts: they ask about earlier bundles only. -/
def waitsFirst : Instr → Bool
  | .waitany _ | .waitall _ | .fence _ | .semw .. | .barw _ => true
  | _ => false
/-- The order in which the slots are looked at: such a wait, the slots S0 to E, the other B instructions. -/
def slotOrder (l : List (Slot × Instr)) : List (Slot × Instr) :=
  (l.filter fun e => e.1 == .b && waitsFirst e.2) ++ (l.filter fun e => e.1 != .b)
    ++ l.filter fun e => e.1 == .b && !waitsFirst e.2

/-! ## Reads under way (R101, R167, R181, log 6) -/

/-- The last cycle, from its issue, in which a slot may read the scratchpad. -/
def readsLate (i : Instr) : Option Nat :=
  match i with
  | .st _ => none
  | i => lastAccess i
/-- The quire that a chaining instruction adds to (R202). -/
def chainsTo (i : Instr) : Option Nat :=
  match i with
  | .qadd f | .qsub f | .qdot f => some f.vd.toNat
  | _ => none
/-- The cycles from its issue in which what a slot has delivered may still change: its own reads, and those of the chain that
it adds to (R202). -/
def State.openReads (s : State) (i : Instr) : Option Nat :=
  let f := s.focus
  let l := s.lates.filter fun o => o.focus.die == f.die && o.focus.tile == f.tile && o.focus.ctx == f.ctx
    && (chainsTo i).isSome && chainsTo o.instr == chainsTo i && s.t ≤ o.last
  let m := l.foldl (fun a o => max a (o.last - s.t)) 1
  if l.isEmpty then readsLate i else some (max m ((readsLate i).getD 0))
/-- Rows that the slot in focus has pushed land no earlier than the cycle after its last read, n cycles after its issue. -/
def State.landBehind (s : State) (n : Nat) : State :=
  let f := s.focus
  ((upFrom 0 4).filterMap fun k => s.neighbour k).foldl (fun s u =>
    s.modTile f.die u fun y => if y.fifoIn.isEmpty then y else
      { y with fifoIn := y.fifoIn.map fun r =>
          if r.id == s.writeId && r.ctx == f.ctx && s.now < r.cycle then { r with cycle := max r.cycle (s.now + n + 2) } else r }) s
/-- A slot has executed on a state: its reads are under way, and its flags and the rows that it pushes land behind them. -/
def State.underWay (s : State) (i : Instr) (old : State) : State :=
  match old.openReads i with
  | none => s
  | some n =>
    let s := (s.landBehind n).modR fun r =>
      { r with fW := r.fW.map fun f => if f.id = s.writeId then { f with land := max f.land (s.t + n + 1) } else f }
    { s with lates := s.lates ++ [⟨s.focus, i, old.fctx, old.ftile, s.t, s.t + n, false, old.freeCtr, []⟩] }

/-- Try the slots in order: the state after those that may execute, the holds, the first trap. -/
def runSlots (hdrs : List (Slot × Syl)) : List (Slot × Instr) → State → State × List Nat × Option TrapInfo
  | [], s => (s, [], none)
  | (p, i) :: l, s =>
    let s := { s with focus := { s.focus with slot := p, hdr := hdrOf hdrs p } }
    match slotSem i s with
    | .ok s' => runSlots hdrs l (s'.underWay i s)
    | .error (.hold k) =>
      let (s, h, t) := runSlots hdrs l s
      (s, k :: h, t)
    | .error (.trap i) =>
      let (s, h, _) := runSlots hdrs l s
      (s, h, some i)

/-- Apply what an instruction left for the next bundle (R90, R110, R166, R315, R428). -/
def State.applyLate (s : State) (l : Late) : State :=
  let f := s.focus
  match l with
  | .fsr v => s.modR fun r => { r with fsr := v, fW := r.fW.filter fun w => s.t ≤ w.land }
  | .voff v => s.modR fun r => { r with voff := v }
  | .soff v => s.modR fun r => { r with soff := v }
  | .tvec v => s.modF fun c => { c with t := { c.t with tvec := v } }
  | .tdeleg v => s.modF fun c => { c with t := { c.t with tdeleg := v } }
  | .tscr n v => s.modF fun c => { c with t := { c.t with tscr := c.t.tscr.set n v } }
  | .trpos v => s.writeTrpos f.die s.leadOf f.ctx v
  | .gset n row => s.modF fun c => { c with ports := c.ports.set n (portOfRow row) }
  | .greset m => s.modF fun c =>
      { c with ports := (bitsOf m 8).foldl (fun (p : FMap Port) n =>
          p.set n { p.get n with pos := [0, 0, 0, 0] }) c.ports }
  | .tagclr m => s.modFT fun t => { t with tags := t.tags &&& ~~~m }

/-- Hold kinds of bundles: those that end when the bundle executes (R298). -/
def bundleHolds : List Nat := [0, 1, 2, 3, 4, 5, 6, 7]
/-- End the holds of a context at a tile that are not among those met now. -/
def State.endHolds (s : State) (d t c : Nat) (now : List Nat) : State :=
  (bundleHolds.filter fun k => !now.contains k).foldl (fun s k => s.endHold d t c k) s
/-- The bundle has executed at the tile. -/
def State.closeBundle (s : State) (no : Nat) : State :=
  let f := s.focus
  let late := s.fctx.r.late
  let s := s.modF fun c => { c with nextNo := no + 1, lastAt := s.t, early := [], evict := false, r := { c.r with late := [] } }
  (late.foldl (fun s l => s.applyLate l) s).endHolds f.die f.tile f.ctx []

/-- The guard of a scalar access holds; other accesses have none (R79). -/
def State.accesses (s : State) : Instr → Bool
  | .ld f => s.guard f.pg f.pn
  | .st f => s.guard f.pg f.pn
  | _ => true
/-- The last scratchpad access that a bundle's slots make, in cycles from its issue (R79, R266). -/
def State.lastOf (s : State) (l : List (Slot × Instr)) : Nat :=
  (l.filter fun e => s.accesses e.2).foldl (fun a e => max a ((lastAccess e.2).getD 0)) 0
/-- The first write that the slots of a bundle have made, since a state, to a half to which a read is bound (R321). -/
def State.storeHeld (s s' : State) : Option PStore :=
  let f := s.focus
  if s.ftile.bufs.isEmpty then none
  else (s'.ftile.pend.drop s.ftile.pend.length).find? fun p => p.bytes.any fun e => s.hiddenHeld f.die f.tile e.1 1
/-- The addresses that the remote instructions of a bundle translate (R328). -/
def State.remoteVas (s : State) (l : List (Slot × Instr)) : List Nat :=
  l.filterMap fun e => match e.2 with
    | .rst f => if s.guard f.pg f.pn then some (s.rs f.sa).toNat else none
    | .rld f => if s.guard f.pg f.pn then some (s.rs f.sa).toNat else none
    | .rstf f => some (s.rs f.sa).toNat
    | _ => none
/-- The bundle in focus holds with some kinds; other holds of its context end. -/
def State.heldWith (s : State) (ks : List Nat) : State × Ran :=
  let f := s.focus
  ((ks.foldl (fun s k => s.noteHold k) s).endHolds f.die f.tile f.ctx (ks.map (· % 16)), .held ks)
/-- Deviation: engine, for a store that would wait (R321): engine 1 for the scalar slots, 2 for the vector slots. -/
def storeDev (p : PStore) : TrapInfo := { cause := 0x82, kind := 0, eng := if p.id % 16 < 2 then 1 else 2 }
/-- Run the slots of a bundle that the focus is aimed at: all take effect, or it holds or traps and none does. Its remote
slots first get their translations (R385, log 91). A B slot alone that waits for what it begins begins it, and it stays begun;
beside other slots it has no effect before the bundle issues (R64). -/
def State.runBundle (s : State) (b : Issued) : State × Ran :=
  let f := s.focus
  let (s, ready) := s.genReady (s.who f.die f.tile f.ctx) 0 (s.remoteVas b.slots)
  if !ready then (if s.timed then (s, .held []) else s.heldWith [1])
  else
  let alone := b.slots.all fun e => e.1 == .b
  let go := (b.slots.filter fun e => e.1 == .b).foldl (fun s e => if alone then slotGo e.2 s else slotDry e.2 s) s
  let n := s.lastOf b.slots
  let s0 := if n = 0 then go else go.modF fun c => { c with acc := max c.acc (s.t + n) }
  let (s1, holds, trap) := runSlots b.hdrs (slotOrder b.slots) s0
  if !holds.isEmpty then
    let s := if (b.slots.any fun e => match e.2 with
        | .fence _ => true
        | _ => false) && holds.all (fun k => k == 5 || k == 12) then go.askEvict else go
    s.heldWith holds
  else match trap, s0.storeHeld s1 with
    | some i, _ => (s.modF fun c => { c with early := [] }, .trapped i)
    | none, some p =>
      if s.timed then (s.modF fun c => { c with early := [] }, .trapped (storeDev p)) else go.heldWith [1]
    | none, none => ((s1.closeBundle b.no).modFT fun x => x.unpipe 0, .done)

/-! ## Rows read before a delayed bundle (R180, R268, R388) -/

/-- Idle bundles that precede a bundle for the sake of an instruction. -/
def preOf (i : Instr) : Nat :=
  match i with
  | .vgather f | .vscatter f => if isReadPort f.vb then vocc f + 1 else 0
  | .launch .. | .ttstart .. => 5
  | .rngset .. => 2
  | _ => 0
/-- Idle bundles that precede a bundle. -/
def preNeed (l : List (Slot × Instr)) : Nat := l.foldl (fun a e => max a (preOf e.2)) 0
/-- Rows that an instruction takes from a read port. -/
def portTakes (i : Instr) (g : Nat) : Nat :=
  match i.vrow with
  | some (_, f) => ((srcRows i f).filter fun x => x.1.toNat == 8 + g).foldl (fun a x => max a x.2) 0
  | none => 0
/-- The context's ports as an earlier slot of the bundle leaves them (R77). -/
def State.pastPorts (s : State) (i : Instr) : State :=
  s.modF fun c => { c with ports := (upFrom 0 6).foldl (fun (m : FMap Port) g =>
    if portTakes i g = 0 then m else m.set g ((m.get g).full.walk (portTakes i g)).2) c.ports }
/-- The rows that an instruction of the bundle to come reads at the focus, the ports standing as the slots before it
leave them. -/
def State.preRows (s : State) (i : Instr) : Option VReg :=
  match i with
  | .vgather f | .vscatter f =>
    if !isReadPort f.vb then none
    else match s.portWalk (f.vb.toNat - 8) (vh f) with
      | .ok (_, l) => some (ofRows (s.slotRows (s.t + 1) l).2)
      | .error _ => none
  | .launch bx _ _ | .ttstart bx _ _ =>
    let a := (s.rs bx).toNat
    if s.atLead && (launchAddr a).isOk then some (s.imageRows a) else none
  | .rngset bx _ _ =>
    let a := (s.rs bx).toNat
    if s.atLead && !padBad a 32 then some (BitVec.ofNat 8192 (leNat (s.rngRow a))) else none
  | _ => none
/-- What a slot of the bundle to come reads before it, and the state that it reads on: the earlier vector slots have moved their
ports. -/
def State.preRead (s : State) (l : List (Slot × Instr)) (e : Slot × Instr) : State × Option VReg :=
  let before := l.filter fun x => x.1.cls == .v && slotNum x.1 < slotNum e.1
  let from' := { before.foldl (fun s x => s.pastPorts x.2) s with focus := { s.focus with slot := e.1 } }
  (from', from'.preRows e.2)
/-- Run an idle bundle, and begin to read what the bundle to come needs. -/
def State.runIdle (s : State) (b : Issued) : State :=
  let early := b.pre.filterMap fun e => let r := s.preRead b.pre e; r.2.map fun v => (e, r.1, v)
  let e : FMap VReg := early.foldl (fun (m : FMap VReg) x => m.set (slotNum x.1.1) x.2.2) s.fctx.early
  let ops := early.map fun x =>
    (⟨x.2.1.focus, x.1.2, x.2.1.fctx, s.ftile, s.t, s.t + preOf x.1.2 - 1, true, s.freeCtr, []⟩ : LateOp)
  { (s.closeBundle b.no).modF fun c => { c with early := e } with lates := s.lates ++ ops }

/-- Replace the entries of a list by new ones, each by the first that is the same writing. -/
def swapIn {α : Type} (same : α → α → Bool) (put : α → α → α) : List α → List α → List α
  | [], _ => []
  | x :: l, new => match new.find? (same x) with
    | some y => put x y :: swapIn same put l (new.eraseP (same x))
    | none => x :: swapIn same put l new
/-- Register writes of a slot from its first free value on, as they come out anew. -/
def swapW {w : Nat} (free : Nat) (old new : List (PWrite w)) : List (PWrite w) :=
  swapIn (fun x y => x.reg == y.reg && x.t0 == y.t0 && x.free == y.free)
    (fun x y => { x with val := y.val, mask := y.mask }) old (new.filter fun p => free ≤ p.free)
/-- The registers of a context with a slot's results as they come out anew; flags land from a clock on. -/
def Regs.anew (r new : Regs) (free id clk : Nat) : Regs :=
  { r with
    sW := swapW free r.sW new.sW, pW := swapW free r.pW new.pW, kW := swapW free r.kW new.kW
    qW := swapW free r.qW new.qW, oW := swapW free r.oW new.oW, vW := swapW free r.vW new.vW
    fW := r.fW.filter (fun f => f.id != id) ++
      (new.fW.filter fun f => f.id == id).map fun f => { f with land := max f.land clk } }
/-- What a slot executed on, with the scratchpad as its rows find it and the neighbours' FIFOs empty. One of the shadow context
reads in the cycle before, behind all that has been written (R284). -/
def State.asOf (s : State) (o : LateOp) : State :=
  let f := o.focus
  let x := s.tile f.die f.tile
  let v := { s with focus := f, freeCtr := o.free, now := o.at', lates := [], upsets := [] }
  let pend := x.pend.map fun p => { p with cycle := p.tick x.lag }
  let v := (v.setTile f.die f.tile { o.tile with
      bufs := o.bufs.foldl (fun (m : FMap Buf) e => m.set e.1 e.2) x.bufs, pend := if f.ctx = 4 then [] else pend
      undo := if f.ctx = 4 then [] else x.undo, lag := 0 }).setCtx f.die f.tile f.ctx o.ctx
  ((upFrom 0 4).filterMap fun k => v.neighbour k).foldl (fun v n =>
    v.modTile f.die n fun y => { y with fifo := [], fifoIn := [], pops := [] }) v
/-- Put a slot's results as they come out anew in the place of what they were; a slot that has chained onto them finds them so
(R202). -/
def State.putAnew (s : State) (o : LateOp) (v : State) : State :=
  let f := o.focus
  let id := v.writeId
  let old := s.tile f.die f.tile
  let new := (v.ctx f.die f.tile f.ctx).r
  let s := { s with lates := s.lates.map fun (p : LateOp) =>
    if p.focus.die == f.die && p.focus.tile == f.tile && p.focus.ctx == f.ctx && (chainsTo p.instr).isSome then
      { p with ctx := { p.ctx with r := { p.ctx.r with qW := swapW o.free p.ctx.r.qW new.qW } } }
    else p }
  let s := s.modCtx f.die f.tile f.ctx fun x =>
    { x with r := x.r.anew new o.free id (s.clock f.die f.tile) }
  let same (a b : PStore) : Bool := a.id == b.id && a.ctx == b.ctx && a.cycle == b.cycle
  let s := s.modTile f.die f.tile fun x =>
    { x with
      pend := swapIn same (fun a b => { a with bytes := b.bytes }) x.pend
        ((v.tile f.die f.tile).pend.drop old.pend.length) }
  ((upFrom 0 4).filterMap fun k => v.neighbour k).foldl (fun s n =>
    s.modTile f.die n fun x =>
      { x with
        fifoIn := swapIn (fun (a b : FifoRow) => a.id == b.id && a.ctx == b.ctx && a.dir == b.dir)
          (fun a b => { a with row := b.row }) x.fifoIn (v.tile f.die n).fifoIn }) s
/-- Compute the results of a slot again from the rows as they have been read so far. -/
def State.rerun (s : State) (o : LateOp) : State :=
  let f := o.focus
  let v := s.asOf o
  if o.early then
    match v.preRows o.instr with
    | some r => s.modCtx f.die f.tile f.ctx fun x => { x with early := x.early.set (slotNum f.slot) r }
    | none => s
  else match slotSem o.instr v with
    | .ok w => s.putAnew o w
    | .error _ => s
/-- Runs of a slot's rows: four in each cycle from the one after its issue. -/
def rowRuns (l : List Nat) : List (Nat × Nat × Nat) :=
  (l.zip (upFrom 0 l.length)).map fun e => (1 + e.2 / 4, e.1, 64)
/-- Runs of the rows that a read port gives. -/
def State.portRuns (s : State) (c : BitVec 8) (n : Nat) : List (Nat × Nat × Nat) :=
  match s.portWalk (c.toNat - 8) n with
  | .ok (_, l) => rowRuns l
  | .error _ => []
/-- The scratchpad runs that a slot in focus reads, each with its cycle from the issue (R101, R167, R180, R181, R204); early,
those that are read before its bundle. -/
def State.slotReads (s : State) (early : Bool) (i : Instr) : List (Nat × Nat × Nat) :=
  if early then
    match i with
    | .vgather f | .vscatter f => s.portRuns f.vb (vh f)
    | .launch bx _ _ | .ttstart bx _ _ => (upFrom 0 4).map fun q => (1 + q, (s.rs bx).toNat + 64 * q, 64)
    | .rngset bx _ _ => [(1, (s.rs bx).toNat, 32)]
    | _ => []
  else
    let ports := match i.vrow with
      | some (_, f) =>
        ((srcRows i f).filter fun x => isReadPort x.1 && !(preOf i != 0 && x.1 == f.vb)).flatMap fun x => s.portRuns x.1 x.2
      | none => []
    ports ++ match i with
      | .ld f => if s.guard f.pg f.pn then [(1, s.smAddr f, szBytes f.sz)] else []
      | .qload f => match s.quireAddr f with
        | .ok a => [(1, a, 64)]
        | .error _ => []
      | .vld f => match s.vAddrs f with
        | .ok l =>
          let m := elemBits (vfW f) (s.enabled f (vfW f) (vfN f))
          ((rowRuns l).zip (upFrom 0 (vh f))).filterMap fun e => if rowOf m e.2 != 0 then some e.1 else none
        | .error _ => []
      | .vgather f =>
        let n := vfN f
        let en := s.enabled f 4 n
        let l : Try (List Nat) := do
          let (s, iv) ← s.indexSource f
          gatherAddrs (s.rsV f.va) en (elems 4 n iv)
        match l with
        | .ok l => ((en.zip l).zip (upFrom 0 n)).filterMap fun e => if e.1.1 then some (1 + e.2 / 16, e.1.2, 4) else none
        | .error _ => []
      | _ => []
/-- A slot's reads are bound to the halves that its first bytes in each public range have found, those of the cycle before
being the last that it has read (R321). -/
def State.bindLate (s : State) (o : LateOp) : LateOp :=
  let l := (s.tile o.focus.die o.focus.tile).bufs.filter fun e => e.2.en && (o.bufs.find? e.1).isNone
  if l.isEmpty then o
  else
    let runs := ((s.asOf o).slotReads o.early o.instr).filter fun r => o.at' + r.1 < s.clockOf o.focus
    let new := l.filter fun e => runs.any fun r => meets r.2.1 r.2.2 e.2.pub e.2.size
    { o with bufs := new.foldl (fun (m : FMap Buf) e => m.set e.1 e.2) o.bufs }
/-- The rows that executed slots of a tile have read up to the cycle before count from now on (R302, R303). -/
def State.readLate (s : State) (d t : Nat) : State :=
  let mine (o : LateOp) : Bool := o.focus.die == d && o.focus.tile == t
  let began (o : LateOp) : Bool := mine o && o.at' + 1 < s.clockOf o.focus
  if !s.lates.any mine then s
  else
    let seen := s.lates.map fun o => if began o then s.bindLate o else o
    let s := (upFrom 0 seen.length).foldl (fun s n =>
      (s.lates[n]?.toList.filter began).foldl (fun s o => s.rerun o) s) { s with lates := seen }
    let s := { s with lates := s.lates.filter fun o => !(mine o && o.last < s.clockOf o.focus) }
    if s.lates.any mine then s else s.modTile d t fun x => { x with undo := [] }

/-! ## Passing bundles on (R23, R252) -/

/-- Tiles that a tile forwards to: east, and south in the caravan's first column. -/
def Car.nexts (c : Car) (t : Nat) : List Nat :=
  (if c.ccol t + 1 < c.w then [t + 1] else []) ++ if c.ccol t = 0 && c.crow t + 1 < c.h then [t + 32] else []
/-- The tile from which a follower receives bundles. -/
def Car.prev (c : Car) (t : Nat) : Nat := if c.ccol t = 0 then t - 32 else t - 1
/-- Forward a bundle: one hop a cycle. -/
def State.forward (s : State) (d t c no : Nat) : State :=
  if c = 4 then s
  else ((s.car d t).nexts t).foldl (fun s u => s.modCtx d u c fun x => { x with inbox := x.inbox ++ [(no, s.now + 1)] }) s
/-- Execute a bundle at a tile: a reissued one that the tile has executed before has no effect (R422). -/
def State.execAt (s : State) (d t c : Nat) (b : Issued) : State × Ran :=
  if b.no < (s.ctx d t c).nextNo then (s.modCtx d t c fun x => { x with lastAt := s.clock d t }, .done)
  else
    let s := s.aim d t c b
    if b.slots.isEmpty then (s.runIdle b, .done) else s.runBundle b

end Sys2Proof.Machine
end

