-- ==== Sys2Proof/Machine/Domain.lean ====
section
/-! DEFINITION. Timetables and their domains: reading them, and aborting a domain (R271, R272, R281, R282). -/

namespace Sys2Proof.Machine

/-! ## Reading what a waybill points at -/

/-- Bytes at a virtual address of an ASID, as a hardware agent of the die reads them; none where one of their rows
cannot be read. -/
def State.virtBytes (s : State) (d asid va n : Nat) : Option (List Byte) :=
  (rowsOf va n).foldl (fun (a : Option (List Byte)) r => match a with
    | none => none
    | some l =>
      if r.1 < padSize then none
      else match (s.reach d asid .read r.1).2 with
        | .ok p => if s.poisonAt d p r.2 then none else some (l ++ s.load (s.placeKey d p) r.2)
        | .error _ => none) (some [])
/-- A doubleword of an image as a number. -/
def q8 (b : List Byte) (off : Nat) : Nat := leNat ((b.drop off).take 8)

/-! ## Timetable entries (R272, R273) -/

/-- Entry n of a list of doublewords at a virtual address. -/
def State.listEntry (s : State) (d asid base n : Nat) : Option Nat :=
  (s.virtBytes d asid (base + 8 * n) 8).map leNat
/-- Entries that a list can have: 8 bytes each, in 2^57 bytes of addresses. -/
def listMax : Nat := 2 ^ 54
/-- CYC. -/
def leCyc (e : Nat) : Nat := nbits e 63 24
/-- CTX of an issue entry. -/
def leCtx (e : Nat) : Nat := nbits e 23 22
/-- Last cycle of an issue entry. -/
def leEnd (e : Nat) : Nat := leCyc e + nbits e 21 12
/-- END. -/
def leLast (e : Nat) : Bool := e.testBit 0

/-! ## Domains -/

/-- Dies of the domain of a die's timetable. -/
def State.domainOf (s : State) (d : Nat) : List Nat :=
  match (s.die d).tt with
  | some t => (upFrom 0 4).filter fun e => t.domain.testBit e
  | none => []
/-- The die runs in a started domain. -/
def State.domainRuns (s : State) (d : Nat) : Bool := ((s.die d).tt.map fun (t : Timetable) => t.phase == 3).getD false
/-- TTC offset from S. -/
def State.sinceStart (s : State) (d : Nat) : Option Nat :=
  (s.die d).tt.bind fun t => if t.phase == 3 && t.start ≤ s.ttc d then some (s.ttc d - t.start) else none
/-- A cause is a deviation, or the overrun of a timetable (R281). -/
def isDeviation (cause : Nat) : Bool := 0x80 ≤ cause && cause ≤ 0x87

/-- Abort a die's part of its domain (R282). Its contexts' issue ends at once, and what was issued finishes under
free-mode rules; mode 5 marks their caravans: neither timed nor recorded. A die whose waybill has ended stays done, its TTC standing;
one that has not placed its caravans yet places none (log 97). -/
def State.abortDie (s : State) (d : Nat) : State :=
  match (s.die d).tt with
  | none => s
  | some t =>
    if t.phase = 5 then s.modDie d fun x => { x with tt := some { t with phase := 6 }, freeze := none }
    else if 5 ≤ t.phase then s
    else if t.phase < 3 then s.modDie d fun x =>
      { x with
        tt := some { t with phase := 6 }
        freeze := none
        wbs := x.wbs.erase t.entNo
        queues := x.queues.modify t.queue fun l => l.filter fun e => e.no != t.entNo }
    else
    let cars := ((s.die d).cars.filter fun e => e.2.wb == t.entNo && e.2.mode == 1)
    let s := s.modDie d fun x =>
      { x with
        tt := some { t with phase := 4 }
        freeze := none
        wbs := x.wbs.map fun e => if e.1 = t.entNo then (e.1, { e.2 with aborted := true }) else e
        cars := x.cars.map fun e => if e.2.wb = t.entNo && e.2.mode = 1 then (e.1, { e.2 with mode := 5 }) else e }
    cars.foldl (fun s e => (upFrom 0 e.2.nctx).foldl (fun s c =>
      let l := e.2.leadTile
      if (s.ctx d l c).st == .ended then s
      else (s.askStop d l c { cause := 0x88, kind := 4, eng := 10 }).modLead d l c fun x => { x with halted := true }) s) s
/-- A deviation aborts its domain on every die of it (R282). -/
def State.abortDomain (s : State) (d : Nat) : State := (s.domainOf d).foldl (fun s e => s.abortDie e) s
/-- Take a trap at the focus; a deviation aborts the domain, and a reservation that fails at a commit sets JFULL (R461). -/
def State.trapHere (s : State) (i : TrapInfo) : State :=
  let dev := s.timed && isDeviation i.cause
  let s' := s.takeTrap i
  let s' := if i.cause = 0x89 && i.status = 1 then s'.jfull s.focus.die else s'
  if dev then s'.abortDomain s.focus.die else s'

end Sys2Proof.Machine
end

