-- ==== Sys2Proof/Machine/Lead.lean ====
section
/-! DEFINITION. Issue at the lead: fetch and transfer of segments, the checks before issue, the choice of the context,
timetabled issue, reissue, and the shadow context (R39 to R58, R65, R250, R251, R272, R284, R285, R421, R422). -/

namespace Sys2Proof.Machine

/-! ## Fetch (R42, R43, R50) -/

/-- Cycles until a line of code returns (R485). -/
def State.fetchLat (s : State) (d asid a : Nat) : Nat :=
  match (s.reach d asid .fetch a).2 with
  | .ok (.die _ _) => 520
  | .ok (.tier _) => 2 * crossD + 600
  | .ok (.host _) => 2 * crossD
  | _ => 1
/-- A half into which a segment is being fetched. -/
def State.fetchHalf (s : State) (d asid a : Nat) : Half := ⟨true, a, [], none, some (s.now + s.fetchLat d asid a)⟩
/-- A segment is fetched anew: what was wrong in its syllables is gone (R51, R447). -/
def State.freshCode (s : State) (d l c a : Nat) : State :=
  { s with upsets := s.upsets.filter fun u => match u with
      | .code d' l' c' a' _ => !(d' == d && l' == l && c' == c && a' == a)
      | _ => true }
/-- ASID of the caravan that a tile leads. -/
def State.asidAtTile (s : State) (d l : Nat) : Nat := (s.car d l).asid
/-- Make a segment current: it stays, the halves swap, or it is fetched into the spare half (R43). -/
def State.goSegment (s : State) (d l c seg : Nat) : State :=
  let x := s.lead d l c
  if x.cur.has seg then s
  else if x.spare.has seg then s.modLead d l c fun x => { x with sel := !x.sel }
  else
    let h := s.fetchHalf d (s.asidAtTile d l) seg
    (s.freshCode d l c seg).modLead d l c fun x => { x.setSpare h with sel := !x.sel }
/-- The prefetch that begins when a segment starts executing (R42); the shadow context has none (R284). -/
def State.prefetch (s : State) (d l c : Nat) : State :=
  let x := s.lead d l c
  let r := x.cur.record
  let want := if recPfa r then some (recAlt r) else if recNextv r then some (recNext r) else none
  match want with
  | some a =>
    if c = 4 || x.cur.has a || x.spare.has a then s
    else
      let h := s.fetchHalf d (s.asidAtTile d l) a
      (s.freshCode d l c a).modLead d l c fun x => x.setSpare h
  | none => s
/-- The syllables of a line are expanded, or the half ends at a line that could not be fetched. -/
def Half.take (h : Half) (now : Nat) (r : Except FetchFail (List Syl)) : Half :=
  match r with
  | .error f => { h with fail := some f, next := none }
  | .ok l =>
    let h := { h with syls := h.syls ++ l }
    { h with next := if h.ended then none else some (now + 1) }
/-- Return the next line of a half, once the general stream has its translation (R385). -/
def State.fillHalf (s : State) (d l c : Nat) (h : Half) : State × Option Half :=
  let a := h.addr + 4 * h.syls.length
  let (s, ready) := s.genReady (s.who d l c) 0 [a]
  if !ready then (s, none)
  else
    let (s, r) := s.fetchLine d (s.asidAtTile d l) a
    ((s.modTile d l fun x => x.unpipe 0), some (h.take s.now r))
/-- The next line of a half may return. -/
def Half.lineDue (h : Half) (now : Nat) : Bool := (h.next.map fun n => decide (n ≤ now)) == some true
/-- FETCH_LINE_RETURN (R42): the lead's one prefetch engine expands at most one line in a cycle: for the contexts in
the order in which the cycle asks, and for a context's current half before its spare one (log 84). -/
def execFetchLineReturn (die lead ctx : Nat) (s : State) : Host.Outcome State Fault Refusal :=
  let x := s.lead die lead ctx
  let busy (s : State) : State := s.modTile die lead fun t => { t with fetchAt := s.now + 1 }
  .next (
    if (s.tile die lead).fetchAt = s.now + 1 then s
    else if x.cur.lineDue s.now then
      match s.fillHalf die lead ctx x.cur with
      | (s, some h) => (busy s).modLead die lead ctx fun x => x.setCur h
      | (s, none) => s
    else if x.spare.lineDue s.now then
      match s.fillHalf die lead ctx x.spare with
      | (s, some h) => (busy s).modLead die lead ctx fun x => x.setSpare h
      | (s, none) => s
    else s)

/-! ## Checks before issue (R65) -/

/-- A trap at issue: kind B, found by the lead (R430 code 0). -/
def issueTrap (cause : Nat) (status addr2 : Nat := 0) (baddr : Option Nat := none) : TrapInfo :=
  { cause := cause, kind := 0, eng := 0, status := status, addr2 := addr2 % 2 ^ 57, baddr := baddr }
/-- Some instruction may not stand in a delay position (R57). -/
def notInDelay : Instr → Bool
  | .loop .. | .loopRot .. | .loopw .. | .yield | .exit => true
  | i => isTransfer i
/-- What the lead finds at a position. -/
inductive Found where
  | stall
  | trap (i : TrapInfo)
  | bundle (b : Bundle) (hdrs : List (Slot × Syl)) (baddr : Nat)
  /-- An idle bundle of the bundle at the address, of so many. -/
  | idle (n baddr : Nat)
  deriving DecidableEq, Repr
/-- The trap of a fetch-poisoned bundle: the prefetch engine has failed (R430, log 28), with BADDR and ADDR2 (R50). -/
def poisonTrap (h : Half) (idx : Nat) (off : Option Nat) : TrapInfo :=
  let f := h.fail.getD ⟨0x40, 0, 0⟩
  { issueTrap f.cause f.status (if f.cause = 0xA5 then 0 else if h.recRead then max f.line (h.addr + 16) else h.addr)
      (some (if idx = 0 then h.addr + 16 else (off.map (bodyAddr h.addr)).getD 0)) with eng := 8 }
/-- Syllables of a half up to the bundle at an index, if a syllable of that bundle or of the record is the one named. -/
def Half.upTo (h : Half) (idx syl : Nat) : Option Nat :=
  match h.look idx with
  | .found off ws =>
    if syl < 4 then some 0 else if 4 + off ≤ syl && syl < 4 + off + bundleLen ws then some (4 + off) else none
  | _ => none
/-- The bundle that would issue has a parity error in the loop buffer (R447): it is found now, with cause 0xA5, and the
expansion ends there, so that a resumption fetches the segment again (R51). -/
def State.codeParity (s : State) (d l c : Nat) (p : Pos) : State :=
  let h := (s.lead d l c).cur
  let hit (u : Upset) : Option Nat := match u with
    | .code d' l' c' a k => if d' == d && l' == l && c' == c && a == h.addr then h.upTo p.idx k else none
    | _ => none
  if s.upsets.isEmpty || p.ioff ≠ 0 then s
  else match s.upsets.find? fun u => (hit u).isSome with
    | none => s
    | some u => ({ s with upsets := s.upsets.erase u }.incCtl d 0x448).modLead d l c fun x =>
        x.setCur { h with syls := h.syls.take ((hit u).getD 0), fail := some ⟨0xA5, 0, 0⟩, next := none }

/-- LAST as LEN requires it of a bundle at an offset that takes n syllables (R38). -/
def lastWanted (h : Half) (off n : Nat) : Bool := off + n == recLen h.record
/-- The rows of R65 that need no register: those of the record, the header, LAST, the 65th bundle, the syllables. -/
def readBundle (h : Half) (p : Pos) (chk : Bool) : Found :=
  if h.fail.isNone && h.recRead && recBad h.record then .trap (issueTrap 0x01 0 0 (some h.addr))
  else match h.look p.idx with
  | .wait => .stall
  | .poison off => .trap (poisonTrap h p.idx off)
  | .past => .trap (if chk then issueTrap 0x0A else issueTrap 0x04 0 0 (some (bodyAddr h.addr (recLen h.record))))
  | .found off ws =>
    let n := bundleLen ws
    let a := bodyAddr h.addr off
    let idle := hdrIdle (ws.headD 0)
    if 0 < p.ioff then
      if p.ioff ≤ idle && (!chk || 2 ≤ p.ioff) then .idle idle a else .trap (issueTrap 0x0A 0 0 (some a))
    else
      let t (cause : Nat) (status : Nat := 0) : Found := .trap (issueTrap cause status 0 (some a))
      match decodeBundle ws with
      | (_, .error .header) => t 0x00 4
      | (_, .error .beyond) => t 0x00 5
      | (_, r) =>
        if hdrLast (ws.headD 0) != lastWanted h off n then t 0x02
        else if 64 ≤ p.idx then t 0x03
        else match r with
          | .error r => t 0x00 r.status
          | .ok b =>
            let cut := ((cutSlots Slot.all (ws.headD 0) ((ws.take n).drop 1)).map (·.1)).getD []
            if b.slots.any fun e => loopAbove p.idx e.2 then t 0x00 2
            else if b.slots.any fun e => chainEnd h p.idx e.2 == none then .stall
            else .bundle b (cut.map fun e => (e.1, e.2.headD 0)) a

/-- A vector slot that the bundle names is busy: by the same context (true) or by another. -/
def State.slotBusy (s : State) (d l c : Nat) (b : List (Slot × Instr)) : Option Bool :=
  let v := (s.tile d l).vbusy.filter fun e => s.clock d l < e.2.2 && b.any fun x => slotNum x.1 == e.1
  if v.any fun e => e.2.1 == c then some true else if v.isEmpty then none else some false
/-- The rows of R65 that the context decides, and R339. -/
def State.staticTrap (s : State) (d l c : Nat) (b : List (Slot × Instr)) : Option TrapInfo :=
  let x := s.ctx d l c
  if b.any fun e => x.outside e.2 then some (issueTrap 0x05)
  else if dupDest b then some (issueTrap 0x06)
  else if s.slotBusy d l c b == some true then some (issueTrap 0x07)
  else if x.lead.re.isNone && x.lead.flow.pend.isSome && b.any fun e => notInDelay e.2 then some (issueTrap 0x08)
  else if x.e.wrongSet b then some (issueTrap 0x09)
  else if b.any fun e => chainEnd x.lead.cur x.lead.flow.pos.idx e.2 == some true then some (issueTrap 0x04)
  else (overShare b (s.car d l).share).map fun st => issueTrap 0x6B st

/-- Instructions that the miss handler may run (R284). -/
def shadowMay (e : Slot × Instr) : Bool :=
  match e.2 with
  | .br | .brc .. | .call _ | .ret _ | .jmpr _ | .loop .. | .loopw .. | .fence _ | .rngset .. | .rngclr .. | .tlbinv ..
  | .tlbinva _ | .tlbinvaAll | .eret | .exit => true
  | i => i.slotClass == some .s

/-! ## What an attempt at issue ends in -/

/-- The end of an attempt: the cycle is used, the context waits for code, it is blocked by a hold kind, or it cannot
issue at all. -/
inductive Att where
  | used | stall | block (kind : Nat) | no
  deriving DecidableEq, Repr

/-- The position after a transfer, after the idle count, or within it (R39, R56, R116), and what then takes effect:
`x` says that the bundle itself is a transfer. -/
def State.stepFlow (s : State) (d l c idle : Nat) (x : Bool) : State :=
  let f := (s.lead d l c).flow
  let h := (s.lead d l c).cur
  let (pend, jump) : Option (Option Pos × Nat) × Option Pos :=
    if x then (f.pend, none)
    else match f.pend with
      | some (g, n + 1) => if n = 0 then (none, g) else (some (g, n), none)
      | _ => (none, none)
  let fin := jump.isSome || idle ≤ f.pos.ioff
  let pos := match jump with
    | some p => p
    | none =>
      if !fin then { f.pos with ioff := f.pos.ioff + 1 }
      else match f.edge with
        | some n => ⟨f.pos.seg, n, 0⟩
        | none => nextBundle h f.pos.seg f.pos.idx
  let after := if !fin then f.after
    else match f.after with
      | 1 => 4
      | 3 => 7
      | 6 => if pend.isNone then 5 else 6
      | n => n
  let s := s.modLead d l c fun y =>
    { y with
      exitPh := if fin && f.after = 2 then 1 else y.exitPh
      flow := { f with
        pos := pos, pend := pend, chk := jump.isSome, edge := if fin then none else f.edge,
        after := if fin && f.after = 2 then 0 else after, trapN := if fin then none else f.trapN, pre := 0 } }
  match f.trapN with
  | some n =>
    if fin then s.softTrap d l c n else s
  | none => s

/-- A context that issues begins its turn anew. -/
def State.newTurn (s : State) (d l c : Nat) : State :=
  s.modLead d l c fun x =>
    { x with flow := { x.flow with after := if x.flow.after = 4 || x.flow.after = 5 then 0 else x.flow.after } }
/-- The vector slots of a bundle that issues now are busy for their intervals (R54). -/
def State.occupy (s : State) (d l c : Nat) (b : List (Slot × Instr)) : State :=
  let now := s.clock d l
  let busy := (b.filter fun e => e.1.cls == .v).map fun e => (slotNum e.1, c, now + vbusyOf e.2)
  s.modTile d l fun x =>
    { x with vbusy := (x.vbusy.filter fun e => now < e.2.2 && !busy.any fun y => y.1 == e.1) ++ busy }
/-- The lead has issued a bundle: it enters the history, travels on, and keeps its vector slots busy. -/
def State.issued (s : State) (d l c : Nat) (b : Issued) : State :=
  let s := s.occupy d l c b.slots
  ((s.newTurn d l c).modLead d l c fun x =>
    { x with
      no := x.no + 1, lastAt := s.clock d l
      hist := let h := x.hist ++ [b]; h.drop (h.length - 128) }).forward d l c b.no

/-- The next bundle of a context, as an entry of the history. -/
def State.nextIssued (s : State) (d l c : Nat) (baddr : Nat) (slots : List (Slot × Instr)) (hdrs : List (Slot × Syl))
    (pre : List (Slot × Instr)) : Issued :=
  let x := s.lead d l c
  { no := x.no, pos := x.flow.pos, baddr := baddr, spacing := s.clock d l - x.lastAt, dec := default,
    slots := slots, hdrs := hdrs, pre := pre }

/-- A trap at the lead before the bundle issues: in the shadow context it ends the run (R284). -/
def State.leadTrap (s : State) (d l c : Nat) (b : Issued) (i : TrapInfo) : State :=
  if c = 4 then s.modTile d l fun x => { x with miss := x.miss.map fun m => { m with sf := some i.cause, shadow := false } }
  else (s.aim d l c b).trapHere i

/-- Issue an idle bundle. -/
def State.issueIdle (s : State) (d l c : Nat) (b : Issued) : State :=
  ((s.aim d l c b).runIdle b).issued d l c b

/-- The journal has no room for what a bundle may cause (R461): the context stops there. -/
def State.stopFull (s : State) (d l c : Nat) : State :=
  ((s.jfull d).askStop d l c { cause := 0x89, kind := 4, eng := 10, status := 1 }).modLead d l c fun x =>
    { x with halted := true }

/-- A bundle that has not run: it waits, or its trap is taken at the lead. -/
def notRun (d l c : Nat) (iss : Issued) : State × Ran → Option (State × Att)
  | (s, .held []) => some (s, .stall)
  | (s, .held (k :: _)) => some (s, .block k)
  | (s, .trapped i) => some (s.leadTrap d l c iss i, .used)
  | (_, .done) => none
/-- Why a bundle whose rows are read before it would not issue now, had it none to read (R268): the slots that read none, or
whose reads trap already, and the vector slots with what they would read. No idle bundle runs before a trap that is found
here (R64). -/
def State.notYet (s : State) (d l c : Nat) (iss p : Issued) : Option (State × Att) :=
  let s1 := s.aim d l c iss
  let plain := iss.slots.filter fun e => preOf e.2 = 0 || (s1.preRead iss.slots e).2.isNone
  match notRun d l c iss (s1.runBundle { iss with slots := plain }) with
  | some r => some r
  | none =>
    match ((((s.aim d l c p).runIdle p).aim d l c iss).runBundle { iss with
        slots := iss.slots.filter fun e => preOf e.2 = 0 || e.1.cls == .v }).2 with
    | .held (k :: ks) => some ((s1.heldWith (k :: ks)).1, .block k)
    | _ => none
/-- Issue the bundle at the context's position, after the checks. -/
def State.issueBundle (s : State) (d l c : Nat) (b : Bundle) (hdrs : List (Slot × Syl)) (baddr : Nat) : State × Att :=
  let f := (s.lead d l c).flow
  let iss := s.nextIssued d l c baddr b.slots hdrs []
  let waits := f.pre < preNeed b.slots
  let p := { s.nextIssued d l c baddr [] [] (if f.pre = 0 then b.slots.filter fun e => e.1.cls == .v || 0 < preOf e.2 else [])
    with ahead := true }
  let idle := ((s.issueIdle d l c p).modLead d l c fun x => { x with flow := { x.flow with pre := f.pre + 1 } }, Att.used)
  if waits && f.pre != 0 then idle
  else match s.staticTrap d l c b.slots with
  | some i => (s.leadTrap d l c iss i, .used)
  | none =>
    if s.slotBusy d l c b.slots == some false then
      (if (s.car d l).timed then (s.leadTrap d l c iss (issueTrap 0x83), .used) else (s, .block 0))
    else if c = 4 && !b.slots.all shadowMay then (s.leadTrap d l c iss (issueTrap 0x00), .used)
    else if c ≠ 4 && !s.mayReserve d l (resvOf b.slots) then (s.stopFull d l c, .used)
    else
      let s1 := s.aim d l c iss
      let dec := ((b.slots.find? fun e => e.1 == .b).map fun e => decideB e.2 s1).getD default
      let iss := { iss with dec := dec }
      if waits then (s.notYet d l c iss p).getD idle
      else
        let r := if b.slots.isEmpty then ((s.aim d l c iss).runIdle iss, Ran.done) else (s.aim d l c iss).runBundle iss
        (notRun d l c iss r).getD
          (((r.1.issued d l c iss).prefetch d l c).stepFlow d l c b.idle (b.slots.any fun e => isTransfer e.2), .used)

/-- Issue what stands at the context's position. -/
def State.newIssue (s : State) (d l c : Nat) : State × Att :=
  let f := (s.lead d l c).flow
  let trap (s : State) (i : TrapInfo) : State × Att :=
    let b := s.nextIssued d l c 0 [] [] []
    (s.leadTrap d l c { b with pos := { b.pos with ioff := b.pos.ioff - 1 } } i, .used)
  if f.chk && f.pos.bit63 then trap s (issueTrap 0x0A)
  else
  let s := (s.goSegment d l c f.pos.seg).codeParity d l c f.pos
  match readBundle (s.lead d l c).cur f.pos f.chk with
  | .stall => (s.holdAt d l c 7, .stall)
  | .trap i => trap s i
  | .idle n a =>
    (((s.issueIdle d l c (s.nextIssued d l c a [] [] [])).prefetch d l c).stepFlow d l c n false, .used)
  | .bundle b hdrs a => s.issueBundle d l c b hdrs a

/-- An entry of the history as a reissue sees it: its spacing saturates at 255 (R421). -/
def Issued.kept (b : Issued) : Issued := { b with spacing := min 255 b.spacing }
/-- Reissue a bundle of the history (R422): its spacing and decisions as recorded, its code as the loop buffer has
it. -/
def State.reIssue (s : State) (d l c n : Nat) : State × Att :=
  match ((s.lead d l c).hist.find? fun h => h.no == n).map Issued.kept with
  | none => (s.modLead d l c fun x => { x with re := none }, .no)
  | some b =>
    let x := s.lead d l c
    if s.clock d l < x.lastAt + b.spacing then (s, .no)
    else
      let send (s : State) (b : Issued) : State × Att :=
        match s.execAt d l c b with
        | (s, .held []) => (s, .stall)
        | (s, .held (k :: _)) => (s, .block k)
        | (s, .trapped i) => ((s.aim d l c b).trapHere i, .used)
        | (s, .done) =>
          ((((s.occupy d l c b.slots).newTurn d l c).modLead d l c fun x =>
            { x with
              lastAt := s.clock d l, re := if n + 1 < x.no then some (n + 1) else none
              hist := x.hist.map fun h => if h.no = n then b else h }).forward d l c n, .used)
      if b.slots.isEmpty then send s b
      else
        let s := (s.goSegment d l c b.pos.seg).codeParity d l c b.pos
        match readBundle (s.lead d l c).cur b.pos false with
        | .stall => (s.holdAt d l c 7, .stall)
        | .trap i => ((s.aim d l c b).trapHere i, .used)
        | .idle _ _ => send s b
        | .bundle bb hdrs _ =>
          match s.slotBusy d l c bb.slots with
          | some _ => (s, .block 0)
          | none =>
            let (s, a) := send s { b with slots := bb.slots, hdrs := hdrs }
            (if a == .used then s.prefetch d l c else s, a)

/-- 128 issued bundles have not executed everywhere (R421). -/
def State.histFull (s : State) (d l c : Nat) : Bool :=
  let x := s.lead d l c
  c ≠ 4 && x.re.isNone && (s.car d l).tiles.any fun t => 128 ≤ x.no - (s.ctx d t c).nextNo
/-- Try to issue the next bundle of a context (R250). -/
def State.tryIssue (s : State) (d l c : Nat) : State × Att :=
  let x := s.ctx d l c
  let y := x.lead
  if x.st != .ready || y.halted || (y.re.isNone && (y.exitPh != 0 || y.flow.after == 7))
      || (y.stop.isSome && !y.inWindow) then (s, .no)
  else if y.re.isNone && y.flow.after == 8 then (s.softTrap d l c (y.flow.trapN.getD 0), .used)
  else if s.histFull d l c || !x.stopIn.isEmpty then (s.holdAt d l c 6, .block 6)
  else if !x.rld.isEmpty then (s.holdAt d l c 5, .block 5)
  else
    let (s, a) := match y.re with
      | some n => s.reIssue d l c n
      | none => s.newIssue d l c
    ((if a == .stall then s else s.unhold d l c 7).unhold d l c 6, a)

/-! ## The choice of the context in free and replay mode (R251, R463) -/

/-- The context's turn is over: it has yielded, its quantum has run out, or it has begun to exit. -/
def Lead.turnOver (x : Lead) : Bool := x.flow.after == 4 || x.flow.after == 5 || x.exitPh != 0
/-- Reason of a switch from a context (R460). -/
def Lead.reason (x : Lead) : Nat :=
  if x.flow.after = 4 then 1 else if x.exitPh ≠ 0 then 2 else if x.flow.after = 5 then 3 else 0
/-- The lead has gone from one context to another. -/
def State.switched (s : State) (d l old new kind : Nat) (used : Option Nat) : State :=
  if old = new then s
  else
    let x := s.lead d l old
    let s := (s.newTurn d l old).modTile d l fun t => { t with cur := new, curAt := s.now }
    match used with
    | some e => s.ruse d e
    | none => s.journal d l old 0 (new * 2 ^ 62 + x.reason * 2 ^ 58 + (if x.reason = 0 then kind else 0) * 2 ^ 54) (x.no - 1)
/-- The first of several contexts that can issue does so. -/
def State.firstIssue (s : State) (d l old kind : Nat) (used : Option Nat) : List Nat → State
  | [] => s
  | c :: r =>
    match s.tryIssue d l c with
    | (s, .used) => s.switched d l old c kind used
    | (s, _) => s.firstIssue d l old kind used r
/-- The contexts after one, in turn, of the highest priority class present (R251). -/
def State.turnOrder (s : State) (d l cur n : Nat) : List Nat :=
  let nctx := (s.car d l).nctx
  let live (c : Nat) : Bool := (s.ctx d l c).st == .ready
  let top := ((upFrom 0 nctx).filter live).foldl (fun a c => max a (s.lead d l c).prio) 0
  (((upFrom 1 n).map fun i => (cur + i) % nctx).filter fun c => live c && (s.lead d l c).prio == top)
/-- Issue in free mode. -/
def State.leadFree (s : State) (d l : Nat) : State :=
  let cur := (s.tile d l).cur
  let nctx := (s.car d l).nctx
  if (s.lead d l cur).turnOver then s.firstIssue d l cur 0 none (s.turnOrder d l cur nctx)
  else match s.tryIssue d l cur with
    | (s, .used) | (s, .stall) => s
    | (s, .block k) => s.firstIssue d l cur (k % 16) none (s.turnOrder d l cur (nctx - 1))
    | (s, .no) => s.firstIssue d l cur 0 none (s.turnOrder d l cur (nctx - 1))
/-- Issue under replay (R363, R463): the lead stays on a context up to its recorded last bundle, then goes to the recorded
one; where no switch of it is left, it stays until the source is used up. -/
def State.leadReplay (s : State) (d l : Nat) : State :=
  let cur := (s.tile d l).cur
  match s.replayNext d (tileEntry 0 l) with
  | none => (s.tryIssue d l cur).1
  | some e =>
    let x := s.lead d l cur
    let new := fld (s.rentry d e 2) 63 62
    if fld (s.rentry d e 0) 59 58 != cur || x.re.isSome || x.no ≤ (s.rentry d e 3).toNat then
      (s.tryIssue d l cur).1
    else s.firstIssue d l cur 0 (some e) [new]

/-! ## Timetabled issue (R272) -/

/-- The issue-list entry of a caravan, by number, at the address that R271 gives. -/
def State.issueEntry (s : State) (d : Nat) (t : Timetable) (car : Car) (n : Nat) : Option Nat :=
  s.listEntry d car.asid (t.issue + t.istr * car.idx) n
/-- A context that a deviation at the lead can be raised in: the named one, or the first that lives. -/
def State.blamed (s : State) (d l c : Nat) : Nat :=
  let live (c : Nat) : Bool := (s.ctx d l c).st == .ready
  if c < (s.car d l).nctx && live c then c else ((upFrom 0 4).find? live).getD 0
/-- Deviation: issue (R272). -/
def State.issueDev (s : State) (d l c : Nat) : State :=
  let c := s.blamed d l c
  s.leadTrap d l c (s.nextIssued d l c 0 [] [] []) (issueTrap 0x83)
/-- Go to the next entry of a caravan's issue list; past the last there is none. -/
def State.nextEntry (s : State) (d : Nat) (t : Timetable) (carNo n : Nat) : State :=
  s.modDie d fun x => { x with tt := some { t with iptr := t.iptr.set carNo n } }
/-- The caravan number of a tile. -/
def State.carNoOf (s : State) (d l : Nat) : Nat := (s.tile d l).occ.getD 0
/-- A pointer past every list. -/
def listDone : Nat := 2 ^ 40
/-- Issue by the timetable. -/
def State.leadTimed (s : State) (d l : Nat) : State :=
  match (s.die d).tt, s.sinceStart d with
  | some t, some now =>
    let car := s.car d l
    let k := s.carNoOf d l
    let n := t.iptr.get k
    if n = listDone || (s.tile d l).ttAt == some now then s
    else match s.issueEntry d t car n with
      | none => s.issueDev d l 0
      | some e =>
        if now < leCyc e then s
        else
          let c := leCtx e
          let next := if leLast e then none else s.issueEntry d t car (n + 1)
          let overlap := (next.map fun x => leCyc x ≤ now && leCyc x ≤ leEnd e).getD false
          let first := now == leCyc e
          if overlap || (first && (nbits e 11 1 != 0 || car.nctx ≤ c || (s.ctx d l c).st != .ready
              || (s.lead d l c).exitPh != 0)) then s.issueDev d l c
          else
            let go (s : State) : State :=
              let s := s.modTile d l fun x => { x with ttAt := some now }
              if now = leEnd e then s.nextEntry d t k (if leLast e then listDone else n + 1) else s
            let s := s.modTile d l fun x => { x with cur := c }
            if (s.ctx d l c).st != .ready || (s.lead d l c).exitPh != 0 then go s
            else match s.tryIssue d l c with
              | (s, .used) => go s
              | (s, .stall) => s
              | (s, _) => s.issueDev d l c
  | _, _ => s

/-! ## The shadow context (R284, R285) -/

/-- Registers of the shadow context as the handler is entered. -/
def shadowRegs (m : Miss) (asid kind : Nat) : FMap DWord :=
  [(1, BitVec.ofNat 64 m.va), (2, BitVec.ofNat 64 (m.write.toNat + 2 * m.pipe)), (3, BitVec.ofNat 64 m.ctx),
   (4, BitVec.ofNat 64 asid), (5, BitVec.ofNat 64 kind), (6, BitVec.ofNat 64 m.entries)]
/-- Enter the miss handler for a fault (R284). -/
def State.enterShadow (s : State) (d t : Nat) (m : Miss) (f : XFault) : State :=
  let asid := (s.car d t).asid
  let seg := fld (s.ctl d 0x50) 52 0 * 16
  let x : Ctx := default
  let s := s.setCtx d t 4 { x with
    st := .ready
    r := { x.r with s := shadowRegs m asid f.kind }
    lead := { (default : Lead) with h0 := s.fetchHalf d asid seg, flow := { (default : Flow) with pos := ⟨seg, 0, 0⟩ } } }
  s.modTile d t fun y => { y with miss := some { m with kind := f.kind, status := f.status, entries := m.entries + 1, shadow := true } }
/-- Issue in the shadow context; ERET retries the translation, EXIT declines the fault. -/
def State.leadShadow (s : State) (d t : Nat) : State :=
  match (s.tile d t).miss with
  | none => s
  | some m =>
    if !m.shadow then s
    else
      let s := (s.tryIssue d t 4).1
      let x := s.lead d t 4
      let put (f : Miss → Miss) (s : State) : State := s.modTile d t fun y => { y with miss := y.miss.map f }
      let close (s : State) : State := { s with ctxs := s.ctxs.erase (ctxKey d t 4) }
      if x.flow.after = 7 then close (put (fun m => { m with shadow := false }) s)
      else if x.exitPh ≠ 0 then close (put (fun m => { m with shadow := false, declined := true }) s)
      else s

/-! ## LEAD_ISSUE_CYCLE -/

/-- A handler whose ERET has issued and whose bundles have executed everywhere returns (R426). -/
def State.returns (s : State) (d l : Nat) : State :=
  (upFrom 0 (s.car d l).nctx).foldl (fun s c =>
    let x := s.ctx d l c
    if x.st == .ready && x.lead.flow.after == 7 && s.drained d l c then s.leaveHandler d l c else s) s
/-- LEAD_ISSUE_CYCLE (R251). -/
def execLeadIssueCycle (die lead : Nat) (s : State) : Host.Outcome State Fault Refusal :=
  let t := s.tile die lead
  .next (
    if t.miss.isSome then s.leadShadow die lead
    else if t.occ.isNone || (s.car die lead).leadTile ≠ lead || (s.die die).freeze.isSome then s
    else
      let s := s.returns die lead
      if (s.car die lead).timed then s.leadTimed die lead
      else if s.replaying die lead then s.leadReplay die lead
      else s.leadFree die lead)

/-- QUANTUM_EXPIRY (R286): the current context yields after its next bundle, if another could issue. Where none could,
the code of the others is fetched (log 28). -/
def execQuantumExpiry (die lead : Nat) (s : State) : Host.Outcome State Fault Refusal :=
  let q := (fld (s.ctl die 0x0000) 19 0) * 1024
  let t := s.tile die lead
  let others := s.turnOrder die lead t.cur ((s.car die lead).nctx - 1)
  .next (
    if q = 0 || t.occ.isNone || (s.car die lead).timed || s.replaying die lead || s.now < t.curAt + q then s
    else if !(others.any fun c => (s.tryIssue die lead c).2 == .used) then
      others.foldl (fun s c => s.goSegment die lead c (s.lead die lead c).flow.pos.seg) s
    else s.modLead die lead t.cur fun x =>
      { x with flow := { x.flow with after := if x.flow.after = 0 then 6 else x.flow.after } })

end Sys2Proof.Machine
end

