-- ==== Sys2Proof/Machine/Follow.lean ====
section
/-! DEFINITION. Followers: arriving bundles, the latch, stops (R23, R26, R55, R252, R253, R420); and what lands each
cycle: register writes, scratchpad accesses, FIFO rows, semaphores (R52, R302, R336, R340). -/

namespace Sys2Proof.Machine

/-! ## Bundles at a follower -/

/-- Lead tile of the caravan on a tile. -/
def State.leadTileOf (s : State) (d t : Nat) : Nat := (s.car d t).leadTile
/-- The tile withholds every bundle of the context (R420 step 1). -/
def Ctx.withheld (c : Ctx) : Bool := c.t.stuck || (c.t.cur.map fun (r : Rec) => r.info.withholds).getD false
/-- Why the next bundle of a context may not run here yet: a stop, an RLD, the tile's held pipelines, its spacing. -/
def State.mustWait (s : State) (d t c : Nat) (b : Issued) : Bool :=
  let x := s.ctx d t c
  !x.stopIn.isEmpty || !x.rld.isEmpty || (s.tile d t).miss.isSome || s.clock d t < x.lastAt + b.spacing
/-- Note why it waits, for the watchdog (R298). -/
def State.noteWait (s : State) (d t c : Nat) : State :=
  let x := s.ctx d t c
  let s := if x.stopIn.isEmpty then s else s.holdAt d t c 6
  let s := if x.rld.isEmpty then s else s.holdAt d t c 5
  if x.stopIn.isEmpty then s.unhold d t c 6 else s
/-- Run a bundle that has reached a follower, and forward it: whether it has left the tile. -/
def State.follow (s : State) (d t c : Nat) (b : Issued) : State × Bool :=
  match s.execAt d t c b with
  | (s, .done) => (s.forward d t c b.no, true)
  | (s, .held _) => (s, false)
  | (s, .trapped i) => ((s.aim d t c b).trapHere i, true)
/-- The bundle of an issue number. -/
def State.bundleNo (s : State) (d t c no : Nat) : Option Issued :=
  (s.lead d (s.leadTileOf d t) c).hist.find? fun h => h.no == no
/-- Put a bundle into the latch (R252). -/
def State.latchIn (s : State) (d t c no : Nat) : State :=
  (s.modCtx d t c fun x => { x with latch := x.latch ++ [(no, s.now)] }).noteWait d t c
/-- BUNDLE_ARRIVAL (R252): the bundle runs on arrival, or waits in the latch. -/
def execBundleArrival (die tile ctx : Nat) (s : State) : Host.Outcome State Fault Refusal :=
  .next (match (s.ctx die tile ctx).inbox with
    | [] => s
    | (no, at') :: rest =>
      if s.now < at' then s
      else
        let s := s.modCtx die tile ctx fun x => { x with inbox := rest }
        match s.bundleNo die tile ctx no with
        | none => s
        | some b =>
          if (s.ctx die tile ctx).withheld then s
          else if !(s.ctx die tile ctx).latch.isEmpty || s.mustWait die tile ctx b then s.latchIn die tile ctx no
          else match s.follow die tile ctx b with
            | (s, true) => s
            | (s, false) => s.latchIn die tile ctx no)
/-- LATCH_RELEASE (R252): the head of a context's latch runs when its cause has cleared. -/
def execLatchRelease (die tile ctx : Nat) (s : State) : Host.Outcome State Fault Refusal :=
  .next (match (s.ctx die tile ctx).latch with
    | [] => s
    | (no, at') :: rest =>
      let pop (s : State) : State := s.modCtx die tile ctx fun x => { x with latch := rest }
      if (s.ctx die tile ctx).withheld then s.modCtx die tile ctx fun x => { x with latch := [] }
      else if s.now ≤ at' then s
      else match s.bundleNo die tile ctx no with
        | none => pop s
        | some b =>
          if s.mustWait die tile ctx b then s.noteWait die tile ctx
          else match s.follow die tile ctx b with
            | (s, true) => pop s
            | (s, false) => s)
/-- STOP_SIGNAL (R253): a latch of 12 or more bundles of a context raises its stop upstream, fewer lower it. -/
def execStopSignal (die tile ctx : Nat) (s : State) : Host.Outcome State Fault Refusal :=
  let x := s.ctx die tile ctx
  let want := decide (12 ≤ x.latch.length)
  .next (
    if want == x.stopOut || s.leadTileOf die tile = tile then s
    else
      let u := (s.car die tile).prev tile
      (s.modCtx die tile ctx fun x => { x with stopOut := want }).modCtx die u ctx fun y =>
        { y with stopIn := (y.stopIn.filter (· != tile)) ++ if want then [tile] else [] })

/-! ## Landing -/

/-- Own-scratchpad writes that perform by now, in order (R302). -/
def State.performPad (s : State) (d t : Nat) : State :=
  let clk := s.clock d t
  let lag := (s.tile d t).lag
  let due := sortBy (fun (p : PStore) => p.tick lag * 16 + p.ctx) ((s.tile d t).pend.filter fun p => p.tick lag ≤ clk)
  let s := due.foldl (fun s p =>
    let keys := p.bytes.map fun e => s.pad d t e.1
    let s := s.keepOld d t (p.tick lag) keys
    let s := { s.cleanUnits (fun u => (upFrom (64 * u) 64).all fun k => keys.contains k) with
      mem := p.bytes.foldl (fun m e => m.write (s.pad d t e.1) e.2) s.mem }
    if p.bad then s.poisonUnits (keys.map unitOf) else s) s
  s.modTile d t fun x => { x with pend := x.pend.filter fun p => clk < p.tick lag }
/-- RESULT_LANDING (R52): writes whose bound has closed land, and scratchpad writes of the cycle perform. -/
def execResultLanding (die tile : Nat) (s : State) : Host.Outcome State Fault Refusal :=
  .next ((upFrom 0 5).foldl (fun s c => s.landRegs die tile c false) ((s.readLate die tile).performPad die tile))
/-- FIFO_ROW_ARRIVAL (R340): rows that have landed at the sender by the cycle before are in the FIFO; pops that the
sender has learned of are forgotten. A row that has come through its link ends the retries in a row there (R452). -/
def execFifoRowArrival (die tile dir : Nat) (s : State) : Host.Outcome State Fault Refusal :=
  let came := (s.tile die tile).fifoIn.any fun r => r.dir == dir && r.cycle ≤ s.now
  let link := 64 + 4 * (512 * die + tile) + dir
  let s := if came && !s.coll.linkRetry.isEmpty then
      { s with coll := { s.coll with linkRetry := s.coll.linkRetry.erase link } } else s
  .next (s.modTile die tile fun x =>
    let here (r : FifoRow) : Bool := r.dir == dir && r.cycle ≤ s.now
    { x with
      fifo := x.fifo.set dir (x.fifo.get dir ++ (x.fifoIn.filter here).map fun r => (r.ctx, r.row))
      fifoIn := x.fifoIn.filter fun r => !here r
      pops := x.pops.filter fun p => s.now ≤ p.1 })
/-- SEMAPHORE_CYCLE (R336): the operations of the cycle are applied in their order. -/
def execSemaphoreCycle (die tile : Nat) (s : State) : Host.Outcome State Fault Refusal :=
  .next (s.modTile die tile fun x => x.semSettle s.now)

end Sys2Proof.Machine
end

