-- ==== Sys2Proof/Machine/Reduce.lean ====
section
/-! DEFINITION. The reduction units of the collective die: contributions, round markers, partials and results
(R401 to R403). -/

namespace Sys2Proof.Machine

/-! ## Group entries (R401) -/

/-- Doubleword k of a group's entry. -/
def State.rg (s : State) (g k : Nat) : DWord := s.coll.mgmt.get (0x3000 + 32 * g + 8 * k)
/-- TYPE: 0 F32 into quires, 1 T32 into quires, 2 S32 into S64. -/
def State.rgType (s : State) (g : Nat) : Nat := fld (s.rg g 0) 62 61
/-- ES. -/
def State.rgEs (s : State) (g : Nat) : Nat := fld (s.rg g 0) 60 59
/-- OFMT. -/
def State.rgOfmt (s : State) (g : Nat) : Nat := fld (s.rg g 0) 58 57
/-- ELEMS. -/
def State.rgElems (s : State) (g : Nat) : Nat := fld (s.rg g 0) 23 0
/-- PARENTP; 63 for the root. -/
def State.rgParent (s : State) (g : Nat) : Nat := fld (s.rg g 1) 41 36
/-- Kendom ports of the child modules. -/
def State.rgChildren (s : State) (g : Nat) : List Nat := (upFrom 0 36).filter fun p => bit (s.rg g 1) p
/-- The entry is valid and well-formed (R402): OFMT is one of its TYPE's values, and no reserved bit is set. -/
def State.rgOk (s : State) (g : Nat) : Bool :=
  bit (s.rg g 0) 63 && s.rgType g != 3 && s.rgEs g != 3
    && s.rgOfmt g != 3 && !(s.rgType g == 2 && s.rgOfmt g == 2)
    && fld (s.rg g 0) 56 48 == 0 && fld (s.rg g 0) 39 24 == 0 && fld (s.rg g 1) 63 42 == 0
    && fld (s.rg g 2) 63 52 == 0 && fld (s.rg g 3) 63 20 == 0 && !bit (s.rg g 3) 15

/-! ## Partials (R402, R403) -/

/-- Bytes of an element in a group's window (R402). -/
def State.rgStep (s : State) (g : Nat) : Nat := if s.rgType g = 2 then 4 else 64
/-- The update is a contribution of the group's kind (R402). -/
def State.rgTakes (s : State) (g : Nat) (u : Update) : Bool :=
  match s.rgType g with
  | 0 => u.xop == 7 && u.vt == 0
  | 1 => u.xop == 7 && u.vt == 1 && u.es == s.rgEs g
  | _ => u.xop == 0 && u.vt == 0
/-- A value added exactly into a partial. -/
def addPart (ty a b : Nat) : Nat := if ty = 2 then (a + b) % 2 ^ 64 else (combineWord 7 0 a b).1
/-- Add values to the partials of elements. -/
def Round.add (r : Round) (ty : Nat) (l : List (Nat × Nat)) : Round :=
  { r with parts := l.foldl (fun (m : FMap Nat) e => m.set e.1 (addPart ty (m.get e.1) e.2)) r.parts }
/-- LOCALN. -/
def State.rgLocal (s : State) (g : Nat) : Nat := fld (s.rg g 0) 47 40
/-- The running round takes no more of this module's markers and updates: what arrives counts towards the next (R403). -/
def State.localFull (s : State) (g : Nat) : Bool :=
  (s.coll.rounds.get g).sent || s.rgLocal g ≤ (s.coll.rounds.get g).markers
/-- The running round takes no partial of a child: it has gone on, or has that child's. -/
def State.childFull (s : State) (g p : Nat) : Bool :=
  (s.coll.rounds.get g).sent || (s.coll.rounds.get g).children.contains p
/-- Change the round that an arrival counts towards (R403). -/
def State.modRound (s : State) (g : Nat) (later : Bool) (f : Round → Round) : State :=
  { s with coll :=
    if later then { s.coll with nextRounds := s.coll.nextRounds.modify g f }
    else { s.coll with rounds := s.coll.rounds.modify g f } }
/-- The next round begins. Markers beyond LOCALN wait for the one after it. -/
def State.nextRound (s : State) (g : Nat) : State :=
  let r := s.coll.nextRounds.get g
  let n := s.rgLocal g
  { s with coll :=
    { s.coll with
      rounds := s.coll.rounds.set g { r with markers := min n r.markers }
      nextRounds := if n < r.markers then s.coll.nextRounds.set g { (default : Round) with markers := r.markers - n }
        else s.coll.nextRounds.erase g } }
/-- A Kendom port carries reduction values (R398): level 2, trained and up. -/
def State.carriesPartials (s : State) (p : Nat) : Bool := s.portUsable p && s.portRole p == 1 && s.portLevel p == 2

/-- The partials of all elements. -/
def State.partials (s : State) (g : Nat) : List Nat :=
  (upFrom 0 (s.rgElems g)).map fun e => (s.coll.rounds.get g).parts.get e
/-- The result of one element (R403): rounded once, to nearest even; an S64 is clamped for S32. -/
def State.rgResult (s : State) (g v : Nat) : Nat :=
  let q : BitVec 512 := BitVec.ofNat 512 v
  match s.rgType g, s.rgOfmt g with
  | 2, 1 =>
    let x := (BitVec.ofNat 64 v).toInt
    ((max (-(2 ^ 31)) (min (2 ^ 31 - 1) x)) % 2 ^ 32).toNat
  | 2, _ => v
  | _, 1 => (quireRound (.f ff32) 0 q).1
  | _, 2 => (quireRound (.t 32 (s.rgEs g)) 0 q).1
  | _, _ => v
/-- Bytes of a result. -/
def State.rgBytes (s : State) (g : Nat) : Nat :=
  match s.rgType g, s.rgOfmt g with
  | 2, 1 => 4
  | 2, _ => 8
  | _, 0 => 64
  | _, _ => 4

/-! ## Rounds (R403) -/

/-- Write the results on every die of DIEMASK, and then raise RSEM of RTILE there. -/
def State.writeResults (s : State) (g : Nat) (l : List Nat) : State :=
  let dies := (upFrom 0 4).filter fun d => bit (s.rg g 3) (16 + d)
  let bs := l.flatMap fun v => leBytes (s.rgBytes g) v
  let a := fld (s.rg g 2) 51 0
  dies.foldl (fun s d =>
    (s.store (dieKey d a) bs).modTile d (fld (s.rg g 3) 14 6) fun t =>
      { t with semQ := t.semQ ++ [⟨s.now + crossD + 260, fld (s.rg g 3) 5 0, none, 1, false⟩] }) s
/-- Reduction values leave by a port; one that does not carry them takes none (R398, log 98). -/
def State.sendPartials (s : State) (p g : Nat) (l : List Nat) : State :=
  if s.carriesPartials p then { s with coll := { s.coll with kout := s.coll.kout ++ [(p, g, l)] } } else s
/-- Hand results on: to the children, and to this module's dies; the next round then begins. -/
def State.deliverResults (s : State) (g : Nat) (l : List Nat) : State :=
  ((s.rgChildren g).foldl (fun s p => s.sendPartials p g l) (s.writeResults g l)).nextRound g
/-- A round is complete: LOCALN markers, and one partial from each child. -/
def State.roundDone (s : State) (g : Nat) : Bool :=
  let r := s.coll.rounds.get g
  s.rgOk g && !r.sent && s.rgLocal g ≤ r.markers && (s.rgChildren g).all fun p => r.children.contains p
/-- End a complete round: the root forms the results; another module sends its partials to its parent and clears
them. -/
def State.endRound (s : State) (g : Nat) : State :=
  if !s.roundDone g then s
  else if s.rgParent g = 63 then s.deliverResults g ((s.partials g).map fun v => s.rgResult g v)
  else
    let t := s.sendPartials (s.rgParent g) g (s.partials g)
    { t with coll := { t.coll with rounds := t.coll.rounds.set g { (default : Round) with sent := true } } }
/-- End the complete rounds of a group one after another: the markers of later ones may have come already. -/
def State.endRounds (s : State) (g : Nat) : Nat → State
  | 0 => s.endRound g
  | n + 1 => if s.roundDone g && s.rgLocal g ≠ 0 then (s.endRound g).endRounds g n else s.endRound g
/-- End what an arrival has completed. -/
def State.settleRound (s : State) (g : Nat) : State := s.endRounds g (s.coll.nextRounds.get g).markers

/-- A contribution or a round marker that reaches the unit: none where it is refused (R402). -/
def State.reduceTake (s : State) (g off : Nat) (u : Option Update) : Option State :=
  if !s.rgOk g then none
  else match u with
    | none => some ((s.modRound g (s.localFull g) fun r => { r with markers := r.markers + 1 }).settleRound g)
    | some u =>
      let e := off / s.rgStep g
      if !s.rgTakes g u || s.rgElems g ≤ e then none
      else some (s.modRound g (s.localFull g) fun r => r.add (s.rgType g) [(e, u.val)])

/-- REDUCTION_PARTIAL_ARRIVAL (R403): the partials of a child module, added exactly. -/
def execReductionPartialArrival (port group : Nat) (parts : List Nat) (s : State) :
    Host.Outcome State Fault Refusal :=
  .next (
    if !s.rgOk group || !(s.rgChildren group).contains port || !s.carriesPartials port then s
    else
      let l := (upFrom 0 (min parts.length (s.rgElems group))).zip parts
      (s.modRound group (s.childFull group port) fun r =>
        { r.add (s.rgType group) l with children := r.children ++ [port] }).settleRound group)

/-- REDUCTION_RESULT_ARRIVAL (R403): the results, from the parent, of a round that this module has sent. -/
def execReductionResultArrival (group : Nat) (results : List Nat) (s : State) :
    Host.Outcome State Fault Refusal :=
  .next (
    if !s.rgOk group || !(s.coll.rounds.get group).sent || !s.carriesPartials (s.rgParent group) then s
    else (s.deliverResults group (results.take (s.rgElems group))).settleRound group)

end Sys2Proof.Machine
end

