-- ==== Sys2Proof/Machine/Packets.lean ====
section
/-! DEFINITION. Packets at their endpoints and back: commit trackers, retired records, refusals, retransmission,
breaks, acknowledgements, incarnations (R301, R324, R329 to R338, R349, R396, R400, R454, R460, R463). -/

namespace Sys2Proof.Machine

/-! ## Trackers (R330, R337) -/

/-- A tracker of this module. -/
def State.tracker (s : State) (k : Nat) : Tracker := s.trackers.get k
/-- Replace a tracker. -/
def State.setTracker (s : State) (k : Nat) (t : Tracker) : State := { s with trackers := s.trackers.set k t }
/-- Change a tracker. -/
def State.modTracker (s : State) (k : Nat) (f : Tracker → Tracker) : State := s.setTracker k (f (s.tracker k))

/-- What the tracker does with a packet. -/
inductive Fate where
  | commit
  /-- Held in the reorder buffer. -/
  | hold
  /-- A second copy of a held packet: dropped without an acknowledgement. -/
  | copy
  /-- A duplicate, acknowledged again with a number. -/
  | dup (n : Nat)
  /-- A packet of a broken binding: dropped. -/
  | drop
  /-- Outside the window. -/
  | stale
  /-- Next in its binding, but what it writes is a half to which a read is bound (R321). -/
  | wait
  /-- Refused; because the journal has no room. -/
  | refuse (journal : Bool)
  deriving DecidableEq, Repr

/-- (a − b) mod 256. -/
def epochAhead (a b : Nat) : Nat := (a + 256 - b % 256) % 256
/-- Cycles for which a retired record is kept (R337). -/
def retiredLife : Nat := 1048576
/-- The entry of a key. -/
def Tracker.entry? (t : Tracker) (src : Source) : Option TEntry := t.entries.find? fun e => e.src == src
/-- The retired record of a key. -/
def Tracker.record? (t : Tracker) (now : Nat) (src : Source) : Option Retired :=
  t.retired.find? fun r => r.src == src && now < r.cycle + retiredLife
/-- Allocate an entry for a packet's binding: what the key held goes. -/
def Tracker.alloc (t : Tracker) (p : Pkt) : Tracker :=
  { t with
    entries := t.entries.filter (fun e => e.src != p.src) ++ [⟨p.src, p.epoch, 0, false⟩]
    retired := t.retired.filter fun r => r.src != p.src }
/-- The table of R330 for a packet of the entry's binding. -/
def byNumber (e : TEntry) (seq : Nat) : Fate :=
  let d := (seq + 4096 - e.e) % 4096
  if 3072 ≤ d then .dup ((e.e + 4095) % 4096)
  else if e.broken then .drop
  else if d = 0 then .commit
  else if d ≤ 1023 then .hold
  else .stale
/-- Match a packet (R330): the tracker with an entry allocated for it, and what becomes of it. -/
def Tracker.sort (t : Tracker) (now : Nat) (p : Pkt) : Tracker × Fate :=
  let fresh (t : Tracker) : Tracker × Fate :=
    if 128 ≤ t.entries.length then (t, .refuse false)
    else (t.alloc p, byNumber ⟨p.src, p.epoch, 0, false⟩ p.seq)
  match t.entry? p.src with
  | some e =>
    let a := epochAhead p.epoch e.epoch
    if a = 0 then (t, byNumber e p.seq)
    else if 127 < a then (t, .dup p.seq)
    else if e.broken && p.opn then fresh { t with entries := t.entries.filter fun x => x.src != p.src }
    else (t, .hold)
  | none =>
    match t.record? now p.src with
    | some r =>
      let a := epochAhead p.epoch r.epoch
      if a = 0 || 127 < a then (t, .dup r.last) else fresh t
    | none => fresh t

/-! ## Journal and replay of commits (R460, R461, R463) -/

/-- The mode of a packet's caravan; another module's counts as free. -/
def State.srcMode (s : State) (p : Pkt) : Nat :=
  if p.src.module = s.modnum then (s.car p.src.die p.src.tile).mode else 0
/-- The endpoint of an entry of the replay source is this one. -/
def entryAt (e : Endpoint) (w : DWord) : Bool :=
  fld w 63 60 == 3 && (if e.kind = 0 then fld w 48 48 == 0 && fld w 57 49 == e.idx
    else fld w 48 48 == 1 && fld w 57 49 == endpointCode e)
/-- Replay imposes the order of commits on a packet. -/
def State.gated (s : State) (p : Pkt) : Bool :=
  let d := p.dst.home
  s.srcMode p == 2 && (s.ctl d 0x430).toNat < (s.ctl d 0x428).toNat
/-- The next run of an endpoint in the replay source. -/
def State.nextRun (s : State) (p : Pkt) : Option Nat := s.replayNext p.dst.home (entryAt p.dst)
/-- The next recorded run admits a packet; where the endpoint has no run left, it waits until the source is used up. -/
def State.runAdmits (s : State) (p : Pkt) : Bool :=
  !s.gated p || match s.nextRun p with
    | none => false
    | some n =>
      let w := s.rentry p.dst.home n 2
      let src : Source := ⟨fld w 63 48, fld w 47 46, fld w 45 37, fld w 36 35, fld w 34 31⟩
      src == p.src && (0 < (s.tracker p.dst.key).replayed || fld w 30 19 == p.seq)
/-- The commit needs a journal entry that the ring cannot take (R461): asked of packets of other dies. -/
def State.commitFull (s : State) (p : Pkt) : Bool :=
  let d := p.dst.home
  s.recording d && s.srcMode p == 0 && !(p.src.module == s.modnum && p.src.die == d)
    && (match (s.tracker p.dst.key).run with
      | some r => r.1 != p.src
      | none => true)
    && s.jroom d < s.reserved d + 1
/-- Note a commit (R460, R463): a replayed one counts in its recorded run; otherwise the open run of its key grows, or
is written and another begins. -/
def State.noteCommit (s : State) (p : Pkt) : State :=
  let k := p.dst.key
  let grow (s : State) : State := s.modTracker k fun t =>
    { t with run := some (match t.run with
      | some r => (r.1, r.2.1, r.2.2 + 1)
      | none => (p.src, p.seq, 1)) }
  if s.gated p then
    let s := s.writeCommits k
    match s.nextRun p with
    | none => s
    | some n =>
      let m := (s.tracker k).replayed + 1
      if fld (s.rentry p.dst.home n 2) 15 0 ≤ m then
        (s.modTracker k fun t => { t with replayed := 0 }).ruse p.dst.home n
      else s.modTracker k fun t => { t with replayed := m }
  else if s.recording p.dst.home && s.srcMode p == 0 then
    match (s.tracker k).run with
    | some r => if r.1 == p.src && r.2.2 < 65535 then grow s else grow (s.writeCommits k)
    | none => grow s
  else s

/-! ## Performing at the endpoint (R329, R332, R349, R396, R402) -/

/-- The place that a packet names at its endpoint. -/
def Pkt.place (p : Pkt) : Place :=
  if p.peer then .peer p.dst.module p.dst.die p.addr (p.tasid.getD 0)
  else match p.dst.kind with
    | 0 => .tile p.dst.idx (p.addr - padAddr p.dst.idx 0)
    | 1 => .die p.dst.die p.addr
    | 2 => .host p.addr
    | 3 => .group (p.addr / 2 ^ 40) (p.addr % 2 ^ 40)
    | _ => .tier p.addr
/-- The right that a packet needs at a source range: read, write or atomic (R396). -/
def PktKind.right : PktKind → Nat
  | .load => 2
  | .update => 0
  | _ => 1
/-- Why a packet cannot perform, by the kinds of R310, before its bytes are looked at. -/
def State.pktRefused (s : State) (p : Pkt) : Option Nat :=
  let d := p.dst.die
  let peer : Option Nat :=
    if p.peer then s.peerRefused d p.src.module p.src.die p.kind.right p.addr p.len (p.tasid.getD 0) else none
  if p.ph then some 2
  else match p.dst.kind with
  | 0 =>
    if 512 ≤ p.dst.idx then some 0
    else if padSize < p.addr % 0x80000 + max p.len 1 then some 4
    else if p.peer then peer
    else if s.tileAsid d p.dst.idx == p.tasid then none else some 5
  | 1 => if hbmEnd < p.addr + p.len then some 0 else peer
  | _ => none
/-- Key of a packet's first byte outside the scratchpads. -/
def Pkt.memKey (p : Pkt) : Nat := if p.dst.kind = 2 then hostKey p.addr else dieKey p.dst.die p.addr
/-- Write a packet's bytes at its endpoint. -/
def State.pktWrite (s : State) (p : Pkt) (bs : List Byte) : State :=
  if p.dst.kind = 0 then s.padStore p.dst.die p.dst.idx (p.addr % 0x80000) bs else s.store p.memKey bs
/-- Read bytes at a packet's endpoint, as they stand after the writes of the cycle. -/
def State.pktRead (s : State) (p : Pkt) (n : Nat) : List Byte :=
  if p.dst.kind = 0 then
    s.padBytes p.dst.die p.dst.idx (s.clock p.dst.die p.dst.idx) (p.addr % 0x80000) n
  else s.load p.memKey n
/-- Poison where a packet reads. -/
def State.pktPoison (s : State) (p : Pkt) (n : Nat) : Bool :=
  if p.dst.kind = 0 then s.padPoisonAt p.dst.die p.dst.idx (s.clock p.dst.die p.dst.idx) (p.addr % 0x80000) n else s.poisoned p.memKey n

/-- A packet that reads meets the soft errors of what it reads (R447). -/
def State.pktMeet (s : State) (p : Pkt) : State :=
  let n := if p.kind = .update then xSize p.upd.xop else p.len
  if p.dst.kind = 3 || (p.kind != .load && p.kind != .update) then s
  else if p.dst.kind = 0 then s.meetPad p.dst.die p.dst.idx (p.addr % 0x80000) n else s.meet p.dst.die p.memKey n
/-- Bytes that a packet brings to a scratchpad may meet a parity error in the buffer behind the link (R449): its context
takes 0xA7. -/
def State.pktParity (s : State) (p : Pkt) (n : Nat) : State :=
  if p.dst.kind ≠ 0 || n = 0 then s
  else
    let (s, bad, st) := s.bufferError p.dst.die p.dst.idx (p.addr % 0x80000) n
    if bad && p.src.module = s.modnum && (s.ctx p.src.die p.src.tile p.src.ctx).st = .ready then
      s.raiseAt p.src.die p.src.tile p.src.ctx
        { cause := 0xA7, kind := 5, eng := 13, status := st, baddr := some p.baddr }
    else s

/-- Perform a packet: the kind with which it fails, or the bytes that it answers with. -/
def State.perform (s : State) (p : Pkt) : State × Except Nat (Option (List Byte)) :=
  let s := s.pktMeet p
  if p.kind = .close then (s, .ok none)
  else match s.pktRefused p with
    | some k => (s, .error k)
    | none =>
      if p.dst.kind = 3 then
        match s.reduceTake (p.addr / 2 ^ 40) (p.addr % 2 ^ 40) (if p.kind = .update then some p.upd else none) with
        | some s => (s, .ok none)
        | none => (s, .error 1)
      else match p.kind with
        | .load => if s.pktPoison p p.len then (s, .error 2) else (s, .ok (some (s.pktRead p p.len)))
        | .update =>
          let n := xSize p.upd.xop
          if s.pktPoison p n then (s, .error 2)
          else
            let old := s.pktRead p n
            let r := combineWord p.upd.xop p.upd.vt (leNat old) p.upd.val
            ((s.pktWrite p (leBytes n r.1)).pktParity p n, .ok (if p.reg = 0 then none else some (old.take 4)))
        | .signal =>
          (((s.pktWrite p p.data).pktParity p p.data.length).modTile p.dst.die p.dst.idx fun t =>
            { t with semQ := t.semQ ++ [⟨s.now + 1, p.sem, none, 1, false⟩] }, .ok none)
        | _ => ((s.pktWrite p p.data).pktParity p p.data.length, .ok none)

/-! ## Answers (R331, R332, R485) -/

/-- Add 1 to one of the counters of R334. -/
def State.count (s : State) (e : Endpoint) (off : Nat) : State := s.incCtl e.home off
/-- Put a flit on its way. -/
def State.sendFlit (s : State) (lat : Nat) (f : Flit) : State :=
  { s with net := s.net ++ [⟨s.flitNo, s.now + lat, s.now, f⟩], flitNo := s.flitNo + 1 }
/-- Cycles from an endpoint back to a packet's source. -/
def State.backLat (s : State) (p : Pkt) : Nat :=
  if p.src.module = s.modnum then s.ackLat (s.srcMode p == 1) p.src.die p.src.tile p.dst else crossD + 64
/-- The receiver's die, by whose TTC a timed packet is delivered; the sender's for endpoints that have none. -/
def State.timeOf (s : State) (p : Pkt) : Nat :=
  if p.dst.module = s.modnum && p.dst.kind ≤ 1 then p.dst.die else p.src.die
/-- A source's answers come by the timetable of its die (R31, R279, R352). -/
def State.byTable (s : State) (src : Source) : Bool :=
  src.module == s.modnum && (s.car src.die src.tile).timed && s.tracking src.die
/-- Send an answer to a packet's source: it arrives some cycles later, for a timed one by the TTC of the source's die
counted from that of the commit. -/
def State.sendBack (s : State) (p : Pkt) (lat : Nat) (f : Flit) : State :=
  let from' := if s.byTable p.src then s.ttc (s.timeOf p) else s.now
  { s with net := s.net ++ [⟨s.flitNo, from' + lat, s.now, f⟩], flitNo := s.flitNo + 1 }
/-- Acknowledge up to a number. -/
def State.ackPkt (s : State) (p : Pkt) (n : Nat) : State :=
  s.sendBack p (s.backLat p) (.ack p.src p.epoch n p.inc)
/-- Cycles from the commit of a read to its data at the source tile: what its read latency leaves of the write
latency (R276, R485). -/
def State.dataLat (s : State) (p : Pkt) : Nat :=
  if p.src.module ≠ s.modnum then s.backLat p
  else
    let timed := s.srcMode p == 1
    s.readLat timed p.src.die p.src.tile p.place - s.writeLat timed p.src.die p.src.tile p.place
/-- The value of an RLD of a timetable, which lands at its read latency: `left` cycles of its tile's clock from now
(R352). -/
def State.landTimed (s : State) (p : Pkt) (left : Nat) (bs : List Byte) : State :=
  s.modCtx p.src.die p.src.tile p.src.ctx fun x =>
    { x with r := { x.r with sW := if p.reg = 0 then x.r.sW else x.r.sW ++
      [⟨p.reg, BitVec.allOnes 64, BitVec.ofNat 64 (leNat bs), s.clock p.src.die p.src.tile + left - 1, 0, s.freeCtr,
        false⟩] } }
/-- Answer a committed packet: with its data, or with an acknowledgement. -/
def State.answer (s : State) (p : Pkt) (data : Option (List Byte)) : State :=
  match data with
  | none => s.ackPkt p p.seq
  | some bs =>
    if p.kind = .load then
      if s.srcMode p = 1 then
        (s.landTimed p (s.dataLat p + s.ttc (s.timeOf p) - s.ttc p.src.die) bs).ackPkt p p.seq
      else (s.sendFlit (s.dataLat p + 2) (.resp p.src p.epoch p.seq p.inc p.reg bs)).ackPkt p p.seq
    else s.sendBack p (s.dataLat p) (.resp p.src p.epoch p.seq p.inc p.reg bs)

/-- The destination breaks a binding (R331, R332): its entry is broken, and what it holds is dropped. -/
def State.breakEntry (s : State) (k : Nat) (src : Source) (epoch : Nat) : State :=
  (s.modTracker k fun t =>
    { t with
      entries := t.entries.map fun e => if e.src = src && e.epoch = epoch then { e with broken := true } else e
      reorder := t.reorder.filter fun x => !(x.src == src && x.epoch == epoch) }).count (s.endpointOf k) 0x70

/-- A packet ends its binding (R337). -/
def Pkt.closes (p : Pkt) : Bool := p.kind == .close || p.cl
/-- Retire a packet's entry: the record of its key (R337). -/
def Tracker.retire (t : Tracker) (now : Nat) (p : Pkt) : Tracker :=
  { t with
    entries := t.entries.filter fun e => e.src != p.src
    retired := t.retired.filter (fun r => r.src != p.src && now < r.cycle + retiredLife)
      ++ [⟨p.src, p.epoch, p.seq, now⟩] }
/-- A close finds the retired list full (R337). -/
def Tracker.retiredFull (t : Tracker) (now : Nat) (p : Pkt) : Bool :=
  256 ≤ (t.retired.filter fun r => r.src != p.src && now < r.cycle + retiredLife).length

/-- Commit a packet that is next in its binding: true where it performs. -/
def State.commitPkt (s : State) (p : Pkt) : State × Bool :=
  match s.perform p with
  | (s, .error k) =>
    ((s.breakEntry p.dst.key p.src p.epoch).sendBack p (s.backLat p) (.fault p.src p.epoch p.seq k p.inc), false)
  | (s, .ok data) =>
    let s := (s.noteCommit p).modTracker p.dst.key fun t =>
      if p.closes then t.retire s.now p
      else { t with entries := t.entries.map fun e => if e.src = p.src then { e with e := (p.seq + 1) % 4096 } else e }
    (s.answer p data, true)

/-! ## Taking a packet in (R330) -/

/-- A packet would write a half of a buffer to which a read is bound (R321). -/
def State.commitHeld (s : State) (p : Pkt) : Bool :=
  let n := if p.kind = .update then xSize p.upd.xop else p.data.length
  p.dst.kind == 0 && p.kind != .close && p.kind != .load && s.hiddenHeld p.dst.die p.dst.idx (p.addr % 0x80000) n

/-- What becomes of a packet: the match of its key, then what keeps it from committing now. -/
def State.fate (s : State) (t : Tracker) (p : Pkt) : Tracker × Fate :=
  let keep (x : Tracker) : Tracker × Fate :=
    if t.reorder.any fun y => y.src == p.src && y.epoch == p.epoch && y.seq == p.seq then (t, .copy)
    else if 256 ≤ t.reorder.length then (t, .refuse false)
    else (x, .hold)
  match t.sort s.now p with
  | (x, .commit) =>
    if !s.runAdmits p then keep x
    else if p.closes && x.retiredFull s.now p then (t, .refuse false)
    else if s.commitFull p then (t, .refuse true)
    else if s.commitHeld p then (x, .wait)
    else (x, .commit)
  | (x, .hold) => keep x
  | r => r

/-- A packet is being refused, or is taken in: its source's copy keeps it (R330). -/
def State.noteRefused (s : State) (p : Pkt) (b : Bool) : State :=
  if p.src.module ≠ s.modnum || !(s.tile p.src.die p.src.tile).retx.any (fun q =>
      q.src == p.src && q.epoch == p.epoch && q.seq == p.seq && q.ref != b) then s
  else s.modTile p.src.die p.src.tile fun t =>
    { t with retx := t.retx.map fun q =>
        if q.src = p.src && q.epoch = p.epoch && q.seq = p.seq then { q with ref := b } else q }

/-- Take a packet in: true where it commits and performs. One whose write has to wait is looked at again in the next
cycle. -/
def State.takePkt (s : State) (p : Pkt) : State × Bool :=
  let k := p.dst.key
  let f := s.fate (s.tracker k) p
  let s := s.noteRefused p (match f.2 with
    | .refuse _ => true
    | _ => false)
  match f with
  | (x, .commit) => (s.setTracker k x).commitPkt p
  | (x, .hold) => (s.setTracker k { x with reorder := x.reorder ++ [p] }, false)
  | (x, .copy) => ((s.setTracker k x).count p.dst 0x58, false)
  | (x, .dup n) => (((s.setTracker k x).count p.dst 0x58).ackPkt p n, false)
  | (x, .drop) => (s.setTracker k x, false)
  | (x, .stale) => ((s.setTracker k x).count p.dst 0x60, false)
  | (x, .wait) => ((s.setTracker k x).sendFlit 1 (.pkt p), false)
  | (x, .refuse j) =>
    let s := (s.setTracker k x).count p.dst 0x68
    let s := if j then s.jfull p.dst.home else s
    if p.src.module ≠ s.modnum then (s, false)
    else
      ((s.sendFlit 64 (.refused p)).modTile p.src.die p.src.tile fun t =>
        { t with retx := t.retx.map fun q =>
          if q.src = p.src && q.epoch = p.epoch && q.seq = p.seq then { q with sent := s.now + 64 } else q }, false)

/-- The first held packet that is held no longer, and those that stay. -/
def State.dueHeld (s : State) (t : Tracker) : List Pkt → List Pkt → Option (Pkt × List Pkt)
  | _, [] => none
  | pre, p :: r =>
    match (s.fate { t with reorder := pre ++ r } p).2 with
    | .hold => s.dueHeld t (pre ++ [p]) r
    | _ => some (p, pre ++ r)
/-- A row that takes a flit off the network. -/
def isFlitRow : Instr → Bool
  | .packetArrival _ | .packetRefusedResend _ | .ackReceived _ | .rldResponse _ | .timedDelivery _ => true
  | _ => false
/-- A held packet stands at an endpoint as one that arrives after some cycles; one of this cycle is taken behind the flits
that are left of it (R303). -/
def State.standAt (s : State) (lat : Nat) (p : Pkt) : State :=
  let t := s.sendFlit lat (.pkt p)
  if 0 < lat then t
  else { t with agenda := s.agenda.takeWhile isFlitRow ++ .packetArrival s.flitNo :: s.agenda.dropWhile isFlitRow }
/-- Take in held packets while one can go on; `fuel` bounds them. Within a cycle reads perform behind the writes (R303): a
held load is served behind the writes that the cycle still brings, and a write behind a load (`read`) in the next one. -/
def State.drainHeld (s : State) (k : Nat) (read : Bool) : Nat → State
  | 0 => s
  | n + 1 =>
    let t := s.tracker k
    match s.dueHeld t [] t.reorder with
    | none => s
    | some (p, l) =>
      let s := s.setTracker k { t with reorder := l }
      if p.kind = .load && !read then (s.standAt 0 p).drainHeld k read n
      else if p.kind ≠ .load && read then (s.standAt 1 p).drainHeld k read n
      else (s.takePkt p).1.drainHeld k read n
/-- Take in a packet, and then the held ones that can go on. -/
def State.takeAll (s : State) (p : Pkt) : State × Bool :=
  let (s, ok) := s.takePkt p
  (s.drainHeld p.dst.key (p.kind == .load) 320, ok)

/-! ## Incarnations (R333, R454) -/

/-- Key of a source die. -/
def Source.dieKey (x : Source) : Nat := x.module * 4 + x.die
/-- A tracker belongs to a receiver: a die, or the collective die. -/
def trackerOf (recv : Option Nat) (k : Nat) : Bool :=
  match recv with
  | some d => k / 4096 ≤ 1 && k / 1024 % 4 == d
  | none => 2 ≤ k / 4096
/-- Free every entry, record and held packet of a source die at a receiver. -/
def State.freeSource (s : State) (recv : Option Nat) (key : Nat) : State :=
  { s with trackers := s.trackers.map fun e =>
      if trackerOf recv e.1 then
        (e.1, { e.2 with
          entries := e.2.entries.filter fun x => x.src.dieKey != key
          reorder := e.2.reorder.filter fun x => x.src.dieKey != key
          retired := e.2.retired.filter fun x => x.src.dieKey != key })
      else e }
/-- The latest incarnation that a receiver has learned of a source die, if it has learned one. -/
def State.knownInc (s : State) (recv : Option Nat) (key : Nat) : Option Nat :=
  match recv with
  | some d => (s.die d).incOf.find? key
  | none => s.coll.incOf.find? key
/-- A receiver keeps an incarnation. -/
def State.keepInc (s : State) (recv : Option Nat) (key inc : Nat) : State :=
  match recv with
  | some d => s.modDie d fun x => { x with incOf := x.incOf.set key inc }
  | none => { s with coll := { s.coll with incOf := s.coll.incOf.set key inc } }
/-- A receiver learns of an incarnation: true where it is not an old one. -/
def State.learnInc (s : State) (recv : Option Nat) (key inc : Nat) : State × Bool :=
  match s.knownInc recv key with
  | none => (s.keepInc recv key inc, true)
  | some n =>
    let a := epochAhead inc n
    if a = 0 then (s, true)
    else if 127 < a then (s, false)
    else ((s.freeSource recv key).keepInc recv key inc, true)
/-- The receiver of a packet. -/
def Pkt.receiver (p : Pkt) : Option Nat := if p.dst.kind ≤ 1 then some p.dst.die else none

/-- A started copy sends in a binding. -/
def Run.sendsIn (r : Run) (src : Source) (epoch : Nat) : Bool :=
  match r.cmd.instr with
  | .copy f => r.ctx == src.ctx && f.stm.toNat == src.stm && r.cmd.rsv.map (·.2) == some epoch
  | _ => false
/-- A binding breaks at its source: the stream, its packets, the loads that wait on it, and the copies that send in it. Where
it had been closed, the scatter commands entered so far are those that wait for its updates (R350, R351). -/
def State.breakStream (s : State) (src : Source) (epoch : Nat) : State :=
  let gone := s.unackedAt src.die src.tile src.ctx src.stm epoch
  let upd := gone.any fun p => p.eng == 7
  let st := s.strm src.die src.tile src.ctx src.stm
  let here := st.epoch = epoch && st.bound.isSome
  ((s.modTile src.die src.tile fun t =>
    { t with
      retx := t.retx.filter fun p => !(p.src == src && p.epoch == epoch)
      runs := t.runs.map fun r => if r.sendsIn src epoch then { r with lost := true } else r }).modCtx src.die src.tile src.ctx
      fun x => { x with
        rld := x.rld.filter fun i => i / 4096 != src.stm * 256 + epoch
        streams := if here then x.streams.set src.stm
          { st with broken := true, low := ((lowestPkt gone).map (·.seq)).getD st.next, lost := upd } else x.streams
        e := if upd && !here then { x.e with lostTo := s.flitNo } else x.e })
/-- A cause of kind I for a context; a stopped one takes none. -/
def State.raiseSrc (s : State) (src : Source) (i : TrapInfo) : State :=
  if (s.ctx src.die src.tile src.ctx).st = .ready then s.raiseAt src.die src.tile src.ctx i else s
/-- Stream broken for one binding (R331): the lowest unacknowledged number, and the bundle of its packet. -/
def State.streamBroken (s : State) (src : Source) (epoch : Nat) : State :=
  let p := lowestPkt (s.unackedAt src.die src.tile src.ctx src.stm epoch)
  let low := (p.map (·.seq)).getD (s.strm src.die src.tile src.ctx src.stm).next
  (s.breakStream src epoch).raiseSrc src
    { cause := 0x63, kind := 5, eng := 9, status := src.stm + 16 * low, baddr := p.map (·.baddr) }

/-- Bindings of a die whose endpoint lies on a reset die (R454): bound streams, and closed ones with packets under
way. -/
def State.bindingsTo (s : State) (d key : Nat) : List (Source × Nat) :=
  let on (e : Endpoint) : Bool := e.kind ≤ 1 && e.module * 4 + e.die == key
  let bound := s.ctxs.flatMap fun e =>
    if e.1 / 8 / 512 = d && e.1 % 8 < 4 then
      e.2.streams.filterMap fun x =>
        if (x.2.bound.map on).getD false && !x.2.broken then
          some (s.source d (e.1 / 8 % 512) (e.1 % 8) x.1, x.2.epoch)
        else none
    else []
  let sent := s.tiles.flatMap fun e =>
    if e.1 / 512 = d then (e.2.retx.filter fun p => on p.dst).map fun p => (p.src, p.epoch) else []
  sent.foldl (fun l x => if l.contains x then l else l ++ [x]) bound

/-- A receiver learns of an incarnation, with a packet, or told of a change: true where it is not an old one. A die that so
learns a new number breaks its bindings to the source die (R454); the first number that a packet brings is no change. -/
def State.learn (s : State) (recv : Option Nat) (key inc : Nat) (told : Bool := false) : State × Bool :=
  let (s', new) := s.learnInc recv key inc
  match recv with
  | some d =>
    if new && (match s.knownInc recv key with
        | some n => n ≠ inc
        | none => told) then
      ((s'.bindingsTo d key).foldl (fun s x => s.streamBroken x.1 x.2) s', new)
    else (s', new)
  | none => (s', new)

/-- INCARNATION_CHANGE (R333, R454): a die learns a source die's new number; it breaks its bindings to that die. -/
def execIncarnationChange (die src : Nat) (incn : BitVec 8) (s : State) : Host.Outcome State Fault Refusal :=
  .next (s.learn (some die) src incn.toNat true).1

/-! ## Arrival (R330, R332, R397, R400) -/

/-- A flit may be taken off: by the common clock; an answer to a source that runs by a timetable, by the TTC of its die,
while that runs; a packet of a timetable is delivered as its own row says. -/
def State.flitDue (s : State) (x : InFlight) : Bool :=
  let answer (src : Source) : Bool :=
    if s.byTable src then (s.die src.die).freeze.isNone && x.arrive ≤ s.ttc src.die else x.arrive ≤ s.now
  match x.flit with
  | .timed _ => true
  | .ack src .. | .resp src .. | .fault src .. => answer src
  | _ => x.arrive ≤ s.now
/-- A flit under way that is due. -/
def State.flitOf (s : State) (n : Nat) : Option InFlight := s.net.find? fun x => x.id == n && s.flitDue x
/-- Take a flit off the network. -/
def State.takeFlit (s : State) (n : Nat) : State := { s with net := s.net.filter fun x => x.id != n }

/-- A packet leaves for another module by the crossbar: the kind with which it fails there (R397, R400). -/
def State.leaveFails (s : State) (p : Pkt) : Option Nat :=
  match s.route p.dst.module with
  | none => some 0
  | some q => if s.portRole q = 2 && p.kind = .update && 6 ≤ p.upd.xop then some 3 else none

/-- Send a packet again. -/
def State.sendAgain (s : State) (p : Pkt) : State :=
  s.launchPkt p (s.writeLat false p.src.die p.src.tile p.place)
/-- PACKET_REFUSED_RESEND (R330): 64 cycles after its refusal a packet is sent again, unless its binding has ended. -/
def execPacketRefusedResend (p : Nat) (s : State) : Host.Outcome State Fault Refusal :=
  .next (match s.flitOf p with
    | some ⟨_, _, _, .refused q⟩ =>
      let s := s.takeFlit p
      if (s.tile q.src.die q.src.tile).retx.any fun x => x.src == q.src && x.epoch == q.epoch && x.seq == q.seq then
        s.sendAgain q
      else s
    | _ => s)

/-- Attempt a + 1 of a packet is due (R331). -/
def Pkt.dueAgain (p : Pkt) (now : Nat) : Bool :=
  p.tries == 0 || (p.tries < 8 && p.sent + 2048 * 2 ^ (p.tries - 1) ≤ now)
/-- PACKET_RETRANSMIT (R331): attempts 2 to 8; and the first one of packets whose timetable was aborted. -/
def execPacketRetransmit (die tile : Nat) (s : State) : Host.Outcome State Fault Refusal :=
  .next (
    if s.timedTile die tile then s
    else ((s.tile die tile).retx.filter fun p => p.dueAgain s.now).foldl (fun s p =>
      let q := { p with tries := p.tries + 1, sent := s.now }
      (s.modTile die tile fun t =>
        { t with retx := t.retx.map fun x =>
          if x.src = p.src && x.epoch = p.epoch && x.seq = p.seq then q else x }).sendAgain q) s)

/-- Attempt 8 has stayed unacknowledged for 2,048 × 2^7 cycles (R331). -/
def Pkt.givenUp (p : Pkt) (now : Nat) : Bool := 8 ≤ p.tries && p.sent + 2048 * 2 ^ 7 ≤ now
/-- STREAM_BROKEN_TIMEOUT (R331): the source takes stream broken. -/
def execStreamBrokenTimeout (die tile : Nat) (s : State) : Host.Outcome State Fault Refusal :=
  .next (((s.tile die tile).retx.filter fun p => p.givenUp s.now).foldl (fun s p =>
    if (s.tile die tile).retx.any fun x => x.src == p.src && x.epoch == p.epoch then s.streamBroken p.src p.epoch
    else s) s)

/-- DESTINATION_LEARNS_BREAK (R331): the entry of a binding that its source has broken is broken too. -/
def execDestinationLearnsBreak (ep die tile ctx stm : Nat) (s : State) : Host.Outcome State Fault Refusal :=
  let src := s.source die tile ctx stm
  let st := s.strm die tile ctx stm
  .next (match (s.tracker ep).entry? src with
    | some e =>
      let gone := if st.epoch = e.epoch then st.broken
        else !((s.tile die tile).retx.any fun p => p.src == src && p.epoch == e.epoch)
      if gone && !e.broken then (s.breakEntry ep src e.epoch).drainHeld ep false 320 else s
    | none => s)

/-- An acknowledgement covers a packet; a fetched value acknowledges its own packet (R331, R350). -/
def Pkt.ackedBy (p : Pkt) (src : Source) (epoch seq : Nat) : Bool :=
  p.src == src && p.epoch == epoch && (seq + 4096 - p.seq) % 4096 < 2048 && !(p.kind == .update && p.reg != 0)
/-- ACK_RECEIVED (R331, R332, R333): a cumulative acknowledgement, or the refusal of a packet that could not
perform. -/
def execAckReceived (p : Nat) (s : State) : Host.Outcome State Fault Refusal :=
  .next (match s.flitOf p with
    | some ⟨_, _, _, .ack src epoch seq inc⟩ =>
      let s := s.takeFlit p
      if src.module ≠ s.modnum then s
      else if inc ≠ (s.die src.die).inc then s.incCtl src.die 0x60
      else s.modTile src.die src.tile fun t => { t with retx := t.retx.filter fun q => !q.ackedBy src epoch seq }
    | some ⟨_, _, _, .fault src epoch seq kind inc⟩ =>
      let s := s.takeFlit p
      if src.module ≠ s.modnum then s
      else if inc ≠ (s.die src.die).inc then s.incCtl src.die 0x60
      else
        match (s.tile src.die src.tile).retx.find? fun q => q.src == src && q.epoch == epoch && q.seq == seq with
        | none => s
        | some q => (s.breakStream src epoch).raiseSrc src
            { cause := 0x4B, kind := 5, eng := q.eng, status := kind + 16 * src.stm + 256 * seq, baddr := some q.baddr }
    | _ => s)

/-- RLD_RESPONSE (R329, R350): the value of an RLD lands; an XFETCH value goes to the scratchpad. -/
def execRldResponse (p : Nat) (s : State) : Host.Outcome State Fault Refusal :=
  .next (match s.flitOf p with
    | some ⟨_, _, _, .resp src epoch seq inc reg bs⟩ =>
      let s := s.takeFlit p
      let id := rldId src.stm epoch seq
      if src.module ≠ s.modnum then s
      else if inc ≠ (s.die src.die).inc then s.incCtl src.die 0x60
      else if (s.ctx src.die src.tile src.ctx).rld.contains id then
        (s.landTimed { (default : Pkt) with src := src, reg := reg } 0 bs).modCtx src.die src.tile src.ctx fun x =>
          { x with rld := x.rld.filter (· != id) }
      else if (s.tile src.die src.tile).retx.any fun q =>
          q.src == src && q.epoch == epoch && q.seq == seq && q.kind == .update then
        let (s, bad, st) := (s.padStore src.die src.tile (reg - 1) bs).bufferError src.die src.tile (reg - 1) bs.length
        let s := if bad then s.raiseSrc src { cause := 0xA7, kind := 5, eng := 13, status := st } else s
        s.modTile src.die src.tile fun t =>
          { t with retx := t.retx.filter fun q => !(q.src == src && q.epoch == epoch && q.seq == seq) }
      else s
    | _ => s)

/-- The source of a flit that stands in ports on its way; one that its source holds back for a new sending stands in none. -/
def Flit.src? : Flit → Option Source
  | .pkt p | .timed p => some p.src
  | .ack src .. | .resp src .. | .fault src .. => some src
  | .refused _ => none
/-- A flit has waited 2^14 cycles in a port. What a timetable moves waits for the TTC of its die, in an edge buffer (R279), and
for nothing else while that runs. -/
def State.expired (s : State) (x : InFlight) : Bool :=
  x.sent + 16384 ≤ s.now && (x.flit.src?.map fun src => !s.byTable src).getD false
/-- PORT_PACKET_EXPIRY (R338): a packet or an answer that has waited 2^14 cycles in a port is discarded. -/
def execPortPacketExpiry (p : Nat) (s : State) : Host.Outcome State Fault Refusal :=
  .next (match s.net.find? fun x => x.id == p with
    | some x =>
      if s.expired x then
        (s.takeFlit p).incCtl ((x.flit.src?.map fun src => if src.module = s.modnum then src.die else 0).getD 0) 0x60
      else s
    | none => s)

/-- RETIRED_RECORD_EXPIRY (R337): records older than 2^20 cycles go. -/
def execRetiredRecordExpiry (ep : Nat) (s : State) : Host.Outcome State Fault Refusal :=
  .next (s.modTracker ep fun t => { t with retired := t.retired.filter fun r => s.now < r.cycle + retiredLife })

end Sys2Proof.Machine
end

