-- ==== Sys2Proof/Machine/Timing.lean ====
section
/-! DEFINITION. Timetabled dies: the exchange of TTC, freezes, timed packets and the overrun (R270, R273, R276 to R282,
R352, R399). -/

namespace Sys2Proof.Machine

/-! ## Tracking (R279) -/

/-- The other dies of a die's domain. -/
def State.partners (s : State) (d : Nat) : List Nat := (s.domainOf d).filter (· != d)
/-- One cycle of what a die learns: under key e the TTC learned of die e, under 4 + e and 8 + e what that die showed
one and two cycles ago. -/
def learnTtc (m : FMap Nat) (e shown : Nat) : FMap Nat :=
  let m := match m.find? (8 + e) with
    | some v => m.set e v
    | none => m
  let m := match m.find? (4 + e) with
    | some v => m.set (8 + e) v
    | none => m
  m.set (4 + e) shown
/-- A die may not execute its cycle yet: another die's learned TTC is more than 8 behind; or, in a pod-timed domain,
another package's more than 24 (R280). -/
def State.outrun (s : State) (d : Nat) : Bool :=
  s.tracking d && (((s.partners d).any fun e => match (s.die d).ttcOf.find? e with
    | some v => v + 8 < s.ttc d
    | none => false)
  || (((s.die d).tt.map (·.pod)).getD false && s.coll.pod.any fun e => e.2.ttc + 24 < s.ttc d))
/-- TTC_EXCHANGE (R279): the die learns the TTC of the other dies, and freezes where it would outrun one (kind 10). -/
def execTtcExchange (die : Nat) (s : State) : Host.Outcome State Fault Refusal :=
  let s := (s.partners die).foldl (fun s e => s.modDie die fun x => { x with ttcOf := learnTtc x.ttcOf e (s.ttc e) }) s
  .next (
    if s.outrun die && (s.die die).freeze.isNone then s.modDie die fun x => { x with freeze := some (10, s.now) } else s)

/-! ## Freezes (R278) -/

/-- Tiles of a die on which a timetabled caravan runs. -/
def State.timedTiles (s : State) (d : Nat) : List Nat :=
  ((s.tiles.keys.filter fun k => k / 512 == d).map (· % 512)).filter fun t => (s.tile d t).occ.isSome && s.timedTile d t
/-- A context of a tile is held with a kind. -/
def State.heldBy (s : State) (d t k : Nat) : Bool := (upFrom 0 4).any fun c => ((s.ctx d t c).hold.find? k).isSome
/-- The lead of a context still waits for code. -/
def State.stalled (s : State) (d t : Nat) : Bool :=
  (upFrom 0 4).any fun c => ((s.ctx d t c).hold.find? 7).isSome && (s.tryIssue d t c).2 == .stall
/-- A matrix operand of a tile misses. -/
def State.misses (s : State) (d t : Nat) : Bool := ((s.tile d t).miss.map fun (m : Miss) => !m.declined).getD false
/-- A late operand of a tile is awaited (R276). -/
def State.awaited (s : State) (d t : Nat) : Bool :=
  s.upsets.any fun u => match u with
    | .late d' t' _ true => d' == d && t' == t
    | _ => false
/-- A cycle less for the late operands that a die awaits; those that have come are so no longer. -/
def State.lateLess (s : State) (d : Nat) : State :=
  { s with upsets := s.upsets.filterMap fun u => match u with
    | .late d' t n true => if d' ≠ d then some u else if n ≤ 1 then none else some (.late d' t (n - 1) true)
    | _ => some u }
/-- What keeps a die from its timetable cycle: the hold kind, and the tile whose engine finds it (R278); none for the
tracking of the other dies. -/
def State.freezeBy (s : State) (d : Nat) : Option (Nat × Option Nat) :=
  let l := s.timedTiles d
  let first (p : Nat → Bool) (k : Nat) : Option (Nat × Option Nat) := (l.find? p).map fun t => (k, some t)
  (((first (s.stalled d) 7).orElse fun _ => first (s.misses d) 9).orElse fun _ =>
    first (fun t => (s.tile d t).gen.isSome || s.awaited d t) 10).orElse fun _ => (first (fun t => s.heldBy d t 8) 8).orElse fun _ =>
    if s.outrun d then some (10, none) else none
/-- The hold kind of what keeps a die from its timetable cycle. -/
def State.freezeCause (s : State) (d : Nat) : Option Nat := (s.freezeBy d).map (·.1)
/-- The tile and context at which a freeze that expires is recorded (R298): those of the engine that raised it. -/
def State.freezer (s : State) (d : Nat) : Option (Nat × Nat) :=
  match s.freezeBy d with
  | some (_, some t) =>
    let live (c : Nat) : Bool := (s.ctx d t c).st == .ready
    let held (c : Nat) : Bool := live c && !(s.ctx d t c).holds.isEmpty
    let c := match (s.tile d t).miss with
      | some m => some m.ctx
      | none => ((upFrom 0 4).find? held).orElse fun _ => (upFrom 0 4).find? live
    c.map fun c => (t, c)
  | _ => none
/-- DIE_FREEZE (R278): TTC and every engine of the die stand still from this cycle on. -/
def execDieFreeze (die : Nat) (s : State) : Host.Outcome State Fault Refusal :=
  .next (
    if !s.tracking die || (s.die die).freeze.isSome then s
    else match s.freezeCause die with
      | some k => s.modDie die fun x => { x with freeze := some (k, s.now) }
      | none => s)
/-- FREEZE_END (R278): the first cycle in which no cause remains; what was left of the cycle then runs. -/
def execFreezeEnd (die : Nat) (s : State) : Host.Outcome State Fault Refusal :=
  let s := s.lateLess die
  .next (
    if (s.die die).freeze.isSome && (!s.tracking die || (s.freezeCause die).isNone) then
      s.modDie die fun x => { x with freeze := none }
    else s)

/-! ## Departures (R273, R352, R399) -/

/-- The ASID and the timetable of a die. -/
def State.ttOf (s : State) (d : Nat) : Option (Nat × Timetable) :=
  (s.die d).tt.map fun (t : Timetable) => (wAsid ((s.die d).wbs.get t.entNo).img, t)
/-- The first entry of a departure table, from number n on, that is a tile's and a stream's and has not been taken: its
number and its cycle. -/
def State.depNext (s : State) (d asid : Nat) (t : Timetable) (tile stm : Nat) : Nat → Nat → Option (Nat × Nat)
  | _, 0 => none
  | n, k + 1 =>
    match s.listEntry d asid t.rsd n with
    | none => none
    | some e =>
      if nbits e 23 15 == tile && nbits e 14 11 == stm && !t.depUsed.contains n then some (n, leCyc e)
      else if leLast e then none
      else s.depNext d asid t tile stm (n + 1) k
/-- The ports of the crossbar that a packet crosses. -/
def State.crossPorts (s : State) (p : Pkt) : Option (Nat × Nat) :=
  if p.dst.module ≠ s.modnum then (s.route p.dst.module).map fun q => (36 + p.src.die, q)
  else if p.dst.kind = 3 then some (36 + p.src.die, 40)
  else none
/-- The first beat of an entry of the crossbar schedule that no packet has taken and that a packet can reach: a beat moves
in each cycle from CYC on, and `from'` is the cycle in which the packet stands at the crossbar (log 96). -/
def beatFree (t : Timetable) (n e from' : Nat) : Option Nat :=
  ((upFrom 0 (nbits e 11 4)).find? fun j => from' ≤ leCyc e + j && !t.xbarUsed.contains (256 * n + j)).map (256 * n + ·)
/-- The first beat of the crossbar schedule that leads from a port to another, by entry number and beat. -/
def State.crossNext (s : State) (d asid : Nat) (t : Timetable) (a b from' : Nat) : Nat → Nat → Option Nat
  | _, 0 => none
  | n, k + 1 =>
    match s.listEntry d asid t.xbar n with
    | none => none
    | some e =>
      match (if nbits e 23 18 == a && nbits e 17 12 == b then beatFree t n e from' else none) with
      | some m => some m
      | none => if leLast e then none else s.crossNext d asid t a b from' (n + 1) k
/-- Take a beat of the crossbar schedule for a packet that departs in a timetable cycle and needs one: whether it may
cross. Kendom carries timed traffic, UALink does not (R398 to R400). -/
def State.takeCross (s : State) (d now : Nat) (p : Pkt) : State × Bool :=
  match s.crossPorts p, (s.domainOf d).head? with
  | some (a, b), some low =>
    match s.ttOf low with
    | some (asid, t) =>
      if t.xbar = 0 || (b < 36 && s.portRole b == 2) then (s, false)
      else match s.crossNext low asid t a b (now + crossD) 0 listMax with
        | some n => (s.modDie low fun x => { x with tt := some { t with xbarUsed := n :: t.xbarUsed } }, true)
        | none => (s, false)
    | none => (s, false)
  | some _, none => (s, false)
  | none, _ => (s, true)
/-- A deviation of kind I: it aborts its domain (R282). -/
def State.deviate (s : State) (d t c : Nat) (i : TrapInfo) : State := (s.raiseAt d t c i).abortDomain d
/-- Deviation: departure (R273). -/
def State.departDev (s : State) (d t : Nat) (p : Pkt) : State :=
  s.deviate d t p.src.ctx { cause := 0x84, kind := 5, eng := 9, status := p.src.stm, baddr := some p.baddr }
/-- A packet departs: it reaches its receiver's edge buffer, to be delivered at its timetable cycle. -/
def State.departPkt (s : State) (d t : Nat) (p : Pkt) : State :=
  let lat := s.writeLat true d t p.place
  let q := { p with tries := 1, sent := s.now }
  let s := s.modTile d t fun x =>
    { x with retx := x.retx.map fun y => if y.src = p.src && y.epoch = p.epoch && y.seq = p.seq then q else y }
  { s with net := s.net ++ [⟨s.flitNo, s.ttc d + lat, s.now, .timed q⟩], flitNo := s.flitNo + 1 }
/-- A packet departs and fails at the port by which it would leave its package (R397, R400). -/
def State.departFail (s : State) (d t kind : Nat) (p : Pkt) : State :=
  (s.modTile d t fun x =>
    { x with retx := x.retx.map fun y => if y.src = p.src && y.epoch = p.epoch && y.seq = p.seq
        then { p with tries := 1, sent := s.now } else y }).sendBack p (2 * crossD)
      (.fault p.src p.epoch p.seq kind p.inc)
/-- What a departure table makes of an unsent packet in the present cycle. -/
def State.departOne (s : State) (d t : Nat) (p : Pkt) : State :=
  match s.ttOf d, s.sinceStart d with
  | some (asid, tt), some now =>
    match (if tt.rsd = 0 then none else s.depNext d asid tt t p.src.stm 0 listMax) with
    | none => s.departDev d t p
    | some (n, cyc) =>
      if cyc < now then s.departDev d t p
      else if now < cyc then s
      else
        let s := s.modDie d fun x => { x with tt := some { tt with depUsed := n :: tt.depUsed } }
        match (if p.dst.module = s.modnum then none else s.leaveFails p) with
        | some k => s.departFail d t k p
        | none =>
          let (s, ok) := s.takeCross d now p
          if ok then s.departPkt d t p else s.departDev d t p
  | _, _ => s
/-- TIMED_DEPARTURE (R273): the packets of a tile whose cycle has come depart; one that is late, or has no entry, is a
deviation. -/
def execTimedDeparture (die tile : Nat) (s : State) : Host.Outcome State Fault Refusal :=
  .next (
    if !s.timedTile die tile then s
    else ((s.tile die tile).retx.filter fun p => p.tries == 0).foldl
      (fun s p => if s.domainRuns die then s.departOne die tile p else s) s)

/-! ## Deliveries (R279, R352) -/

/-- The lowest context of a tile that lives. -/
def State.liveCtx (s : State) (d t : Nat) : Option Nat := (upFrom 0 4).find? fun c => (s.ctx d t c).st == .ready
/-- Deviation: commit, at the destination tile; where no context lives there, at the source tile. Its status has the stream in
bits 3:0 and the source tile above them, DESIGN CHOICE (log 61). -/
def State.commitDev (s : State) (p : Pkt) : State :=
  let i : TrapInfo := { cause := 0x85, kind := 5, eng := 9, status := p.src.stm + 16 * p.src.tile }
  let at' := if p.dst.kind = 0 then s.liveCtx p.dst.die p.dst.idx else none
  match at' with
  | some c => s.deviate p.dst.die p.dst.idx c i
  | none => s.deviate p.src.die p.src.tile p.src.ctx i
/-- Flits of a packet have come through links: the retries in a row at them end (R452). -/
def State.linksOk (s : State) (p : Pkt) : State :=
  let far (m : Nat) : List Nat := if m = s.modnum then [] else (s.route m).toList
  let near (m d kind : Nat) : List Nat := if m = s.modnum && kind ≤ 1 then [36 + d] else []
  let l := far p.src.module ++ far p.dst.module
  let out := !l.isEmpty || 2 ≤ p.dst.kind
  let l := l ++ if out then near p.src.module p.src.die 0 ++ near p.dst.module p.dst.die p.dst.kind else []
  if s.coll.linkRetry.isEmpty then s
  else { s with coll := { s.coll with linkRetry := l.foldl (fun (m : FMap Nat) k => m.erase k) s.coll.linkRetry } }
/-- A packet of another module on its way through this one leaves by a beat of this module's own schedule (R398, R399): by
whose, or none for now. -/
def State.takeTransit (s : State) (p : Pkt) : Option State :=
  match s.route p.src.module, s.route p.dst.module with
  | some a, some b =>
    if s.portRole b = 2 then none
    else (upFrom 0 4).findSome? fun d =>
      match s.ttOf d, s.sinceStart d with
      | some (asid, t), some now =>
        if t.xbar = 0 || !s.tracking d || (s.domainOf d).head? != some d then none
        else (s.crossNext d asid t a b now 0 listMax).map fun n =>
          s.modDie d fun x => { x with tt := some { t with xbarUsed := n :: t.xbarUsed } }
      | _, _ => none
  | _, _ => none

/-- PACKET_ARRIVAL (R330): incarnation, then the tracker. A packet for another module leaves the package, one of another
module by a beat of the crossbar schedule (R398); one for a tile that is being scrubbed waits (R392). -/
def execPacketArrival (p : Nat) (s : State) : Host.Outcome State Fault Refusal :=
  .next (match s.flitOf p with
    | some ⟨_, _, _, .pkt q⟩ =>
      if q.dst.module ≠ s.modnum && q.src.module ≠ s.modnum then
        match s.takeTransit q with
        | some s => (s.takeFlit p).linksOk q
        | none => s
      else if q.dst.module ≠ s.modnum then
        match s.leaveFails q with
        | some k => (s.takeFlit p).sendFlit crossD (.fault q.src q.epoch q.seq k q.inc)
        | none => (s.takeFlit p).linksOk q
      else if q.dst.kind = 0 && s.now < (s.tile q.dst.die q.dst.idx).scrubAt then s
      else
        let (s, ok) := ((s.takeFlit p).linksOk q).learn q.receiver q.src.dieKey q.inc
        if ok then (s.takeAll q).1 else s.count q.dst 0x60
    | _ => s)

/-- TIMED_DELIVERY (R279): a packet commits when its receiver's TTC reaches its cycle. Once the domain has been aborted,
it is taken in as it comes (R282). One on its way to another module goes on by this module's own schedule; without a beat of it
it goes no further, and its deviation is its sender's (R398, R399). -/
def execTimedDelivery (p : Nat) (s : State) : Host.Outcome State Fault Refusal :=
  .next (match s.net.find? fun x => x.id == p with
    | some ⟨_, at', _, .timed q⟩ =>
      let r := s.timeOf q
      let runs := s.tracking r && s.srcMode q == 1
      if runs && (s.ttc r < at' || (s.die r).freeze.isSome) then s
      else
        let s := (s.takeFlit p).linksOk q
        if q.dst.module ≠ s.modnum then
          if q.src.module = s.modnum then s else (s.takeTransit q).getD s
        else
          let (s, ok) := s.learn q.receiver q.src.dieKey q.inc
          if !ok then s.count q.dst 0x60
          else
            let t := (s.takeAll q).1
            if !runs || (s.fate (s.tracker q.dst.key) q).2 == .commit then t else t.commitDev q
    | _ => s)

/-! ## Overrun (R281) -/

/-- TIMETABLE_OVERRUN (R281): a context that has not ended at S + LEN takes the cause at its next bundle. -/
def execTimetableOverrun (die lead ctx : Nat) (s : State) : Host.Outcome State Fault Refusal :=
  .next (match (s.die die).tt, s.sinceStart die with
    | some t, some now =>
      if now < t.len || !s.timedTile die lead || (s.ctx die lead ctx).st != .ready || (s.ctx die lead ctx).withheld then s
      else s.leadTrap die lead ctx (s.nextIssued die lead ctx 0 [] [] []) (issueTrap 0x87)
    | _, _ => s)

end Sys2Proof.Machine
end

