-- ==== Sys2Proof/Machine/Ends.lean ====
section
/-! DEFINITION. How contexts stop, enter handlers and end; the hold watchdog; replay divergence (R121, R239, R245, R274,
R288, R289, R298, R420 to R427, R464). -/

namespace Sys2Proof.Machine

/-! ## Stopping (R288, R289, R420 to R427) -/

/-- The miss handler runs for a command of the context somewhere in its caravan, or a miss is being resolved. -/
def State.missing (s : State) (d l c : Nat) : Bool :=
  (s.car d l).tiles.any fun t => ((s.tile d t).miss.map fun (m : Miss) => m.ctx == c).getD false
/-- Issue has stopped and every issued bundle has executed or has been withheld (R425 step 2). -/
def State.quiet (s : State) (d l c : Nat) : Bool :=
  let x := s.lead d l c
  (s.ctx d l c).st == .ready && x.halted && x.sigs.isEmpty && s.drained d l c
/-- The cause under which a quiet context goes on: the primary record's, or that of the lead. -/
def State.stopCause (s : State) (d l c : Nat) : Option TrapInfo :=
  (primary (s.stopRecs d l c)).map fun p => p.2.info
/-- The handler takes it: every record of the stop is delegated, and no pre-emption is under way (R289, R424). -/
def State.toHandler (s : State) (d l c : Nat) (i : TrapInfo) : Bool :=
  s.delegated d l c i && (s.lead d l c).stop.isNone && (s.trappers d l c).all fun e => s.delegated d l c e.2.info
/-- Stop the context, once its window is applied, its commands have finished and its packets are acknowledged. -/
def State.stopIfDone (s : State) (d l c : Nat) : State :=
  let s := s.flushWindows d l c
  if s.unfinished d l c || s.missing d l c || s.windowsLeft d l c then s else s.enterStopped d l c

/-- A signal of a tile that has arrived stops the lead at once: the tile's cause withholds its bundle (R420). -/
def State.hardSignal (s : State) (d l c : Nat) : Bool :=
  (s.lead d l c).sigs.any fun e =>
    e.1 ≤ s.now && let x := s.ctx d e.2 c; x.t.cur.isNone || x.t.stuck || x.t.cur.any fun r => r.info.withholds
/-- TRAP_SIGNAL_ARRIVAL (R420 step 2): from now on the lead issues no bundle of the context, or, for a cause of kind C
or I, from the first position outside a delay window on (R288, R419); one whose trap is not delegated stops. A
deviation of an engine aborts the domain (R282). -/
def execTrapSignalArrival (die lead ctx : Nat) (s : State) : Host.Outcome State Fault Refusal :=
  let l := s.lead die lead ctx
  let s := if (l.sigs.any fun e => e.1 ≤ s.now) && (l.halted || s.hardSignal die lead ctx || !l.inWindow) then
      s.modLead die lead ctx fun x => { x with halted := true, sigs := x.sigs.filter fun e => s.now < e.1 }
    else s
  let dev := (s.car die lead).timed && (s.trappers die lead ctx).any fun e => isDeviation e.2.info.cause
  let s := if dev then s.abortDomain die else s
  .next (
    if !s.quiet die lead ctx || (s.trappers die lead ctx).isEmpty then s
    else match s.stopCause die lead ctx with
      | some i => if s.toHandler die lead ctx i then s else s.stopIfDone die lead ctx
      | none => s)
/-- HANDLER_ENTRY (R425): a cause of kind C waits for the commands that have started (R288). -/
def execHandlerEntry (die lead ctx : Nat) (s : State) : Host.Outcome State Fault Refusal :=
  .next (
    if !s.quiet die lead ctx then s
    else match s.stopCause die lead ctx with
      | some i =>
        if !s.toHandler die lead ctx i
            || ((s.stopRecs die lead ctx).any (fun e => e.2.info.kind == 2) && s.unfinished die lead ctx) then s
        else s.enterHandler die lead ctx
      | none => s)
/-- PREEMPTION_STOP (R288): the lead stops outside a delay window; then the context stops. -/
def execPreemptionStop (die lead ctx : Nat) (s : State) : Host.Outcome State Fault Refusal :=
  let x := s.lead die lead ctx
  .next (match x.stop with
    | none => s
    | some i =>
      if (s.ctx die lead ctx).st != .ready then s
      else if !x.halted then
        if x.inWindow then s else s.modLead die lead ctx fun x => { x with halted := true }
      else if !s.quiet die lead ctx || !(s.trappers die lead ctx).isEmpty || s.toHandler die lead ctx i.info then s
      else s.stopIfDone die lead ctx)

/-! ## Ending a context, a caravan, a waybill (R121, R245, R274) -/

/-- The domain of a die ends when every die of it is done (R274): its dies return to R246. An aborted domain waits here until
every context that stopped has ended, as R282 puts the return after the stops and R274 at the abort: DEDUCED (log 97). -/
def State.domainEnd (s : State) (d : Nat) : State :=
  let l := s.domainOf d
  if l.all fun e => match (s.die e).tt with
      | some t => 5 ≤ t.phase
      | none => true
  then l.foldl (fun s e => s.modDie e fun x => { x with tt := none, freeze := none, ttcOf := [] }) s else s
/-- A waybill whose last caravan has ended: the counter advances, unless its domain was aborted; its haul list and its
timetable end, and its queue counts it no longer (R245). -/
def State.completeWb (s : State) (d no : Nat) : State :=
  let w := (s.die d).wbs.get no
  if w.placed ≠ wNcar w.img || w.ended ≠ w.placed then s
  else
    let i := wbf w.img 0x38 37 32
    let s := s.modDie d fun x =>
      { x with
        ccnt := if wbf w.img 0x38 63 63 = 1 && !w.aborted then x.ccnt.set i (x.ccnt.get i + 1) else x.ccnt
        wbs := x.wbs.erase no
        queues := x.queues.map fun e => (e.1, e.2.filter fun (q : QEnt) => q.no != no)
        hauls := x.hauls.filter fun h => h.wb != no
        res := x.res.bind fun r => if r.1 = no then none else some r }
    match (s.die d).tt with
    | some t =>
      if t.entNo ≠ no then s
      else (s.modDie d fun x => { x with tt := some { t with phase := if t.phase = 4 then 6 else 5 } }).domainEnd d
    | none => s
/-- The closes of a tile's streams outlive the contexts that made them (R338). -/
def State.keepCloses (s : State) (d t : Nat) : State :=
  let l := (upFrom 0 4).flatMap fun c => (s.ctx d t c).streams.map fun e => (16 * c + e.1, e.2.closes)
  s.modTile d t fun x =>
    let all := l.foldl (fun (m : FMap (List Nat)) e => m.set e.1 e.2) x.closes
    { x with closes := (all.map fun e => (e.1, recentCloses s.now e.2)).filter fun e => !e.2.isEmpty }
/-- What an ended context leaves at its tile until another is placed there: its registers, staging sets, MRS and trap registers
(R483). -/
def Ctx.remains (x : Ctx) : Ctx :=
  { x with
    st := .ended, t := { x.t with cur := none, stuck := false }, streams := [], gran := [], banks := 0, parks := 0, lease := 0
    inbox := [], latch := [], stopIn := [], stopOut := false, rld := [], early := [], hold := [], evict := false
    lead := default }
/-- A caravan whose last context has ended: its tiles are free. -/
def State.endCaravan (s : State) (d k : Nat) : State :=
  let car := (s.die d).cars.get k
  let s := car.tiles.foldl (fun s t =>
    let s := (upFrom 0 car.nctx).foldl (fun s c => s.modCtx d t c Ctx.remains) (s.keepCloses d t)
    s.modTile d t fun x => { x with occ := none, miss := none, vbusy := [], window := [] }) s
  let s := s.modDie d fun x =>
    { x with cars := x.cars.erase k, wbs := x.wbs.modify car.wb fun w => { w with ended := w.ended + 1 } }
  s.completeWb d car.wb
/-- A context ends at every tile of its caravan. -/
def State.finishCtx (s : State) (d l c : Nat) : State :=
  let k := (s.tile d l).occ.getD 0
  let s := (s.car d l).tiles.foldl (fun s t =>
    ((s.landRegs d t c true).releaseAll d t c).modCtx d t c fun x => { x with st := .ended, hold := [] }) s
  let s := s.preqLess d l c 0
  let s := s.modDie d fun x => { x with cars := x.cars.modify k fun y => { y with done := y.done ++ [c] } }
  if (s.car d l).done.length = (s.car d l).nctx then s.endCaravan d k else s
/-- Commands that a context has entered and that have not finished, at any tile. -/
def State.cmdsLeft (s : State) (d l c : Nat) : Bool :=
  (s.car d l).tiles.any fun t => !(s.ctx d t c).e.queue.isEmpty || (s.tile d t).runs.any fun r => r.ctx == c
/-- The EXIT bundle that an ending context has issued. -/
def State.exitBundle (s : State) (d l c : Nat) : Option Issued :=
  (s.lead d l c).hist.reverse.find? fun h => h.slots.any fun e => e.2 == .exit
/-- A packet of a context is being refused at some tile of its caravan. -/
def State.carRefused (s : State) (d l c : Nat) : Bool :=
  (s.car d l).tiles.any fun t => s.beingRefused d t c
/-- A trap at the EXIT bundle, at a tile. -/
def State.exitTrap (s : State) (d l t c : Nat) (i : TrapInfo) : State :=
  match s.exitBundle d l c with
  | some b => ((s.modCtx d t c fun x => { x with nextNo := b.no }).aim d t c b).takeTrap i
  | none => s.raiseAt d t c i
/-- EXIT waits: hold kind 5, or 12 where a packet is being refused (R298, R330); in timetabled mode that is deviation:
wait (R281). A context that was ended while it was stopped (R437) holds no bundle. -/
def State.exitWaits (s : State) (d l c : Nat) : State :=
  let k := if s.carRefused d l c then 12 else 5
  if (s.lead d l c).halted then s
  else if s.timedTile d l then (s.exitTrap d l l c { cause := 0x81, kind := 0, eng := 3, status := k }).abortDomain d
  else (s.holdAt d l c k).unhold d l c (if k = 12 then 5 else 12)
/-- A packet of a context has not been acknowledged. -/
def State.packetsLeft (s : State) (d l c : Nat) : Bool :=
  (s.car d l).tiles.any fun t => (s.tile d t).retx.any fun p => p.src.ctx == c
/-- EXIT_COMPLETE (R121): commands, window, closes, acknowledgements; then the context ends. -/
def execExitComplete (die lead ctx : Nat) (s : State) : Host.Outcome State Fault Refusal :=
  let ph := (s.lead die lead ctx).exitPh
  let set (n : Nat) (s : State) : State := s.modLead die lead ctx fun x => { x with exitPh := n }
  .next (
    if (s.ctx die lead ctx).st != .ready || ph = 0 || (s.lead die lead ctx).re.isSome || !s.drained die lead ctx
        || !(s.trappers die lead ctx).isEmpty then s
    else if ph = 1 then
      if s.cmdsLeft die lead ctx then s.exitWaits die lead ctx
      else
        let bad := (s.car die lead).tiles.filter fun t =>
          let e := (s.ctx die t ctx).e
          !e.sqA.isEmpty || !e.sqB.isEmpty
        if bad.isEmpty then set 2 s else bad.foldl (fun s t =>
          s.exitTrap die lead t ctx { cause := 0x66, kind := 0, eng := 3 }) s
    else if ph = 2 then
      if s.windowsLeft die lead ctx then s.exitWaits die lead ctx
      else
        let (s, closed) := (s.car die lead).tiles.foldl (fun (a : State × Bool) t =>
          let r := a.1.closeAll die t ctx
          (r.1, a.2 && r.2)) (s, true)
        if !closed then s.exitWaits die lead ctx
        else
          let s := set 3 s
          if s.timedTile die lead && s.packetsLeft die lead ctx then s.exitWaits die lead ctx else s
    else if s.packetsLeft die lead ctx then s.exitWaits die lead ctx
    else s.finishCtx die lead ctx)

/-! ## The hold watchdog (R298) -/

/-- Failing engine of an expired hold, by its kind (R430). -/
def holdEng (k : Nat) : Nat :=
  match k with
  | 0 => 2 | 1 => 0 | 6 => 0 | 7 => 8 | 8 => 5 | 9 => 11 | 10 => 10 | 11 => 6 | 12 => 9 | _ => 3
/-- The bundle that a context holds at a tile: the head of its latch, else the next one. -/
def State.heldBundle (s : State) (d t c : Nat) : Issued :=
  let x := s.ctx d t c
  let l := s.leadTileOf d t
  let own := s.nextIssued d l c 0 [] [] []
  match x.latch with
  | (no, _) :: _ => (s.bundleNo d t c no).getD own
  | [] => if t = l && x.lead.exitPh ≠ 0 then (s.exitBundle d l c).getD own
    else if t = l then
      (match x.lead.re with
        | some n => (s.bundleNo d t c n).getD own
        | none => own)
    else (s.bundleNo d t c x.nextNo).getD own
/-- A hold kind of a bundle is still met. -/
def State.stillHeld (s : State) (d t c k : Nat) : Bool :=
  let x := s.ctx d t c
  if 8 ≤ k && k ≠ 12 then true  -- a hold of an engine
  else if t = s.leadTileOf d t && x.lead.exitPh ≠ 0 then k == 5 || k == 12
  else if t = s.leadTileOf d t then
    match (s.tryIssue d t c).2 with
    | .block j => j % 16 == k
    | .stall => k == 7
    | _ => false
  else match x.latch with
    | (no, _) :: _ => match s.bundleNo d t c no with
      | some b =>
        if s.mustWait d t c b then (k == 6 && !x.stopIn.isEmpty) || (k == 5 && !x.rld.isEmpty)
        else match (s.execAt d t c b).2 with
          | .held ks => ks.any fun j => j % 16 == k
          | _ => false
      | none => false
    | [] => false
/-- HOLD_WATCHDOG_EXPIRY (R298): a hold of 2^20 cycles traps the held bundle; a freeze of that length aborts the
domain. -/
def execHoldWatchdogExpiry (die tile ctx : Nat) (s : State) : Host.Outcome State Fault Refusal :=
  let x := s.ctx die tile ctx
  let old (since : Nat) : Bool := since + Config.watchdog ≤ s.now
  let info (k : Nat) : TrapInfo := { cause := 0xA1, kind := 0, eng := holdEng k, status := k }
  let frozen := ((s.die die).freeze.map fun (f : Nat × Nat) => old f.2).getD false
  let miss := ((s.tile die tile).miss.map fun (m : Miss) => m.ctx == ctx && old m.since).getD false
  .next (
    if frozen then
      if (s.freezer die).getD (tile, ctx) ≠ (tile, ctx) then s
      else (s.raiseAt die tile ctx (info (((s.die die).freeze.map (·.1)).getD 10))).abortDomain die
    else if x.st != .ready || x.t.cur.isSome then s
    else if miss then
      ((s.modTile die tile fun y => { y with miss := none }).aim die tile ctx (s.heldBundle die tile ctx)).trapHere (info 9)
    else match x.holds.head?, (x.hold.find? heldKey).map old with
      | some k, some true =>
        if s.stillHeld die tile ctx k then
          let b := s.heldBundle die tile ctx
          let s := if (s.lead die tile ctx).exitPh = 0 then s
            else s.modCtx die tile ctx fun y => { y with nextNo := b.no }
          ((s.unhold die tile ctx k).aim die tile ctx b).trapHere (info (if k = engKey then 1 else k))
        else s.unhold die tile ctx k
      | _, _ => s)

/-! ## Replay divergence (R464) -/

/-- The caravan on a tile is replayed, or there is none and no waybill is queued that could bring one: a context that an entry
names there has ended, DEDUCED (log 110). -/
def State.replayAt (s : State) (d t : Nat) : Bool :=
  if (s.tile d t).occ.isSome then (s.car d t).mode == 2 else (s.die d).queues.all fun e => e.2.isEmpty
/-- No context of that number is on a tile: it has ended. -/
def State.endedAt (s : State) (d t c : Nat) : Bool := (s.tile d t).occ.isNone || (s.ctx d t c).st == .ended
/-- The next entry of the source names what cannot occur: a switch from or to a context that has ended, or one at another
bundle, or a lease or a marker of a context that has ended. -/
def State.entryEnded (s : State) (d e : Nat) : Bool :=
  let w := s.rentry d e 0
  let l := fld w 57 49
  let ty := fld w 63 60
  let c := fld w 59 58
  let gone (c : Nat) : Bool := s.endedAt d l c || !s.leadsAt d l
  fld w 48 48 == 0 && s.replayAt d l
    && ((ty == 0 && (gone (fld (s.rentry d e 2) 63 62) || (s.tile d l).cur ≠ c
        || (s.lead d l c).no > (s.rentry d e 3).toNat + 1))
      || ((ty == 1 || ty == 6) && s.endedAt d l c))
/-- A context at a tile merges no further pair before what its window holds has been applied: its XFLUSH runs, or its FENCE or
its EXIT waits with no scatter command left (R343, R351). -/
def State.pairsIn (s : State) (d t c : Nat) : Bool :=
  let x := s.ctx d t c
  let mine := (s.tile d t).runs.filter fun r => r.ctx == c && r.cmd.eng == 3
  !(mine.any Run.pairsLeft) && (mine.any (fun r => r.cmd.instr == .xflush)
    || ((x.evict || (s.lead d (s.car d t).leadTile c).exitPh == 2) && mine.isEmpty && !(x.e.queue.any fun m => m.eng == 3)))
/-- A recorded window entry that no pair names, or not as many: its context has ended, or merges no further pair and has not
that entry with that count. -/
def State.entryNamed (s : State) (d e : Nat) : Bool :=
  let w := s.rentry d e 0
  let t := fld w 57 49
  let c := fld w 59 58
  !(s.replayAt d t && (s.endedAt d t c || (s.pairsIn d t c && !(s.tile d t).window.any fun x =>
    x.ctx == c && x.index == (s.rentry d e 2).toNat && x.pairs == fld (s.rentry d e 3) 15 0)))
/-- A recorded commit whose packet has not come for 2^20 cycles, or a window entry that no pair names (R464). -/
def State.entryLate (s : State) (d e : Nat) : Bool :=
  let w := s.rentry d e 0
  let ty := fld w 63 60
  (ty == 3 && (s.die d).rsince + Config.watchdog ≤ s.now)
    || (ty == 4 && !s.entryNamed d e)
/-- REPLAY_DIVERGENCE (R464): RPTR has passed over the entries that impose nothing. -/
def execReplayDivergence (die : Nat) (s : State) : Host.Outcome State Fault Refusal :=
  .next (
    if (s.replayed die).isEmpty || (s.ctl die 0x428).toNat ≤ (s.ctl die 0x430).toNat || bit (s.ctl die 0x418) 61 then s
    else
    let s := s.rnext die
    let r := (s.ctl die 0x430).toNat
    if (s.ctl die 0x428).toNat ≤ r then s
    else if s.entryEnded die r || s.entryLate die r then s.diverge die else s)

end Sys2Proof.Machine
end

