-- ==== Sys2Proof/Machine/Placing.lean ====
section
/-! DEFINITION. The dispatcher: validating waybills, placing caravans, arming timetables; scrubs; and the start of haul
lists (R241 to R249, R271 to R274, R291, R293, R296, R392, R399). -/

namespace Sys2Proof.Machine

/-! ## Validation (R241, R242, R244, R247, R248) -/

/-- Fields of a waybill that must be zero (R241). -/
def wbReserved (i : List Byte) : Bool :=
  wbf i 0x08 63 57 != 0 || wbf i 0x10 63 57 != 0
    || (upFrom 0 4).any (fun d => wbf i (0x18 + 8 * d) 62 38 != 0)
    || wbf i 0x38 62 38 != 0 || wbf i 0x38 31 0 != 0 || wbf i 0x40 63 42 != 0 || wbf i 0x48 63 16 != 0
    || wbf i 0x58 63 9 != 0 || wbf i 0x60 63 57 != 0
    || (upFrom 0 4).any (fun n => wbf i (0x70 + 16 * n) 63 23 != 0)
    || (upFrom 0 11).any (fun k => wbf i (0xA8 + 8 * k) 63 0 != 0)
    || (wVer i == 1 && (wbf i 0 6 0 != 0 || wbf i 0x48 63 0 != 0 || wbf i 0x50 63 0 != 0))
/-- R242 is broken: too many granules, a mask of a context that does not exist, tags owned twice. -/
def wbPool (i : List Byte) : Bool :=
  let n := wNctx i
  let l := upFrom 0 n
  16 < (l.map fun c => popCount (wVgm i c) 16).sum
    || (upFrom n (4 - n)).any (fun c => wVgm i c != 0 || wTagm i c != 0)
    || l.any fun a => l.any fun b => a < b && wTagm i a &&& wTagm i b != 0
/-- A value does not fit a field of a width. -/
def tooWide (v w : Nat) : Bool := 2 ^ w ≤ v
/-- The checks of the work identifier (R248). -/
def wbWid (i : List Byte) : Bool :=
  let ncar1 := wNcar i - 1
  64 < ((upFrom 0 6).map (wWid i)).sum || wWid i 0 < wLw i || wWid i 1 < wLh i || tooWide (wNctx i - 1) (wWid i 2)
    || wE3 i == 0 || tooWide (wE3 i - 1) (wWid i 3) || tooWide (ncar1 / wE3 i) (wWid i 4) || tooWide (wK5 i) (wWid i 5)
/-- Aligned positions of a caravan's shape, in row-major order (R246). -/
def shapePositions (h w : Nat) : List (Nat × Nat) :=
  (upFrom 0 (16 / h)).flatMap fun r => (upFrom 0 (32 / w)).map fun c => (h * r, w * c)
/-- The fixed position of caravan n of a timetabled waybill (R247). -/
def fixedPos (i : List Byte) (n : Nat) : Option (Nat × Nat) :=
  let (r, c) := wPos i
  ((shapePositions (2 ^ wLh i) (2 ^ wLw i)).filter fun p => r * 32 + c ≤ p.1 * 32 + p.2)[n]?
/-- The waybill is invalid on a die (R244, R247, R408, R463). -/
def State.wbInvalid (s : State) (d : Nat) (i : List Byte) : Bool :=
  !(wVer i == 1 || wVer i == 2) || wLdie i != d || wbReserved i || wMode i == 3 || 4 < wLh i || 5 < wLw i
    || (wVer i == 2 && 64 < wbf i 0 6 0) || (upFrom 0 4).any (fun n => 64 < wBbud i n) || wEntry i % 16 != 0
    || wbPool i || wbWid i
    || (wMode i != 1 && (wPos i != (0, 0) || wTtab i != 0))
    || (wMode i == 1 && ((fixedPos i (wNcar i - 1)).isNone || !s.coll.slow.isEmpty))
    || (wMode i == 2 && !bit (s.ctl d 0x420) 63)
    || !s.asidEn d (wAsid i)

/-! ## Timetables at arming (R271, R399) -/

/-- Fields of a timetable header that are not as they must be. -/
def ttBad (b : List Byte) (d : Nat) : Bool :=
  nbits (q8 b 0) 63 48 != 1 || nbits (q8 b 0) 47 40 != 0 || nbits (q8 b 0) 38 36 != 0 || nbits (q8 b 8) 63 40 != 0
    || nbits (q8 b 0x10) 63 57 != 0 || q8 b 0x10 % 8 != 0 || nbits (q8 b 0x18) 63 32 != 0 || q8 b 0x18 % 8 != 0
    || nbits (q8 b 0x20) 63 57 != 0 || nbits (q8 b 0x28) 63 57 != 0 || q8 b 0x30 != 0 || q8 b 0x38 != 0
    || !(nbits (q8 b 0) 35 32).testBit d
/-- Source port of a crossbar entry. -/
def xbSrc (e : Nat) : Nat := nbits e 23 18
/-- Destination port. -/
def xbDst (e : Nat) : Nat := nbits e 17 12
/-- BEATS. -/
def xbBeats (e : Nat) : Nat := nbits e 11 4
/-- The entries of a crossbar schedule, up to END; none where one cannot be read. -/
def State.xbarList (s : State) (d asid base : Nat) : Nat → Nat → Option (List Nat)
  | _, 0 => none
  | n, k + 1 =>
    match s.listEntry d asid base n with
    | none => none
    | some e => if leLast e then some [e] else (s.xbarList d asid base (n + 1) k).map fun l => e :: l
/-- Two entries use a port in one direction in one cycle. -/
def xbClash : List Nat → Bool
  | [] => false
  | e :: r =>
    (r.any fun f => (xbSrc e == xbSrc f || xbDst e == xbDst f)
      && leCyc e < leCyc f + xbBeats f && leCyc f < leCyc e + xbBeats e) || xbClash r
/-- A Kendom port that the schedule names lacks the level that it needs: 2 in a pod-timed domain, and for an entry between it and
the reduction units at port 40, which carries partials or results (R398, R404). -/
def State.xbLevel (s : State) (two : Bool) (p : Nat) : Bool :=
  p < 36 && s.portRole p == 1 && s.portLevel p < (if two then 2 else 1)
/-- A pod-timed domain needs level 2 on the Kendom links over which the pod exchanges TTC (R280, R398). -/
def State.podLevel (s : State) : Bool :=
  (upFrom 0 36).any fun p => s.portUsable p && s.portRole p == 1 && s.portLevel p < 2
/-- The crossbar schedule is invalid (R399). -/
def State.xbarBad (s : State) (pod : Bool) (l : List Nat) : Bool :=
  xbClash l || l.any fun e => 40 < xbSrc e || 40 < xbDst e || xbBeats e == 0 || nbits e 3 1 != 0
    || s.xbLevel (pod || xbSrc e == 40 || xbDst e == 40) (xbSrc e)
    || s.xbLevel (pod || xbSrc e == 40 || xbDst e == 40) (xbDst e)
/-- The timetable header of a waybill. -/
def State.ttHead (s : State) (d : Nat) (i : List Byte) : Option (List Byte) := s.virtBytes d (wAsid i) (wTtab i) 64
/-- KEY. -/
def ttKey (b : List Byte) : Nat := nbits (q8 b 0) 31 0
/-- The timetable of a waybill, by its header; none where it is invalid. -/
def State.ttRead (s : State) (d q no : Nat) (i b : List Byte) : Option Timetable :=
  let dom := nbits (q8 b 0) 35 32
  let pod := (q8 b 0).testBit 39
  let xbar := nbits (q8 b 0x28) 56 0
  let lowest := ((upFrom 0 4).find? fun e => dom.testBit e) == some d
  let bad := ttBad b d || (pod && s.podLevel)
    || (lowest && xbar != 0 && match s.xbarList d (wAsid i) xbar 0 listMax with
      | some l => s.xbarBad pod l
      | none => true)
  if bad then none
  else some { (default : Timetable) with
    queue := q, entNo := no, key := ttKey b, domain := dom, pod := pod, len := nbits (q8 b 8) 39 0
    issue := nbits (q8 b 0x10) 56 0, istr := nbits (q8 b 0x18) 31 0, rsd := nbits (q8 b 0x20) 56 0, xbar := xbar }

/-- Remove an invalid waybill (R244): its queue's error status, the event. -/
def State.wbReject (s : State) (d q no : Nat) : State :=
  (s.modDie d fun x =>
    { x with
      queues := x.queues.modify q fun l => l.filter fun e => e.no != no
      wbs := x.wbs.erase no
      qwin := x.qwin.modify q fun w => { w with err := true, errent := no }
      res := x.res.bind fun r => if r.1 = no then none else some r }).event d

/-! ## Haul lists at their start (R291, R293, R296) -/

/-- A haul list fails: HAULST and the event (R296). -/
def State.haulFail (s : State) (d wb idx : Nat) : State :=
  ((s.modDie d fun x => x.modHaul wb fun h => { h with failed := true, busy := none }).setCtl d 0x48
    (BitVec.ofNat 64 (2 ^ 63 + wb % 2 ^ 32 * 2 ^ 24 + idx % 2 ^ 24))).event (4 + d)
/-- The header of a haul list is malformed (R291). -/
def haulBad (b : List Byte) : Bool :=
  let w0 := q8 b 0
  let lg := nbits w0 33 29
  nbits w0 63 48 != 1 || nbits w0 37 34 == 0 || lg < 16 || 30 < lg || nbits w0 28 0 != 0
    || nbits (q8 b 8) 63 57 != 0 || q8 b 8 % 2 ^ lg != 0 || nbits (q8 b 0x10) 63 57 != 0 || q8 b 0x10 % 32 != 0
    || nbits (q8 b 0x18) 63 24 != 0 || q8 b 0x18 == 0 || q8 b 0x20 != 0 || q8 b 0x28 != 0 || q8 b 0x30 != 0
    || q8 b 0x38 != 0
/-- Read the header of a waybill's haul list (R293). -/
def State.haulStart (s : State) (d no : Nat) (i : List Byte) : State :=
  let put (h : Haul) : State := s.modDie d fun x => { x with hauls := x.hauls ++ [h] }
  let base : Haul := { (default : Haul) with wb := no, asid := wAsid i }
  match s.virtBytes d (wAsid i) (wHaul i) 64 with
  | none => (put base).haulFail d no 0
  | some b =>
    let w0 := q8 b 0
    let n := nbits w0 37 34 + 1
    let h := { base with
      rtgt := nbits w0 47 38 + 1, nslot := n, slotLg := nbits w0 33 29, depot := nbits (q8 b 8) 56 0
      ent := nbits (q8 b 0x10) 56 0, nent := nbits (q8 b 0x18) 23 0
      slots := (upFrom 0 n).map fun k => (k, default) }
    if haulBad b then (put h).haulFail d no 0 else put h

/-! ## Scrubs and the start of contexts (R249, R392) -/

/-- Scrub a tile (R392): the memories are zero from now on, and the clear engine is done at a cycle. -/
def State.scrub (s : State) (d t : Nat) : State :=
  let s := { s.cleanUnits (fun u =>
      (padKey d t 0 ≤ 64 * u && 64 * u < padKey d t padSize) || (accKey d t 0 ≤ 64 * u && 64 * u < accKey d t 131072)
        || (poolKey d t 0 ≤ 64 * u && 64 * u < poolKey d t 128)) with
    mem := (s.mem.zero (padKey d t 0) padSize).zero (accKey d t 0) 131072 }
  s.modTile d t fun x =>
    { x with
      pool := [], bufs := [], sems := [], semQ := [], tags := 0, out := [], bars := [], fifo := [], fifoIn := []
      scrubAt := s.now + 672 }
/-- A tile must be scrubbed before an ASID uses it. -/
def State.needsScrub (s : State) (d t asid : Nat) : Bool := (s.tile d t).lasid != some asid
/-- SCRUB_COMPLETE (R392): the tile belongs to the ASID that its scrub was for. -/
def execScrubComplete (die tile : Nat) (s : State) : Host.Outcome State Fault Refusal :=
  let x := s.tile die tile
  let asid : Option Nat := match x.occ with
    | some k => some ((s.die die).cars.get k).asid
    | none => (s.die die).tt.map fun t => wAsid ((s.die die).wbs.get t.entNo).img
  .next (if x.scrubAt = 0 || s.now < x.scrubAt then s
    else s.modTile die tile fun y => { y with scrubAt := 0, lasid := asid.orElse fun _ => y.lasid })

/-- The work identifier (R248). -/
def workId (i : List Byte) (car row col c : Nat) : Nat :=
  let v : List Nat := [col, row, c, car % wE3 i, car / wE3 i, wK5 i]
  ((v.zip (upFrom 0 6)).foldl (fun (a : Nat × Nat) e =>
    let w := wWid i e.2
    (a.1 + e.1 % 2 ^ w * 2 ^ a.2, a.2 + w)) (0, 0)).1
/-- A tile as a caravan is placed on it: what stays is the scratchpad, the pool, and the tile's own counts. -/
def Tile.place (x : Tile) (k now : Nat) : Tile :=
  { (default : Tile) with
    occ := some k, pool := x.pool, tseq := x.tseq, lasid := x.lasid, scrubAt := x.scrubAt, lag := x.lag, curAt := now, closes := x.closes }
/-- Start one context of a waybill at a tile: its granules, zero (R249). -/
def State.startCtx (s : State) (d t c : Nat) (i : List Byte) (car : Car) : State :=
  let x : Ctx := default
  let s := s.setCtx d t c { x with
    st := .clearing
    tagm := BitVec.ofNat 64 (wTagm i c)
    bbud := wBbud i c
    wid := BitVec.ofNat 64 (workId i car.idx (car.crow t) (car.ccol t) c)
    streams := ((s.tile d t).closes.filter fun e => e.1 / 16 == c).map fun e =>
      (e.1 % 16, { (default : Stream) with closes := e.2 })
    lead := { x.lead with prio := car.prio } }
  let s := s.giveGran d t c (granBits (wVgm i c))
  let regs := (s.ctx d t c).gran.flatMap fun e => (upFrom 0 8).map fun n => 8 * e.2 + n
  let s := s.cleanUnits fun u => (opKey d t c 0 ≤ 64 * u && 64 * u < opKey d t c 8)
    || regs.any fun n => poolKey d t n ≤ 64 * u && 64 * u < poolKey d t n + 1024
  s.modTile d t fun y => { y with pool := y.pool.filter fun e => !regs.contains e.1 }
/-- Physical granules that a waybill's contexts take at a tile. -/
def wGranules (i : List Byte) : Nat := ((upFrom 0 (wNctx i)).map fun c => popCount (wVgm i c) 16).sum
/-- Place the next caravan of a waybill at a position (R249). -/
def State.placeCar (s : State) (d no : Nat) (pos : Nat × Nat) : State :=
  let w := (s.die d).wbs.get no
  let i := w.img
  let k := (s.die d).carNo
  let car : Car :=
    { wb := no, idx := w.placed, row := pos.1, col := pos.2, h := 2 ^ wLh i, w := 2 ^ wLw i, nctx := wNctx i,
      asid := wAsid i, mode := wMode i, fo := wFo i, prio := wPrio i, lease := wLease i, readyAt := 0, done := [] }
  let dirty := car.tiles.any fun t => s.needsScrub d t car.asid
  let ready := s.now + (if dirty then 672 else 0) + 4 + 16 * wGranules i
  let s := s.modDie d fun x =>
    { x with
      cars := x.cars.set k { car with readyAt := ready }
      carNo := k + 1
      wbs := x.wbs.set no { w with placed := w.placed + 1 }
      rsince := if wMode i = 2 then s.now else x.rsince }
  let s := car.tiles.foldl (fun s t =>
    let s := (upFrom 0 5).foldl (fun s c => { s with ctxs := s.ctxs.erase (ctxKey d t c) }) s
    let s := (if s.needsScrub d t car.asid then s.scrub d t else s).modTile d t fun x => x.place k s.now
    let s := s.modTile d t fun x => { x with clearAt := s.clock d t + (ready - s.now) }
    (upFrom 0 car.nctx).foldl (fun s c => s.startCtx d t c i car) s) s
  if w.placed = 0 && wHaul i != 0 then s.haulStart d no i else s
/-- CONTEXT_READY (R249): from the ready cycle on the contexts may issue, context 0 first (the fetch of an entry
segment begins when the lead turns to the context, log 28). -/
def execContextReady (die car : Nat) (s : State) : Host.Outcome State Fault Refusal :=
  let x := (s.die die).cars.get car
  let seg := wEntry ((s.die die).wbs.get x.wb).img
  let l := x.leadTile
  let waits := (upFrom 0 x.nctx).any fun c => (s.ctx die l c).st == .clearing
  .next (
    if !waits || s.now < x.readyAt || (s.die die).freeze.isSome then s
    else
      let s := (upFrom 0 x.nctx).foldl (fun s c =>
        (s.modCar die x c fun y => { y with st := .ready }).modLead die l c fun y =>
          { y with flow := { y.flow with pos := ⟨seg, 0, 0⟩ } }) s
      s.modTile die l fun y => { y with cur := 0, curAt := s.now })

/-! ## The dispatcher (R246) -/

/-- No context occupies a tile. -/
def State.tileFree (s : State) (d t : Nat) : Bool := (s.tile d t).occ.isNone
/-- Tiles of a position. -/
def posTiles (h w : Nat) (p : Nat × Nat) : List Nat :=
  (upFrom 0 h).flatMap fun i => (upFrom 0 w).map fun j => 32 * (p.1 + i) + p.2 + j
/-- Tiles of RES that a waybill may not use. -/
def State.resTiles (s : State) (d no : Nat) : List Nat :=
  match (s.die d).res with
  | some (o, r, c, h, w) => if o = no then [] else posTiles h w (r, c)
  | none => []
/-- FirstFit. -/
def State.firstFit (s : State) (d no : Nat) (i : List Byte) : Option (Nat × Nat) :=
  let out := s.resTiles d no
  (shapePositions (2 ^ wLh i) (2 ^ wLw i)).find? fun p =>
    (posTiles (2 ^ wLh i) (2 ^ wLw i) p).all fun t => s.tileFree d t && !out.contains t
/-- FirstAligned: no tile of a timetabled launch. -/
def State.firstAligned (s : State) (d : Nat) (i : List Byte) : Option (Nat × Nat) :=
  (shapePositions (2 ^ wLh i) (2 ^ wLw i)).find? fun p =>
    (posTiles (2 ^ wLh i) (2 ^ wLw i) p).all fun t => !(s.car d t).timed || s.tileFree d t
/-- The head of a queue: the oldest entry with caravans left to place (R246). An entry is accounted to its queue until its
last caravan has ended (R245). -/
def State.queueHead (s : State) (d q : Nat) : Option QEnt :=
  ((s.die d).queues.get q).find? fun e => match (s.die d).wbs.find? e.no with
    | none => true
    | some w => w.placed < wNcar w.img
/-- A placement is allowed in this cycle. -/
def State.mayPlace (s : State) (d : Nat) : Bool :=
  match (s.die d).lastPlace with
  | some c => c + 4 ≤ s.now
  | none => true
/-- Validate a queue's head as it becomes one (R244). -/
def State.validateHead (s : State) (d q : Nat) : State :=
  match s.queueHead d q with
  | none => s
  | some e =>
    if ((s.die d).wbs.find? e.no).isSome then s
    else if s.wbInvalid d e.img then s.wbReject d q e.no
    else s.modDie d fun x => { x with wbs := x.wbs.set e.no { (default : Wb) with no := e.no, img := e.img } }
/-- Candidates: queue and entry number, by priority and age. -/
def State.cands (s : State) (d : Nat) : List (Nat × Nat) :=
  let l := (upFrom 0 16).filterMap fun q =>
    match s.queueHead d q with
    | none => none
    | some e =>
      match (s.die d).wbs.find? e.no with
      | none => none
      | some w =>
        if w.placed < wNcar w.img && (upFrom 0 4).all (fun k => s.depMet d w.img k) then some (q, e.no, wPrio w.img)
        else none
  (sortBy (fun (e : Nat × Nat × Nat) => e.2.1 + (3 - e.2.2) * 2 ^ 64) l).map fun e => (e.1, e.2.1)
/-- Take the waybill of a die that is arming or armed away as invalid. -/
def State.disarm (s : State) (d : Nat) : State :=
  match (s.die d).tt with
  | none => s
  | some t => (s.modDie d fun x => { x with tt := none }).wbReject d t.queue t.entNo
/-- Dies that arm, or are armed, with a key. -/
def State.armersOf (s : State) (key : Nat) : List Nat :=
  (upFrom 0 4).filter fun d => ((s.die d).tt.map fun (t : Timetable) => t.phase ≤ 1 && t.key == key).getD false
/-- Begin to arm (R274): the timetable is read. An invalid one makes the domain's waybills invalid: its own, and those
that arm or are armed with its KEY, and those of the domain's other dies when they come to arm (R271, R274, R399, log 97). -/
def State.arm (s : State) (d q no : Nat) : State :=
  let i := ((s.die d).wbs.get no).img
  match s.ttHead d i with
  | none => s.wbReject d q no
  | some b =>
    let k := ttKey b
    let keys (s : State) (f : Nat × Nat → Bool) (new : List (Nat × Nat)) : State :=
      { s with coll := { s.coll with badKeys := s.coll.badKeys.filter f ++ new } }
    if s.coll.badKeys.contains (k, d) then keys (s.wbReject d q no) (· != (k, d)) []
    else match s.ttRead d q no i b with
    | none =>
      let l := s.armersOf k
      let rest := (upFrom 0 4).filter fun e => (nbits (q8 b 0) 35 32).testBit e && e != d && !l.contains e && (s.die e).enabled
      keys (l.foldl (fun s e => s.disarm e) (s.wbReject d q no)) (·.1 != k) (rest.map fun e => (k, e))
    | some t => keys (s.modDie d fun x => { x with tt := some t }) (·.1 != k) []
/-- One candidate of R246. -/
def State.consider (s : State) (d : Nat) (first : Bool) (q no : Nat) : State :=
  let i := ((s.die d).wbs.get no).img
  if (s.die d).tt.isSome then s
  else if wMode i = 1 then (if first then s.arm d q no else s)
  else match s.firstFit d no i with
    | some p =>
      if !s.mayPlace d then s
      else
        (s.placeCar d no p).modDie d fun x =>
          { x with
            lastPlace := some s.now
            res := x.res.bind fun r => if r.1 = no then none else some r }
    | none =>
      if (s.die d).res.isSome then s
      else match s.firstAligned d i with
        | some p => s.modDie d fun x => { x with res := some (no, p.1, p.2, 2 ^ wLh i, 2 ^ wLw i) }
        | none => s
/-- Tiles of the fixed positions of a timetabled waybill. -/
def fixedTiles (i : List Byte) : List Nat :=
  (upFrom 0 (wNcar i)).flatMap fun n => ((fixedPos i n).map (posTiles (2 ^ wLh i) (2 ^ wLw i))).getD []
/-- An arming die (R274 step 1, R392): once no context of another waybill occupies it, every tile of its fixed positions is
scrubbed,
and then it is armed. -/
def State.arming (s : State) (d : Nat) : State :=
  match (s.die d).tt with
  | none => s
  | some t =>
    if t.phase ≠ 0 || !(s.die d).cars.isEmpty then s
    else
      let i := ((s.die d).wbs.get t.entNo).img
      let tiles := fixedTiles i
      if t.scrubAt = 0 then
        (tiles.foldl (fun s x => s.scrub d x) s).modDie d fun x =>
          { x with tt := some { t with scrubAt := s.now + 672 } }
      else if tiles.any fun x => (s.tile d x).scrubAt != 0 then s
      else s.modDie d fun x => { x with tt := some { t with phase := 1 } }
/-- DISPATCH_CYCLE (R246). -/
def execDispatchCycle (die : Nat) (s : State) : Host.Outcome State Fault Refusal :=
  let s := (upFrom 0 16).foldl (fun s q => s.validateHead die q) s
  let l := s.cands die
  .next (((l.zip (upFrom 0 l.length)).foldl (fun s e => s.consider die (e.2 == 0) e.1.1 e.1.2) s).arming die)

/-! ## Starting a domain (R274) -/

/-- Dies that are armed with a key. -/
def State.armedWith (s : State) (key : Nat) : List Nat :=
  (upFrom 0 4).filter fun d => ((s.die d).tt.map fun (t : Timetable) => t.phase == 1 && t.key == key).getD false
/-- Every other package of the pod has armed with a key (R280). -/
def State.podReady (s : State) (key : Nat) : Bool := s.coll.pod.all fun e => e.2.key == some key
/-- The latest TTC known of a domain: of its dies and, of a pod-timed one, of the other packages. -/
def State.latestTtc (s : State) (die : Nat) (pod : Bool) : Nat :=
  (((s.domainOf die).map fun d => s.ttc d) ++ if pod then s.coll.pod.map fun e => e.2.ttc else []).foldl max 0
/-- TIMETABLE_START (R274 step 2, R280): when every die of the domain has armed with the same key and domain, and of a
pod-timed one every package, S is fixed, 64 cycles ahead of the latest TTC; dies that disagree about the domain lose their
waybills. -/
def execTimetableStart (die : Nat) (s : State) : Host.Outcome State Fault Refusal :=
  .next (match (s.die die).tt with
    | none => s
    | some t =>
      if t.phase ≠ 1 then s
      else
        let l := s.armedWith t.key
        if l.any fun d => ((s.die d).tt.map (·.domain)) != some t.domain then l.foldl (fun s d => s.disarm d) s
        else if ((s.domainOf die).all fun d => l.contains d) && (!t.pod || s.podReady t.key) then
          let start := s.latestTtc die t.pod + 64
          (s.domainOf die).foldl (fun s d => s.modDie d fun x =>
            { x with tt := x.tt.map fun u => { u with phase := 2, start := start } }) s
        else s)
/-- TIMETABLE_PLACEMENT (R274 step 3): at S every caravan of the waybill is placed at its fixed position. -/
def execTimetablePlacement (die : Nat) (s : State) : Host.Outcome State Fault Refusal :=
  .next (match (s.die die).tt with
    | none => s
    | some t =>
      if t.phase ≠ 2 || s.ttc die < t.start then s
      else
        let i := ((s.die die).wbs.get t.entNo).img
        let s := s.modDie die fun x => { x with tt := some { t with phase := 3 } }
        (upFrom 0 (wNcar i)).foldl (fun s n => s.placeCar die t.entNo ((fixedPos i n).getD (0, 0))) s)
/-- WAYBILL_WITHDRAWAL (R274): system software withdraws the waybill of a die that is arming or armed. -/
def execWaybillWithdrawal (die : Nat) (s : State) : Host.Outcome State Fault Refusal :=
  .next (match (s.die die).tt with
    | none => s
    | some t =>
      if 2 ≤ t.phase then s
      else s.modDie die fun x =>
        { x with
          tt := none
          wbs := x.wbs.erase t.entNo
          queues := x.queues.modify t.queue fun l => l.filter fun e => e.no != t.entNo })

end Sys2Proof.Machine
end

