-- ==== Sys2Proof/Machine/Haulier.lean ====
section
/-! DEFINITION. The haulier: groups of haul entries copied from the LPDDR6 tier into depot slots, failures, rehauls (R291
to R297, R455). -/

namespace Sys2Proof.Machine

/-- A haul entry (R292). -/
structure HaulEnt where
  src : Nat
  len : Nat
  doff : Nat
  last : Bool
  deriving DecidableEq, Repr

/-- An entry's fields are as they must be, and it fits its slot. -/
def haulEntOk (b : List Byte) (lg : Nat) : Bool :=
  nbits (q8 b 0) 63 57 == 0 && q8 b 0 % 64 == 0 && nbits (q8 b 8) 63 40 == 0 && q8 b 8 != 0 && q8 b 8 % 64 == 0
    && nbits (q8 b 0x10) 63 40 == 0 && q8 b 0x10 % 64 == 0 && q8 b 0x18 ≤ 1 && q8 b 0x10 + q8 b 8 ≤ 2 ^ lg
/-- Entry n of a list; none where it is malformed or cannot be read. The last of the list ends its group. -/
def State.haulEntry (s : State) (d : Nat) (h : Haul) (n : Nat) : Option HaulEnt :=
  match s.virtBytes d h.asid (h.ent + 32 * n) 32 with
  | none => none
  | some b =>
    if haulEntOk b h.slotLg && (n + 1 < h.nent || q8 b 0x18 == 1) then
      some ⟨q8 b 0, q8 b 8, q8 b 0x10, q8 b 0x18 == 1⟩
    else none

/-! ## Copying (R293, R455) -/

/-- Where the haulier finds a page: no poison-hold, the aperture that is wanted, and a right (bit of ATTR); TRO is ignored
(R384). -/
def State.haulPlace (s : State) (d asid va aper right : Nat) : Option Nat :=
  match vregion va, (s.translate d asid va).2 with
  | .xlate, .ok r =>
    if r.aper = aper && r.attr.getLsbD right && !r.attr.getLsbD 4 then
      some (r.addr + va % 4096)
    else none
  | _, _ => none
/-- LPERR (R458): the slot, the list and the LPDDR6 line in error. -/
def State.lperr (s : State) (d wb slot a : Nat) : State :=
  (s.setCtl d 0x450 (BitVec.ofNat 64 (2 ^ 63 + slot % 16 * 2 ^ 32 + wb % 2 ^ 32))).setCtl d 0x458
    (BitVec.ofNat 64 (a % 2 ^ 40 / 64 * 64))
/-- Poison the 64 bytes at a key. -/
def State.poisonAtKey (s : State) (k : Nat) : State :=
  { s with poison := unitOf k :: s.poison.filter (· != unitOf k) }
/-- Copy 64 bytes of an entry into a slot; none where a translation faults. A line that the ECC cannot correct, and a
parity error in the reformat path, leave the granule poisoned (R449, R455). -/
def State.haulRow (s : State) (d : Nat) (h : Haul) (slot : Nat) (e : HaulEnt) (i : Nat) : Option State :=
  match s.haulPlace d h.asid (e.src + 64 * i) 1 0,
      s.haulPlace d h.asid (h.depot + slot * 2 ^ h.slotLg + e.doff + 64 * i) 0 1 with
  | some a, some b =>
    let s := s.meet d (tierKey a) 64
    let hit := s.upsets.contains (.haul d b)
    let s := if hit then { s with upsets := s.upsets.erase (.haul d b) }.incCtl d 0x448 else s
    if hit || s.poisoned (tierKey a) 64 then
      some (((s.store (dieKey d b) (List.replicate 64 0)).poisonAtKey (dieKey d b)).lperr d h.wb slot a)
    else some (s.store (dieKey d b) (s.load (tierKey a) 64))
  | _, _ => none
/-- Copy the rows of an entry in order: whether no translation faulted. -/
def State.haulRows (s : State) (d : Nat) (h : Haul) (slot : Nat) (e : HaulEnt) : Nat → Nat → State × Bool
  | _, 0 => (s, true)
  | i, k + 1 =>
    match s.haulRow d h slot e i with
    | none => (s, false)
    | some s => s.haulRows d h slot e (i + 1) k
/-- Copy the entries of a group from entry n on: the entry after it, or the one that fails. -/
def State.haulGroup (s : State) (d : Nat) (h : Haul) (slot : Nat) : Nat → Nat → State × Except Nat Nat
  | n, 0 => (s, .error n)
  | n, k + 1 =>
    match s.haulEntry d h n with
    | none => (s, .error n)
    | some e =>
      match s.haulRows d h slot e 0 (e.len / 64) with
      | (s, false) => (s, .error n)
      | (s, true) => if e.last then (s, .ok (n + 1)) else s.haulGroup d h slot (n + 1) k

/-! ## Which group is next (R293) -/

/-- First entry of a group: that after g entries with END, from entry n on. -/
def State.groupStart (s : State) (d : Nat) (h : Haul) : Nat → Nat → Nat → Nat
  | _, n, 0 => n
  | 0, n, _ => n
  | g + 1, n, k + 1 =>
    match s.haulEntry d h n with
    | some e => s.groupStart d h (if e.last then g else g + 1) (n + 1) k
    | none => n
/-- A slot that is being filled. -/
def Haul.filling (h : Haul) : Option Nat := (List.find? (fun (e : Nat × DepotSlot) => e.2.st == 1) h.slots).map (·.1)
/-- The list still has work. -/
def Haul.open' (h : Haul) : Bool :=
  !h.failed && (h.nextEnt < h.nent || h.filling.isSome || h.slots.any fun e => e.2.rehaul)
/-- The lists that the haulier serves: two at most. -/
def State.served (s : State) (d : Nat) : List Haul := ((s.die d).hauls.filter Haul.open').take 2
/-- A copy or matrix read of a slot is in flight. -/
def State.slotInFlight (s : State) (d : Nat) (h : Haul) (slot : Nat) : Bool :=
  (s.tiles.filter fun e => e.1 / 512 == d).any fun e =>
    let t := e.1 % 512
    e.2.runs.any fun r =>
      let w := s.who d t r.ctx
      r.cmd.eng ≤ 1 && w.asid == h.asid && (s.touches w r.cmd).any fun x => x.1 == .read && h.slotOf x.2 == some slot
/-- The slot that a list fills next, if it can: one asked to be hauled again, else that of its next group. -/
def State.nextFill (s : State) (d : Nat) (h : Haul) : Option Nat :=
  match (List.find? (fun (e : Nat × DepotSlot) => e.2.rehaul) h.slots) with
  | some (k, _) => if s.slotInFlight d h k then none else some k
  | none =>
    let k := h.group % h.nslot
    if h.nextEnt < h.nent && (h.slots.get k).st == 0 then some k else none
/-- Cycles after which a group is written at the earliest: a read of the tier and a write of HBM4 (R276, R485). -/
def haulLat : Nat := 2 * crossD + 600 + 260
/-- Begin to fill a slot. -/
def Haul.begin' (h : Haul) (k now : Nat) : Haul :=
  let x := h.slots.get k
  { h with
    slots := h.slots.set k { x with st := 1, group := if x.rehaul then x.group else h.group }
    busy := some (now + haulLat) }
/-- The haulier takes the next group, alternating between the lists it serves. -/
def State.haulBegin (s : State) (d : Nat) : State :=
  if (s.die d).hauls.any fun h => h.busy.isSome then s
  else
    let l := s.served d
    let l := if (s.die d).haulTurn % 2 = 1 then l.reverse else l
    match l.findSome? fun h => (s.nextFill d h).map fun k => (h.wb, k) with
    | none => s
    | some (wb, k) => s.modDie d fun x => { (x.modHaul wb fun h => h.begin' k s.now) with haulTurn := x.haulTurn + 1 }
/-- The list whose group is written by now, and its slot. -/
def State.haulReady (s : State) (d : Nat) : Option (Haul × Nat) :=
  (s.die d).hauls.findSome? fun h =>
    match h.busy, h.filling with
    | some t, some k => if t ≤ s.now && !h.failed then some (h, k) else none
    | _, _ => none
/-- Copy the group that a list fills a slot with: the state after it, and the entry after it or the one that fails. -/
def State.haulCopy (s : State) (d : Nat) (h : Haul) (k : Nat) : State × Except Nat Nat :=
  let n := if (h.slots.get k).rehaul then s.groupStart d h (h.slots.get k).group 0 h.nent else h.nextEnt
  s.haulGroup d h k n (h.nent - n)
/-- Publish a slot. REHAUL.GO falls once its slot is published again (R458). -/
def State.haulPublish (s : State) (d : Nat) (h : Haul) (k next : Nat) : State :=
  let x := h.slots.get k
  let s := s.modDie d fun y => y.modHaul h.wb fun h =>
    { h with
      slots := h.slots.set k { x with st := 2, rehaul := false }
      busy := none
      group := if x.rehaul then h.group else h.group + 1
      nextEnt := if x.rehaul then h.nextEnt else next }
  if x.rehaul then s.setCtl d 0x460 (s.ctl d 0x460 &&& 0x7FFFFFFFFFFFFFFF#64) else s
/-- HAUL_GROUP_PUBLISH (R293): a group that has been written is published; then the next is begun. -/
def execHaulGroupPublish (die : Nat) (s : State) : Host.Outcome State Fault Refusal :=
  let s := match s.haulReady die with
    | none => s
    | some (h, k) => match s.haulCopy die h k with
      | (t, .ok n) => t.haulPublish die h k n
      | (_, .error _) => s
  .next (s.haulBegin die)
/-- HAUL_LIST_FAIL (R296): an entry of the group that is malformed or faults stops the list; the entries before it have
been copied. -/
def execHaulListFail (die : Nat) (s : State) : Host.Outcome State Fault Refusal :=
  .next (match s.haulReady die with
    | none => s
    | some (h, k) => match s.haulCopy die h k with
      | (_, .ok _) => s
      | (t, .error n) => t.haulFail die h.wb n)

end Sys2Proof.Machine
end

