-- ==== Sys2Proof/Machine/Restore.lean ====
section
/-! DEFINITION. The end of saves and loads: writing an area, checking one, and restoring a context from it (R438 to R445,
R486). -/

namespace Sys2Proof.Machine

/-! ## The issue history (R421, R440) -/

/-- The two doublewords of entry i of HIST. -/
def histRaw (b : List Byte) (i : Nat) : Nat × Nat := (sd8 b (0x100 + 16 * i), sd8 b (0x108 + 16 * i))
/-- Entries i and j name one bundle at idle offset 0. -/
def sameHead (b : List Byte) (i j : Nat) : Bool :=
  let p := (histRaw b i).1
  p == (histRaw b j).1 && p % 16 == 0
/-- First entry of the run of such entries that i stands in. -/
def headStart (b : List Byte) : Nat → Nat
  | 0 => 0
  | i + 1 => if sameHead b i (i + 1) then headStart b i else i + 1
/-- Number of entries of the run from i on, within n. -/
def headLen (b : List Byte) (i : Nat) : Nat → Nat
  | 0 => 1
  | n + 1 => if sameHead b i (i + 1) then headLen b (i + 1) n + 1 else 1
/-- What an entry stands for: the n-th idle bundle before a delayed bundle, the bundle, its first idle bundle. -/
inductive HistKind where
  | pre (n : Nat) | bundle | idle
  deriving DecidableEq, Repr
/-- Sort out entry i of a history of n, where the bundle has p idle bundles before it and an idle count: a run of one
position holds them in turn. A full history may begin inside a turn. -/
def histKind (b : List Byte) (n i p idle : Nat) : HistKind :=
  let g := p + 1 + (if 0 < idle then 1 else 0)
  let r0 := headStart b i
  let len := headLen b r0 (n - 1 - r0)
  let first : Nat :=
    if r0 ≠ 0 || n < 128 then 0
    else match (upFrom 0 len).find? fun j => (histRaw b j).2.testBit 8 with
      | some j => (p + g - j % g) % g
      | none => (g - len % g) % g
  let k := (first + (i - r0)) % g
  if k < p then .pre k else if k = p then .bundle else .idle

/-- The bundle at a position, as its loop buffer or memory holds it. -/
def State.codeAt (s : State) (d l c : Nat) (p : Pos) : Option (Bundle × List (Slot × Syl) × Nat) :=
  match readBundle (s.halfOf d l c p.seg) { p with ioff := 0 } false with
  | .bundle b h a => some (b, h, a)
  | _ => none
/-- Entry i of a history of n, as issue number i; the flag says that it comes before a delayed bundle. -/
def State.histEntry (s : State) (d l c : Nat) (b : List Byte) (n i : Nat) : Issued × Bool :=
  let w := (histRaw b i).2
  let p := Pos.dec (BitVec.ofNat 64 (histRaw b i).1)
  let e : Issued :=
    { no := i, pos := p, baddr := 0, spacing := nbits w 7 0, dec := default, slots := [], hdrs := [], pre := [] }
  match s.codeAt d l c p with
  | none => (e, false)
  | some (x, hdrs, a) =>
    let e := { e with baddr := a }
    if 0 < p.ioff then ({ e with pos := p.inside }, false)
    else match histKind b n i (preNeed x.slots) x.idle with
      | .pre 0 => ({ e with pre := x.slots.filter fun y => y.1.cls == .v || 0 < preOf y.2, ahead := true }, true)
      | .pre _ => ({ e with ahead := true }, true)
      | .idle => ({ e with pos := { p with ioff := 1 } }, false)
      | .bundle =>
        let e := { e with slots := x.slots, hdrs := hdrs }
        let own := ((x.slots.find? fun y => y.1 == .b).map fun y => decideB y.2 (s.aim d l c e)).getD default
        ({ e with dec := { own with
            taken := w.testBit 8
            inBit := w.testBit 9
            res := if w.testBit 10 then some (nbits w 63 40) else none } }, false)
/-- The target of a RET or JMPR is the position of the entry after its delay positions, or what is still to come. -/
def fixTarget (last : Pos) : List (Issued × Bool) → List Issued
  | [] => []
  | (e, _) :: r =>
    let byReg := e.slots.any fun y => match y.2 with
      | .ret _ | .jmpr _ => true
      | _ => false
    let next := ((r.filter fun x => !x.2).drop 2).head?
    let e := if byReg then { e with dec := { e.dec with tgt := ((next.map fun x => x.1.pos).getD last) } } else e
    e :: fixTarget last r
/-- The history of an area. -/
def State.histOf (s : State) (d l c : Nat) (b : List Byte) (last : Pos) : List Issued :=
  let n := min (sd8 b 0x80) 128
  fixTarget last ((upFrom 0 n).map fun i => s.histEntry d l c b n i)

/-! ## Where the stream stands (R58, R440) -/

/-- The position after the newest entry of a history, where no tile has run it. -/
def State.afterLast (s : State) (d l c : Nat) (h : List Issued) : Pos :=
  match h.getLast? with
  | none => ⟨0, 0, 0⟩
  | some e =>
    let run := h.filter fun x => !x.ahead
    let jump := (run[run.length - 3]?).bind fun x =>
      if x.dec.taken && x.slots.any (fun y => isTransfer y.2) then some x.dec.tgt else none
    match jump with
    | some p => p
    | none => s.posAfter d l c e.pos
/-- The B instruction of the bundle that a position lies in or has just left. -/
def lastB (h : List Issued) : Option (Issued × Instr) :=
  (h.reverse.find? fun e => !e.slots.isEmpty).bind fun e => (e.slots.find? fun y => y.1 == .b).map fun y => (e, y.2)
/-- The flow at a restored position: what its bundle does after its idle count, and the pending transfer. -/
def restFlow (h : List Issued) (p : Pos) (ndly : Nat) (ptgt : Pos) : Flow × Nat :=
  let f : Flow :=
    { (default : Flow) with
      pos := p.inside, chk := true, pend := if ndly = 0 then none else some (some ptgt.inside, ndly) }
  match lastB h with
  | none => (f, 0)
  | some (e, i) =>
    if 0 < p.ioff then
      (match i with
        | .loop _ n | .loopRot _ n | .loopw _ _ n => { f with edge := if e.dec.taken then some n.toNat else none }
        | .yield => { f with after := 1 }
        | .exit => { f with after := 2 }
        | .eret => { f with after := 3 }
        | .trap n => { f with trapN := some n.toNat }
        | _ => f, 0)
    else (f, if i = .exit then 1 else 0)

/-! ## Restoring a tile (R441, R486) -/

/-- A stream of a tile section. -/
def streamOf (x : List Byte) (off now : Nat) : Stream :=
  let a := sd8 x off
  let e := sd8 x (off + 8)
  let k := nbits e 45 44
  { bound := if a.testBit 63 then
      some ⟨nbits e 63 48, nbits e 47 46, k, if k = 0 then nbits e 43 35 else if k = 1 then nbits e 34 34 else 0⟩
      else none
    broken := a.testBit 62, epoch := nbits a 61 54, next := nbits a 53 42
    closes := List.replicate (nbits a 41 35) now }
/-- A port of a tile section. -/
def portOf (x : List Byte) (off : Nat) : Port :=
  let w (o : Nat) : Nat := leNat ((x.drop (off + o)).take 4)
  { portOfRow (BitVec.ofNat 512 (leNat ((x.drop off).take 64))) with pos := [w 40, w 44, w 48, w 52] }
/-- An engine's command copies a staging set (R59, R83). -/
def isStaged : Instr → Bool
  | .mzero _ | .publish _ | .sqclr _ | .xpush _ | .xfetch _ | .xflush => false
  | _ => true
/-- Class of an engine's headers. -/
def engClass (g : Nat) : SlotClass := if g = 0 then .m else if g = 1 then .c else .e
/-- Unstarted command i of engine g; `n` of its commands that hold a set come before it, of `m` in all. -/
def cmdOf (x : List Byte) (r : Regs) (clk ord fill busy g i n m : Nat) : Option Cmd :=
  let o := 0x950 + 144 * (2 * g + i)
  let a := sd8 x o
  let q := sd8 x (o + 136)
  let hdr : Syl := BitVec.ofNat 32 (nbits a 31 0)
  if !a.testBit 63 then none
  else match decodeSlot (engClass g) [hdr] with
    | .error _ => none
    | .ok ins =>
      let f := fill.testBit g
      let set := if n + 1 = m then !f else f
      let (ix, vx, mask) := match ins with
        | .xpush f | .xfetch f => (r.readO clk f.ix.toNat, r.readO clk f.vx.toNat,
            if f.ke then r.readK clk f.km.toNat else BitVec.allOnes 1024)
        | _ => (0, 0, BitVec.allOnes 1024)
      let stg := if isStaged ins then (upFrom 0 (stgSize g)).map fun k => BitVec.ofNat 64 (sd8 x (o + 8 + 8 * k)) else []
      some {
        eng := g, instr := ins, hdr := hdr, stg := stg
        set := if isStaged ins && busy.testBit (2 * g + set.toNat) then some set else none
        idx := 0, at' := clk - 2, ord := ord, prog := nbits q 31 0
        rsv := if q.testBit 52 then some (nbits q 43 32, nbits q 51 44) else none
        ix := ix, vx := vx, mask := mask, baddr := 0
        ents := match ins with
          | .copy f => copyPackets f stg
          | .xpush f => xCount f mask
          | .xfetch _ => 1
          | _ => 0 }
/-- Whether entry i of engine g holds a command that copied a set. -/
def cmdStaged (x : List Byte) (g i : Nat) : Bool :=
  let a := sd8 x (0x950 + 144 * (2 * g + i))
  a.testBit 63 && match decodeSlot (engClass g) [BitVec.ofNat 32 (nbits a 31 0)] with
    | .ok ins => isStaged ins
    | .error _ => false
/-- The unstarted commands of a section, numbered engine by engine, so that every mma stands before every sqld: DESIGN CHOICE
(R236, log 103). -/
def cmdsOf (x : List Byte) (r : Regs) (clk ord fill busy : Nat) : List Cmd :=
  (upFrom 0 4).flatMap fun g =>
    let m := (cmdStaged x g 0).toNat + (cmdStaged x g 1).toNat
    (upFrom 0 2).filterMap fun i =>
      cmdOf x r clk (ord + 2 * g + i) fill busy g i (if i = 0 then 0 else (cmdStaged x g 0).toNat) m
/-- An indexed field of a section as a map. -/
def mapOf {α : Type} (n : Nat) (f : Nat → α) : FMap α := (upFrom 0 n).map fun i => (i, f i)
/-- A scale queue of a section. -/
def sqOf (x : List Byte) (off n : Nat) : List (BitVec 128) :=
  (upFrom 0 (min n 64)).map fun i => BitVec.ofNat 128 (leNat ((x.drop (off + 16 * i)).take 16))

/-- The registers of a section. -/
def regsOf (x : List Byte) : Regs :=
  let soff := sd8 x 0x208 % 8
  let pr := sd8 x 0x200
  let at' (w off k i : Nat) : BitVec w := BitVec.ofNat w (leNat ((x.drop (off + k * i)).take k))
  { (default : Regs) with
    s := mapOf 64 fun n => if n = 0 then 0 else BitVec.ofNat 64 (sd8 x (8 * n))
    p := sortBy (fun e => e.1) ((upFrom 1 15).map fun n => (physP soff n, BitVec.ofBool (pr.testBit n)))
    k := mapOf 8 fun i => at' 1024 0x15E0 128 i
    q := mapOf 8 fun i => at' 512 0x19E0 64 i
    o := mapOf 8 fun i => at' 8192 0x2000 1024 i
    fsr := BitVec.ofNat 8 (sd8 x 0x218)
    voff := sd8 x 0x210 % 32
    soff := soff }
/-- The engine state of a section; level 1 has no scale queues (R443). -/
def engOf (x : List Byte) (r : Regs) (ver clk ord : Nat) (count : FMap Nat) : EngSt :=
  let fills := sd8 x 0x940
  let q := cmdsOf x r clk ord (nbits fills 3 0) (nbits fills 11 4)
  let m := sd8 x 0x220
  let h := sd8 x 0x948
  let dw (off i : Nat) : DWord := BitVec.ofNat 64 (sd8 x (off + 8 * i))
  { (default : EngSt) with
    stg := (upFrom 0 2).flatMap fun b => (upFrom 0 48).map fun i =>
      let (g, k) := if i < 16 then (0, i) else if i < 32 then (1, i - 16) else if i < 40 then (2, i - 32) else (3, i - 40)
      (stgKey (b == 1) g k, dw (0x640 + 384 * b) i)
    fill := BitVec.ofNat 4 fills
    busy := BitVec.ofNat 8 (fills / 16)
    queue := q
    count := count
    mrs := mapOf 16 (dw 0x2C0)
    msat := m.testBit 63, mvalid := m.testBit 62, mprog := nbits m 31 0
    sqA := if ver = 1 then [] else sqOf x 0xDE0 (sd8 x 0xDD0)
    sqB := if ver = 1 then [] else sqOf x 0x11E0 (sd8 x 0xDD8)
    xcfg := if h.testBit 63 then some (BitVec.ofNat 32 h, (upFrom 0 4).map (dw 0x1BE0)) else none
    xcommitted := h.testBit 63 || q.any fun c => match c.instr with
      | .xcfg _ => true
      | _ => false }

/-- The memories of a section: granules, banks, park slots, from offset 0x4000 on. -/
def State.loadMems (s : State) (d t c ver : Nat) (x b : List Byte) : State :=
  let m := areaMasks b
  let y := s.ctx d t c
  let g := bitsOf m.1 16
  let bk := bitsOf m.2.1 64
  let pk := if ver = 1 then [] else bitsOf m.2.2 128
  let s := (g.zip (upFrom 0 g.length)).foldl (fun s e =>
    s.modTile d t fun z =>
      let pool := (upFrom 0 8).foldl (fun (p : FMap VReg) i => p.set (y.poolReg (8 * e.1 + i))
        (BitVec.ofNat 8192 (leNat ((x.drop (0x4000 + 8192 * e.2 + 1024 * i)).take 1024)))) z.pool
      { z with pool := pool }) s
  let o := 0x4000 + 8192 * g.length
  let s := (bk.zip (upFrom 0 bk.length)).foldl (fun s e =>
    s.store (accKey d t (2048 * e.1)) ((x.drop (o + 2048 * e.2)).take 2048)) s
  let o := o + 2048 * bk.length
  (pk.zip (upFrom 0 pk.length)).foldl (fun s e =>
    s.store (accKey d t (1024 * e.1)) ((x.drop (o + 1024 * e.2)).take 1024)) s

/-- Restore one tile from its section: `same` says that the target is the saved context itself. -/
def State.loadTile (s : State) (d t c : Nat) (b x : List Byte) (same : Bool) : State :=
  let ver := sd8 b 0 / 2 ^ 48
  let n := min (sd8 b 0x80) 128
  let clk := s.clock d t
  let old := s.ctx d t c
  let r := regsOf x
  let e := engOf x r ver clk s.flitNo old.e.count
  let e := if same then e else { e with queue := e.queue.map fun m => { m with rsv := none } }
  let tagm := old.tagm
  let hm := (sd8 b 0).testBit 18
  let f := s.freeCtr
  let s := { s with flitNo := s.flitNo + 8, freeCtr := f + 1 }
  let s := s.setCtx d t c { old with
    r := r
    e := e
    ports := mapOf 8 fun i => portOf x (0x440 + 64 * i)
    streams := if same then mapOf 16 fun i => streamOf x (0x340 + 16 * i) s.now else old.streams
    parks := if ver = 1 then 0 else old.parks
    lease := if nbits (sd8 b 0) 17 16 = 0 then 0 else 1
    nextNo := n - min n (sd8 x 0x270)
    lastAt := clk
    inbox := [], latch := [], rld := [], early := [], hold := []
    t := { old.t with
      tvec := BitVec.ofNat 64 (sd8 x 0x228) &&& 0xFFFFFFFFFFFFFC00
      tdeleg := BitVec.ofNat 64 (sd8 x 0x230) &&& 0xF
      hm := hm
      trapped := (sd8 x 0x238).testBit 62
      trec := (upFrom 0 8).map fun i => BitVec.ofNat 64 (sd8 x (0x280 + 8 * i))
      trpos := if hm then Config.freeBits 64 f else 0
      tscr := mapOf 4 fun i => BitVec.ofNat 64 (sd8 x (0x240 + 8 * i))
      cur := none
      resume := n } }
  let tags := BitVec.ofNat 64 (sd8 x 0x268)
  let s := s.modTile d t fun y =>
    { y with
      tags := (y.tags &&& ~~~tagm) ||| (tags &&& tagm)
      out := (bitsOf tagm.toNat 64).foldl (fun (o : FMap Nat) g =>
        o.set g (e.queue.filter fun m => cmdTag m.instr == some g).length) y.out }
  s.loadMems d t c ver x b

/-! ## Restoring a context (R443) -/

/-- The stream of payloads of an area, from its bytes. -/
def streamBytes (blocks : List (List Byte)) : List Byte := blocks.flatMap fun k => k.take 240
/-- The area is one of the target itself (R443). -/
def State.sameCtx (s : State) (d l c : Nat) (b : List Byte) : Bool :=
  sd8 b 0x38 == originOf d l c && nbits (sd8 b 8) 31 0 == s.cid d l c
/-- Close the bound streams of a target that is not the saved context itself (R443): whether none is left, at any tile. -/
def State.closeTarget (s : State) (d l c : Nat) (blocks : List (List Byte)) : State × Bool :=
  if s.sameCtx d l c (streamBytes (blocks.take 10)) then (s, true)
  else (s.car d l).tiles.foldl (fun (a : State × Bool) t =>
    let (s, all) := a.1.closeAll d t c
    (s, a.2 && all)) (s, true)
/-- Restore a target, whose streams are closed where they have to be, from its area. -/
def State.restore (s : State) (d l c : Nat) (blocks : List (List Byte)) : State :=
  let b := streamBytes (blocks.take 10)
  let v0 := sd8 b 0
  let pl := nbits (sd8 b 0x10) 31 0
  let k := sectionBlocks pl
  let tiles := (s.car d l).tiles
  let same := s.sameCtx d l c b
  let sec (i : Nat) : List Byte := streamBytes ((blocks.drop (10 + i * k)).take k)
  let idx := tiles.zip (upFrom 0 tiles.length)
  let s := idx.foldl (fun s e => s.loadTile d e.1 c b (sec e.2) same) s
  let n := min (sd8 b 0x80) 128
  let stop := (idx.map fun e => sec e.2).findSome? fun x =>
    if sd8 x 0x270 = 0 then some (Pos.dec (BitVec.ofNat 64 (sd8 x 0x260))) else none
  let ndly := nbits (sd8 b 0x88) 1 0
  let ptgt := Pos.dec (BitVec.ofNat 64 (sd8 b 0x90))
  let s := s.modLead d l c fun x =>
    { (default : Lead) with halted := true, prio := nbits v0 25 24, lastAt := s.clock d l, sel := x.sel }
  let hist := s.histOf d l c b (if ndly = 0 then (stop.getD ⟨0, 0, 0⟩).inside else ptgt.inside)
  let pos := match stop with
    | some p => p
    | none => s.outPos d l c (s.afterLast d l c hist)
  let (flow, ph) := restFlow hist pos ndly ptgt
  let hm := v0.testBit 18
  s.modLead d l c fun x =>
    { x with
      hist := hist, no := n, flow := flow, exitPh := ph
      lrec := (upFrom 0 8).map fun i => BitVec.ofNat 64 (sd8 b (0x40 + 8 * i))
      saved := if hm then
          some ⟨[], { (default : Flow) with pos := (Pos.dec ((s.ctx d l c).t.trpos)).inside, chk := true }, n, 0⟩
        else none }

/-! ## The checks of a load (R444) -/

/-- A block fails its check: CRC, ASID, CID and SEQ against block 0, BLK. -/
def blockBad (first b : List Byte) (i : Nat) : Bool :=
  let f (x : List Byte) (o n : Nat) : Nat := leNat ((x.drop o).take n)
  f b 252 4 != crcUpdate 0 (b.take 252) || f b 240 2 != f first 240 2 || f b 242 2 != i % 65536
    || f b 244 4 != f first 244 4 || f b 248 4 != f first 248 4
/-- The first block of an area that fails. -/
def State.firstBad (s : State) (keys : List Nat) : Option Nat :=
  let first := s.load (keys.headD 0) 256
  ((keys.zip (upFrom 0 keys.length)).find? fun e =>
    s.poisoned e.1 256 || blockBad first (s.load e.1 256) e.2).map (·.2)

/-! ## Ends (R438, R444, R445, R451) -/

/-- The lead number that stands for the command of the control window. -/
def ccmdWaiter : Nat × Nat := (512, 0)
/-- The command of the control window has ended (R445): GO reads 0, CCAUSE holds its cause, 0xFF for none. -/
def State.ccmdDone (s : State) (d cause : Nat) : State :=
  let s := s.setCtl d 0x320 (BitVec.ofNat 64 (fld (s.ctl d 0x320) 62 0))
  let s := s.setCtl d 0x330 (BitVec.ofNat 64 (cause * 2 ^ 56))
  if cause = 0xA3 then s.event (8 + d) else s
/-- An operation of the save engine has ended, with or without a trap for the bundle that waits. -/
def State.saveDone (s : State) (d : Nat) (o : SaveOp) (i : Option TrapInfo) : State :=
  let s := s.modDie d fun x => { x with saves := x.saves.filter fun p => p != o }
  match o.waiter with
  | none => s
  | some w =>
    if w = ccmdWaiter then s.ccmdDone d ((i.map (·.cause)).getD 0xFF)
    else s.modLead d w.1 w.2 fun x => { x with sysRes := some i }
/-- The operation of a die that ends in this cycle. -/
def State.saveDue (s : State) (d : Nat) (load : Bool) : Option SaveOp :=
  (s.die d).saves.find? fun o => o.load == load && o.done ≤ s.now
    && !(o.dry && o.waiter.any fun w => (s.lead d w.1 w.2).sysRes.isSome)
/-- A dry operation has had its time: its bundle may issue, or takes the trap that the operation meets. -/
def State.dryDone (s : State) (d : Nat) (o : SaveOp) : State :=
  o.waiter.elim s fun w => s.modLead d w.1 w.2 fun x => { x with sysRes := some none }

/-- The memories of a target at its tiles, by key and length: accumulator banks, park slots, granules of the pool, operand
files. -/
def State.areaUnits (s : State) (d l c : Nat) : List (Nat × Nat) :=
  (s.car d l).tiles.flatMap fun t =>
    let x := s.ctx d t c
    ((bitsOf x.banks.toNat 64).map fun b => (accKey d t (2048 * b), 2048))
      ++ ((bitsOf x.parks.toNat 128).map fun b => (accKey d t (1024 * b), 1024))
      ++ (x.gran.map fun e => (poolKey d t (8 * e.2), 8192)) ++ [(opKey d t c 0, 8192)]
/-- SAVE_COMPLETE (R438, R442): the area's blocks are written. A poisoned unit of the target delivers nothing: the saving
context takes uncorrectable tile memory error (R451). -/
def execSaveComplete (die : Nat) (s : State) : Host.Outcome State Fault Refusal :=
  .next (match s.saveDue die false with
    | none => s
    | some o =>
      let l := s.areaUnits die o.lead o.ctx
      let bad (s : State) : Bool := l.any fun e => s.poisoned e.1 e.2
      let old := bad { s with upsets := [] }
      let s := l.foldl (fun s e => s.meet die e.1 e.2) s
      if bad s then
        let i : TrapInfo := { cause := 0xA4, kind := 5, eng := 13, status := s.poisonStatus old }
        let s := s.bump
        match o.waiter with
        | some w => if w = ccmdWaiter then s.saveDone die o (some i) else (s.saveDone die o none).raiseAt die w.1 w.2 i
        | none => s.saveDone die o none
      else if o.dry then s.dryDone die o
      else
        let s := (o.keys.zip (upFrom 0 o.keys.length)).foldl (fun s e =>
          s.store e.1 ((o.img.drop (256 * e.2)).take 256)) s
        s.saveDone die o none)

/-- Free values for the keys 0 to n − 1, numbered from f on. -/
def freeMap (w n f : Nat) : FMap (BitVec w) := mapOf n fun i => Config.freeBits w (f + i)
/-- A port of free values, numbered from f on. -/
def freePort (f : Nat) : Port :=
  let l (f n w : Nat) : List Nat := (upFrom f n).map fun i => Config.freeNat 2 i % 2 ^ w
  { base := Config.freeNat 2 f % 2 ^ 19, cnt := l (f + 1) 4 16, str := (l (f + 5) 4 32).map fun (v : Nat) => (v : Int) - 2 ^ 31,
    pos := l (f + 9) 4 16 }
/-- Engine state of free values, numbered from f on: registers and queues, and which of the commands it keeps. -/
def EngSt.scrambled (e : EngSt) (f : Nat) : EngSt :=
  let n (i m : Nat) : Nat := Config.freeNat 2 (f + i) % m
  { e with
    stg := freeMap 64 128 f, stgW := [], fill := Config.freeBits 4 (f + 128), busy := Config.freeBits 8 (f + 129)
    queue := (e.queue.zip (upFrom 0 e.queue.length)).filterMap fun q => if n (130 + q.2) 2 = 0 then some q.1 else none
    mrs := freeMap 64 16 (f + 146), msat := n 162 2 == 0, mvalid := n 163 2 == 0, mprog := n 164 (2 ^ 32)
    sqA := (upFrom 0 (n 165 65)).map fun i => Config.freeBits 128 (f + 170 + i)
    sqB := (upFrom 0 (n 166 65)).map fun i => Config.freeBits 128 (f + 240 + i) }
/-- A damaged target's state at a tile is unspecified (R444): free values. What the tile counts as its own (granules, banks, park
slots, tags) stays the target's until it ends; what they hold is unspecified too. -/
def State.scramble (s : State) (d t c : Nat) : State :=
  let f := s.freeCtr
  let x := s.ctx d t c
  let n (i m : Nat) : Nat := Config.freeNat 2 (f + i) % m
  let regs : Regs := { (default : Regs) with
    s := freeMap 64 64 f, p := freeMap 1 16 (f + 64), k := freeMap 1024 8 (f + 80), q := freeMap 512 8 (f + 96)
    o := freeMap 8192 8 (f + 112), fsr := Config.freeBits 8 (f + 120), voff := n 121 32, soff := n 122 8 }
  let trap : TrapSt := { x.t with
    tvec := Config.freeBits 64 (f + 123), tdeleg := Config.freeBits 64 (f + 124), tscr := freeMap 64 4 (f + 144)
    trpos := Config.freeBits 64 (f + 148), trec := (upFrom 0 8).map fun i => Config.freeBits 64 (f + 149 + i) }
  let streams := mapOf 16 fun i =>
    let st := x.streams.get i
    { st with bound := if n (160 + 4 * i) 2 = 0 then st.bound else none, broken := n (161 + 4 * i) 2 == 0
              epoch := n (162 + 4 * i) 256, next := n (163 + 4 * i) 4096 }
  let s := s.setCtx d t c { x with
    r := regs, e := x.e.scrambled (f + 512), ports := mapOf 8 fun i => freePort (f + 224 + 16 * i), t := trap, streams := streams
    lead := { x.lead with flow := { x.lead.flow with pos := ⟨16 * n 352 (2 ^ 53), n 353 64, n 354 16⟩ } } }
  let s := s.modTile d t fun y =>
    { y with pool := ((x.gran.flatMap fun e => upFrom (8 * e.2) 8).foldl (fun (m : FMap VReg) n =>
        m.set n (Config.freeBits 8192 (f + 1024 + n))) y.pool) }
  let mems := ((bitsOf x.banks.toNat 64).map fun b => (2048 * b, 2048))
    ++ (bitsOf x.parks.toNat 128).map fun b => (1024 * b, 1024)
  { mems.foldl (fun (s : State) (e : Nat × Nat) => s.store (accKey d t e.1)
      ((upFrom (f + 4096 + e.1) e.2).map fun i => Config.freeBits 8 i)) s with freeCtr := f + 4096 + 131072 }
/-- LOAD_COMPLETE (R438, R443, R444): every block is checked; the target is damaged, or restored once its streams are closed
where they have to be. -/
def execLoadComplete (die : Nat) (s : State) : Host.Outcome State Fault Refusal :=
  .next (match s.saveDue die true with
    | none => s
    | some o =>
      let s := o.keys.foldl (fun s k => s.meet die k 256) s
      if o.dry then s.dryDone die o
      else match s.firstBad o.keys with
      | some k =>
        let s := (s.car die o.lead).tiles.foldl (fun s t => (s.scramble die t o.ctx).modCtx die t o.ctx fun x =>
          { x with st := .damaged, t := { x.t with dmg := true } }) s
        s.saveDone die o (some { cause := 0xA3, kind := 0, eng := 14, addr2 := (o.addr + 256 * k) % 2 ^ 57 })
      | none =>
        let blocks := o.keys.map fun k => s.load k 256
        let (s, closed) := s.closeTarget die o.lead o.ctx blocks
        if closed then (s.restore die o.lead o.ctx blocks).saveDone die o none else s)

end Sys2Proof.Machine
end

