-- ==== Sys2Proof/Machine/HostSide.lean ====
section
/-! DEFINITION. What the host does through the PCI Express functions: doorbells, the registers of the control and
management windows and their commands, and accesses to memory (R11, R243, R287, R289, R299, R334, R390, R404 to R407, R445,
R455, R458). -/

namespace Sys2Proof.Machine

/-- A die's function is presented (R409). -/
def State.pf (s : State) (d : Nat) : Bool := d < 4 && (s.die d).enabled
/-- STATE of BOOTST (R407). -/
def State.bootState (s : State) : Nat := fld (s.coll.mgmt.get 0x18) 3 0
/-- PF4 presents more than its provisioning window: the firmware has booted (R409). -/
def State.pf4 (s : State) : Bool := s.bootState == 2 || s.bootState == 4
/-- Bits h to l of a doubleword, in place. -/
def bits (h l : Nat) : DWord := BitVec.ofNat 64 (2 ^ (h + 1) - 2 ^ l)
/-- A write to a register: RW bits take the value, W1C bits that are written 1 become 0 (R11). -/
def regWrite (rw w1c old v : DWord) : DWord := (old &&& ~~~rw &&& ~~~(w1c &&& v)) ||| (v &&& rw)

/-! ## Queue windows (R243, R406) -/

/-- The staging image of a queue. -/
def QWin.image (w : QWin) : List Byte := (w.staging ++ List.replicate 256 (0 : Byte)).take 256
/-- Ring a queue's doorbell (R406): the staging image is appended, or refused. -/
def State.ring (s : State) (d q : Nat) : State :=
  if s.queueRoom d q then s.append d q ((s.die d).qwin.get q).image
  else s.modDie d fun x => { x with qwin := x.qwin.modify q fun w => { w with refused := true } }
/-- DOORBELL (R406). -/
def execDoorbell (die q : Nat) (s : State) : Host.Outcome State Fault Refusal :=
  .next (if s.pf die && q < 16 then s.ring die q else s)
/-- Write bytes of a staging image. -/
def QWin.put (w : QWin) (off : Nat) (bs : List Byte) : QWin :=
  { w with staging := w.image.take off ++ bs ++ w.image.drop (off + bs.length) }
/-- A write to a queue window (R406). -/
def State.queueWrite (s : State) (d off : Nat) (v : DWord) : State :=
  let q := off / 4096
  let o := off % 4096
  if o < 0x100 then s.modDie d fun x => { x with qwin := x.qwin.modify q fun w => w.put o (leBytes 8 v.toNat) }
  else if o = 0x100 then s.ring d q
  else if o = 0x108 then s.modDie d fun x =>
    { x with qwin := x.qwin.modify q fun w =>
      { w with refused := w.refused && !bit v 63, err := w.err && !bit v 62 } }
  else s

/-! ## PREQ (R287, R289, R299) -/

/-- Caravans of a waybill that a request names. -/
def State.preqCars (s : State) (d : Nat) (v : DWord) : List Car :=
  ((s.die d).cars.map (·.2)).filter fun c => c.wb % 2 ^ 32 == fld v 31 0 && (bit v 63 || c.idx == fld v 41 32)
/-- The waybill of a request is timetabled: queued, or placed. -/
def State.preqTimed (s : State) (d : Nat) (v : DWord) : Bool :=
  ((s.die d).wbs.map (·.2)).any fun w => w.no % 2 ^ 32 == fld v 31 0 && wMode w.img == 1
/-- PSTAT: BUSY, RES, NSTOP. -/
def pstat (busy : Bool) (res n : Nat) : DWord := BitVec.ofNat 64 (busy.toNat * 2 ^ 63 + res * 2 ^ 61 + n % 2 ^ 12)
/-- Make a pre-emption request. Contexts that are stopped already are counted and not touched. -/
def State.preempt (s : State) (d : Nat) (v : DWord) : State :=
  if bit (s.ctl d 0x10) 63 then s
  else if s.preqTimed d v then s.setCtl d 0x10 (pstat false 2 0)
  else
    let cars := s.preqCars d v
    if cars.isEmpty then s.setCtl d 0x10 (pstat false 3 0)
    else
      let all := cars.flatMap fun k => (upFrom 0 k.nctx).map fun c => (k.leadTile, c)
      let st (e : Nat × Nat) : CtxSt := (s.ctx d e.1 e.2).st
      let old := all.filter fun e => st e == .stopped || st e == .damaged
      let live := all.filter fun e => st e == .ready || st e == .clearing
      let s := live.foldl (fun s e => s.askStop d e.1 e.2 { cause := 0x89, kind := 4, eng := 10 }) s
      (s.modDie d fun x => { x with preq := live }).setCtl d 0x10
        (pstat (!live.isEmpty) (if live.isEmpty then 1 else 0) old.length)
/-- PREQ_WRITE (R287). -/
def execPreqWrite (die : Nat) (v : DWord) (s : State) : Host.Outcome State Fault Refusal :=
  .next (if s.pf die then s.preempt die v else s)

/-! ## INVCMD (R390, R405) -/

/-- Start an invalidation: what it names goes from the shared TLB at once; cached source ranges there are none. -/
def State.invStart (s : State) (d kind asid : Nat) : State :=
  let s := match kind with
    | 0 => s.dropTlb d fun e => e.asid == asid && e.covers (fld (s.ctl d 0xA0) 56 12 * 4096)
    | 1 => s.dropTlb d fun e => e.asid == asid
    | 2 => s.dropTlb d fun _ => true
    | _ => s
  s.modDie d fun x => { x with inv := some s.now }
/-- Write INVCMD: ignored while GO is 1. -/
def State.invWrite (s : State) (d : Nat) (v : DWord) : State :=
  if bit (s.ctl d 0xA8) 63 then s
  else
    let s := s.setCtl d 0xA8 (v &&& (bits 63 61 ||| bits 15 0))
    if bit v 63 then s.invStart d (fld v 62 61) (fld v 15 0) else s
/-- The value of INVCMD that starts a kind for an ASID. -/
def invValue (kind : Nat) (asid : BitVec 16) : DWord := BitVec.ofNat 64 (2 ^ 63 + kind * 2 ^ 61 + asid.toNat)
/-- INVCMD, page of an ASID (R405). -/
def execInvcmdPage (die : Nat) (asid : BitVec 16) (s : State) : Host.Outcome State Fault Refusal :=
  .next (if s.pf die then s.invWrite die (invValue 0 asid) else s)
/-- INVCMD, whole ASID (R405). -/
def execInvcmdAsid (die : Nat) (asid : BitVec 16) (s : State) : Host.Outcome State Fault Refusal :=
  .next (if s.pf die then s.invWrite die (invValue 1 asid) else s)
/-- INVCMD, all ASIDs (R405). -/
def execInvcmdAll (die : Nat) (s : State) : Host.Outcome State Fault Refusal :=
  .next (if s.pf die then s.invWrite die (invValue 2 0) else s)
/-- INVCMD, source ranges (R405). -/
def execInvcmdSourceRanges (die : Nat) (s : State) : Host.Outcome State Fault Refusal :=
  .next (if s.pf die then s.invWrite die (invValue 3 0) else s)
/-- Accesses that used what an INVCMD drops are still under way (R390). -/
def State.invBusy (s : State) (d since : Nat) : Bool :=
  let v := s.ctl d 0xA8
  match fld v 62 61 with
  | 0 | 1 => s.isoBusy d (some (fld v 15 0)) since
  | 2 => s.isoBusy d none since
  | _ => s.srcBusy d since
/-- INVALIDATION_COMPLETE (R390): GO reads 0. An isolation instruction completes at its lead's next attempt. -/
def execInvalidationComplete (die : Nat) (s : State) : Host.Outcome State Fault Refusal :=
  .next (match (s.die die).inv with
    | none => s
    | some c =>
      if s.invBusy die c then s
      else (s.modDie die fun x => { x with inv := none }).setCtl die 0xA8
        (s.ctl die 0xA8 &&& 0x7FFFFFFFFFFFFFFF#64))

/-! ## CCMD (R436, R437, R442 to R445) -/

/-- A save or a load has started, or ends with the cause that it met. -/
def State.ccmdTry (s : State) (d : Nat) (r : SaveTry) : State :=
  match r.2 with
  | .ok t => t
  | .error e => s.ccmdDone d e.1
/-- Perform a context command: OP, the descriptor. The reserved OPs 4 to 7 end with CCAUSE 0x97: R445 names no effect of
theirs: DESIGN CHOICE (log 118). -/
def State.ccmdRun (s : State) (d op : Nat) (desc : DWord) : State :=
  match s.target d desc none with
  | .error e => s.ccmdDone d e.1
  | .ok (l, c) =>
    if op = 1 then (s.endCtx d l c).ccmdDone d 0xFF
    else if 3 < op then s.ccmdDone d 0x97
    else if op = 3 && (s.car d l).timed then s.ccmdDone d 0x97
    else if s.damaged d l c then s.ccmdDone d 0x98
    else if op = 0 then (s.resumeCtx d l c).ccmdDone d 0xFF
    else
      let a := (s.ctl d 0x328).toNat
      s.ccmdTry d (if op = 2 then s.startSave d l c .phys a (some ccmdWaiter) else s.startLoad d l c .phys a (some ccmdWaiter))
/-- Write CCMD: ignored while GO is 1. -/
def State.ccmdWrite (s : State) (d : Nat) (v : DWord) : State :=
  if bit (s.ctl d 0x320) 63 then s
  else
    let s := s.setCtl d 0x320 (v &&& (bits 63 60 ||| bits 10 0))
    if bit v 63 then s.ccmdRun d (fld v 62 60) (v &&& bits 10 0) else s
/-- The value of CCMD that starts an operation on a context. -/
def ccmdValue (op : Nat) (desc : BitVec 11) : DWord := BitVec.ofNat 64 (2 ^ 63 + op * 2 ^ 60 + desc.toNat)
/-- CCMD OP 0, resume (R445). -/
def execCcmdResume (die : Nat) (desc : BitVec 11) (s : State) : Host.Outcome State Fault Refusal :=
  .next (if s.pf die then s.ccmdWrite die (ccmdValue 0 desc) else s)
/-- CCMD OP 1, end (R445). -/
def execCcmdEnd (die : Nat) (desc : BitVec 11) (s : State) : Host.Outcome State Fault Refusal :=
  .next (if s.pf die then s.ccmdWrite die (ccmdValue 1 desc) else s)
/-- CCMD OP 2, save (R445). -/
def execCcmdSave (die : Nat) (desc : BitVec 11) (s : State) : Host.Outcome State Fault Refusal :=
  .next (if s.pf die then s.ccmdWrite die (ccmdValue 2 desc) else s)
/-- CCMD OP 3, load (R445). -/
def execCcmdLoad (die : Nat) (desc : BitVec 11) (s : State) : Host.Outcome State Fault Refusal :=
  .next (if s.pf die then s.ccmdWrite die (ccmdValue 3 desc) else s)

/-! ## REHAUL and JTAIL (R455, R458) -/

/-- Write REHAUL: ignored while GO is 1. GO stays only where the slot is one that can be hauled again. -/
def State.rehaulWrite (s : State) (d : Nat) (v : DWord) : State :=
  if bit (s.ctl d 0x460) 63 then s
  else
    let k := fld v 35 32
    let keep := v &&& (bits 35 32 ||| bits 31 0)
    let h := (s.die d).hauls.find? fun h => h.wb % 2 ^ 32 == fld v 31 0 && !h.failed && h.pub k
    match h with
    | some h =>
      if bit v 63 then
        (s.setCtl d 0x460 (keep ||| bits 63 63)).modDie d fun x => x.modHaul h.wb fun h =>
          { h with slots := h.slots.modify k fun x => { x with rehaul := true } }
      else s.setCtl d 0x460 keep
    | none => s.setCtl d 0x460 keep
/-- REHAUL (R455). -/
def execRehaul (die slot entry : Nat) (s : State) : Host.Outcome State Fault Refusal :=
  .next (if s.pf die then
    s.rehaulWrite die (BitVec.ofNat 64 (2 ^ 63 + slot % 16 * 2 ^ 32 + entry % 2 ^ 32)) else s)
/-- Write JTAIL: JFULL clears (R458). -/
def State.jtail (s : State) (d : Nat) (v : DWord) : State :=
  (s.setCtl d 0x410 v).setCtl d 0x418 (s.ctl d 0x418 &&& 0x7FFFFFFFFFFFFFFF#64)
/-- JTAIL_WRITE (R458). -/
def execJtailWrite (die : Nat) (v : DWord) (s : State) : Host.Outcome State Fault Refusal :=
  .next (if s.pf die then s.jtail die v else s)

/-! ## Ports (R407) -/

/-- Train an external port under its ROLE: it is untrained until the training completes. -/
def State.trainPort (s : State) (p : Nat) : State :=
  let v := s.coll.mgmt.get (0x200 + 8 * p)
  let s := s.setMgmt (0x200 + 8 * p) (v &&& bits 63 62)
  { s with coll := { s.coll with trained := s.coll.trained.set p (fld v 63 62) } }
/-- PORT_TRAIN (R407). -/
def execPortTrain (p : Nat) (s : State) : Host.Outcome State Fault Refusal :=
  .next (if s.pf4 && p < 36 then s.trainPort p else s)

/-! ## Freeze (R456) -/

/-- Stop every clock of the package; FRZTTC takes logical die 0's TTC. -/
def State.freezeAll (s : State) : State :=
  if s.frozen then s else { s.setMgmt 0x808 (BitVec.ofNat 64 (s.ttc 0)) with frozen := true }

/-! ## Register writes (R11) -/

/-- RW and W1C bits of a plain register of the control window (R299, R334, R405, R445, R458). -/
def ctlMask (off : Nat) : DWord × DWord :=
  let w (m : DWord) : DWord × DWord := (m, 0)
  if off = 0x0 then w (bits 19 0)
  else if 0x20 ≤ off && off ≤ 0x40 then w (bits 63 0)
  else if off = 0x50 then w (bits 63 63 ||| bits 52 0)
  else if 0x58 ≤ off && off ≤ 0x70 then w (bits 63 0)
  else if 0x80 ≤ off && off ≤ 0x90 then w (bits 51 0)
  else if off = 0xA0 then w (bits 56 12)
  else if off = 0xB0 then w (bits 7 0)
  else if off = 0x300 then w (bits 63 63 ||| bits 51 12 ||| bits 4 0)
  else if off = 0x310 then w (bits 31 0)
  else if off = 0x318 then w (bits 63 0)
  else if off = 0x328 then w (bits 51 0)
  else if off = 0x338 then w (bits 31 0)
  else if off = 0x400 then w (bits 63 63 ||| bits 51 12 ||| bits 4 0)
  else if off = 0x418 then (0, bits 62 61)
  else if off = 0x420 then w (bits 63 63 ||| bits 51 12)
  else if off = 0x428 || off = 0x440 || off = 0x448 then w (bits 63 0)
  else if off = 0x450 then (0, bits 63 63)
  else (0, 0)
/-- Write a plain register of a die's control window. When EN of the journal falls, its open runs are written. -/
def State.plainCtl (s : State) (d off : Nat) (v : DWord) : State :=
  let s := if off = 0x400 && !bit v 63 && s.recording d then s.flushRuns d else s
  let m := ctlMask off
  if m = (0, 0) then s else s.setCtl d off (regWrite m.1 m.2 (s.ctl d off) v)
/-- Write a register of a die's control window. -/
def State.hostCtl (s : State) (d off : Nat) (v : DWord) : State :=
  if 0x100 ≤ off && off < 0x300 then
    s.modDie d fun x => { x with ccnt := x.ccnt.set ((off - 0x100) / 8) (BitVec.ofNat 32 (fld v 31 0)) }
  else match off with
    | 0x8 => s.preempt d v
    | 0xA8 => s.invWrite d v
    | 0x320 => s.ccmdWrite d v
    | 0x410 => s.jtail d v
    | 0x460 => s.rehaulWrite d v
    | _ => s.plainCtl d off v
/-- Write a register of the management window (R407). -/
def State.mgmtWrite (s : State) (off : Nat) (v : DWord) : State :=
  let put (rw w1c : DWord) : State := s.setMgmt off (regWrite rw w1c (s.coll.mgmt.get off) v)
  if off = 0x10 then put (bits 15 0) 0
  else if off = 0x20 then put 0 (bits 15 14 ||| bits 11 0)
  else if off = 0x30 then put (bits 39 19) 0
  else if 0x200 ≤ off && off < 0x320 then
    let s := put (bits 63 62) 0
    if bit v 54 then s.trainPort ((off - 0x200) / 8) else s
  else if off = 0x800 then (if bit v 63 then s.freezeAll else s)
  else if 0x1000 ≤ off && off < 0x3000 then put (bits 63 63 ||| bits 61 56 ||| bits 47 32 ||| bits 15 0) 0
  else if 0x3000 ≤ off && off < 0x3800 then put (bits 63 0) 0
  else s
/-- Write 8 aligned bytes of a window. -/
def State.windowWrite (s : State) (w : Window) (off : Nat) (v : DWord) : State :=
  match w with
  | .control d => if s.pf d then s.hostCtl d off v else s
  | .queue d => if s.pf d then s.queueWrite d off v else s
  | .management => if s.pf4 then s.mgmtWrite off v else s

/-! ## Register reads (R11) -/

/-- A register of a die's control window as it reads: PREQ is write-only, JSTAT shows what is reserved (R299, R334, R405,
R445, R458). -/
def State.ctlRead (s : State) (d off : Nat) : DWord :=
  if off = 0x8 then 0
  else if 0x100 ≤ off && off < 0x300 then ((s.die d).ccnt.get ((off - 0x100) / 8)).setWidth 64
  else if off = 0x418 then (s.ctl d off &&& bits 63 32) ||| (if s.recording d then BitVec.ofNat 64 (s.reserved d % 2 ^ 32) else 0)
  else s.ctl d off
/-- A register of a queue window as it reads: ENTRY and DOORBELL are write-only; COUNT is what the queue holds (R406). -/
def State.queueRead (s : State) (d off : Nat) : DWord :=
  let w := (s.die d).qwin.get (off / 4096)
  match off % 4096 with
  | 0x108 => BitVec.ofNat 64 (w.refused.toNat * 2 ^ 63 + w.err.toNat * 2 ^ 62 + w.lastent % 2 ^ 32 * 2 ^ 6
      + ((s.die d).queues.get (off / 4096)).length % 64)
  | 0x110 => BitVec.ofNat 64 (w.errent % 2 ^ 32)
  | _ => 0
/-- A register of the management window as it reads: TRN and FRZ are write-only, and FRZTTC is readable through the debug
port only (R407, R456). -/
def State.mgmtRead (s : State) (off : Nat) : DWord :=
  if off = 0x800 || off = 0x808 then 0 else s.coll.mgmt.get off
/-- A read of 8 aligned bytes of a window. -/
def State.windowRead (s : State) (w : Window) (off : Nat) : DWord :=
  match w with
  | .control d => if s.pf d then s.ctlRead d off else 0
  | .queue d => if s.pf d then s.queueRead d off else 0
  | .management => if s.pf4 then s.mgmtRead off else 0
/-- REGISTER_WRITE (R11, R404): 8 aligned bytes of a window; what is not listed ignores writes. What the register reads
from then on is left in `hostOut` (log 78). -/
def execRegisterWrite (w : Window) (off : Nat) (v : DWord) (s : State) : Host.Outcome State Fault Refusal :=
  .next (
    if off % 8 ≠ 0 || 65536 ≤ off then s
    else
      let t := s.windowWrite w off v
      { t with hostOut := leBytes 8 (t.windowRead w off).toNat })

/-! ## Memory (R404) -/

/-- Read or write keyed memory for the host: no data to write means a read, which meets soft errors (R447); bytes of poisoned
units are free values. -/
def State.hostAccess (s : State) (k n : Nat) (data : List Byte) : State :=
  if data.isEmpty then
    let s := s.meet 0 k n
    let v := (upFrom k n).map fun a =>
      if s.poisoned a 1 then Config.freeBits 8 (s.freeCtr + (a - k)) else s.mem.read a
    { s with hostOut := v, freeCtr := s.freeCtr + n }
  else s.store k data
/-- HOST_MEMORY_ACCESS (R404): BAR4 reaches the die's HBM4, untranslated. -/
def execHostMemoryAccess (die addr n : Nat) (data : List Byte) (s : State) : Host.Outcome State Fault Refusal :=
  .next (if s.pf die && addr + max n data.length ≤ hbmEnd then s.hostAccess (dieKey die addr) n data else s)
/-- LOAD_WINDOW_ACCESS (R404): the upper half of PF4's BAR2 shows LPDDR6 from LDBASE on. -/
def execLoadWindowAccess (off n : Nat) (data : List Byte) (s : State) : Host.Outcome State Fault Refusal :=
  let base := fld (s.coll.mgmt.get 0x30) 39 19 * 0x80000
  .next (
    if s.pf4 && 0x80000 ≤ off && off + max n data.length ≤ 0x100000 then
      s.hostAccess (tierKey (base + (off - 0x80000))) n data
    else s)

end Sys2Proof.Machine
end

