-- ==== Sys2Proof/Machine/Package.lean ====
section
/-! DEFINITION. The package as a whole: links, boot and provisioning, attestation, resets, power, freeze, read-out (R333,
R407 to R411, R447, R448, R452, R454, R456, R457). -/

namespace Sys2Proof.Machine

/-! ## Links (R447, R448, R452) -/

/-- The die of a link that belongs to one. -/
def linkDie (link : Nat) : Option Nat :=
  if link < 36 then none else if link < 40 then some (link - 36) else if link < 64 then none
  else some ((link - 64) / 2048 % 4)
/-- The dies that a link's retry freezes: its own, or every timetabled one for an external port. -/
def linkDies (link : Nat) : List Nat :=
  match linkDie link with
  | some d => [d]
  | none => upFrom 0 4
/-- LINK_RETRY (R447, R448): a flit is sent again; a correction of its die is counted. -/
def execLinkRetry (link : Nat) (s : State) : Host.Outcome State Fault Refusal :=
  let s := { s with coll := { s.coll with linkRetry := s.coll.linkRetry.modify link (· + 1) } }
  let s := s.incCtl ((linkDie link).getD 0) 0x440
  .next ((linkDies link).foldl (fun s d => s.freezeFor d) s)

/-- A packet crosses a link that is not a neighbour FIFO's. -/
def State.crosses (s : State) (link : Nat) (p : Pkt) : Bool :=
  let out := p.dst.module ≠ s.modnum || p.src.module ≠ s.modnum
  if link < 36 then out && (s.route (if p.dst.module ≠ s.modnum then p.dst.module else p.src.module)) == some link
  else if link < 40 then
    (out || 2 ≤ p.dst.kind) && (p.src.die == link - 36 || (p.dst.kind ≤ 1 && p.dst.die == link - 36))
  else some p.src.die == linkDie link || (p.dst.kind ≤ 1 && some p.dst.die == linkDie link)
/-- The packet of a flit, if it is one. -/
def Flit.pkt? : Flit → Option Pkt
  | .pkt p | .refused p | .timed p => some p
  | _ => none
/-- The flit was in flight on a link: for a link that it may have crossed, a free choice. -/
def State.lostOn (s : State) (link : Nat) (x : InFlight) : Bool :=
  match x.flit.pkt? with
  | some p => s.crosses link p && Config.freeNat 11 (s.freeCtr + x.id) % 2 = 0
  | none => Config.freeNat 11 (s.freeCtr + x.id) % 2 = 0
/-- The flits in flight on a link are lost; a timed one aborts its domain. -/
def State.loseFlits (s : State) (link : Nat) : State :=
  let gone := s.net.filter fun x => s.lostOn link x
  let timed := gone.filterMap fun x => match x.flit with
    | .timed p => some p.src.die
    | _ => none
  let n := s.flitNo + 1
  let s := { s with net := s.net.filter (fun x => !s.lostOn link x), freeCtr := s.freeCtr + n }
  timed.foldl (fun s d => s.abortDomain d) s
/-- The tile that pushes into a FIFO of a tile. -/
def pusherOf (tile dir : Nat) : Nat :=
  match dir with
  | 0 => tile - 32
  | 1 => tile + 1
  | 2 => tile + 32
  | _ => tile - 1
/-- The rows in flight into a FIFO are lost, and their contexts take link retry exhausted (R452). Its status names the link,
in a numbering that the spec does not give: a free value, DESIGN CHOICE (log 44). -/
def State.loseRows (s : State) (d tile dir : Nat) : State :=
  let l := (s.tile d tile).fifoIn.filter fun r => r.dir == dir && s.now < r.cycle
  let ctxs := (upFrom 0 4).filter fun c => l.any fun r => r.ctx == c
  let s := s.modTile d tile fun t => { t with fifoIn := t.fifoIn.filter fun r => !(r.dir == dir && s.now < r.cycle) }
  ctxs.foldl (fun s c => (s.raiseAt d (pusherOf tile dir) c
    { cause := 0xA6, kind := 5, eng := 13, status := Config.freeNat 15 s.freeCtr % 2 ^ 32 }).bump) s
/-- A link is down: what was in flight on it is lost, and the event is raised. -/
def State.downLink (s : State) (link : Nat) : State :=
  let s := { s with coll := { s.coll with
    linkDown := link :: s.coll.linkDown.filter (· != link), linkRetry := s.coll.linkRetry.erase link } }
  let s := if link < 36 then
      (s.setMgmt (0x200 + 8 * link) (s.coll.mgmt.get (0x200 + 8 * link) &&& ~~~(bits 55 55))).setMgmt 0x28
        (s.coll.mgmt.get 0x28 ||| bits link link)
    else s
  let s := s.loseFlits link
  let s := if 64 ≤ link then s.loseRows ((link - 64) / 2048 % 4) ((link - 64) / 4 % 512) ((link - 64) % 4) else s
  s.event 15
/-- LINK_DOWN (R452): a link whose retries fail 16 times in a row. -/
def execLinkDown (link : Nat) (s : State) : Host.Outcome State Fault Refusal :=
  .next (if 16 ≤ s.coll.linkRetry.get link && !s.coll.linkDown.contains link then s.downLink link else s)
/-- LINK_TRAINING_COMPLETE (R407, R408): an external port comes up at its level; a die link at 32 GT/s (level 2) or 16
(level 1). -/
def execLinkTrainingComplete (p level : Nat) (s : State) : Host.Outcome State Fault Refusal :=
  let v := s.coll.mgmt.get (0x200 + 8 * p)
  let role := s.coll.trained.get p
  let up (s : State) : State := { s with coll := { s.coll with linkDown := s.coll.linkDown.filter (· != p) } }
  .next (
    if level ≠ 1 && level ≠ 2 then s
    else if p < 36 then
      if fld v 59 55 = 0 && (role == 1 || (role == 2 && level == 1)) then
        up ((s.setMgmt (0x200 + 8 * p) (v ||| bits 55 55 ||| BitVec.ofNat 64 (level * 2 ^ 56))).setMgmt 0x28
          (s.coll.mgmt.get 0x28 &&& ~~~(bits p p)))
      else s
    else if p < 40 then
      let s := up s
      { s with coll := { s.coll with slow := s.coll.slow.filter (· != p) ++ if level = 1 then [p] else [] } }
    else s)

/-! ## Boot and provisioning (R407, R409) -/

/-- BOOTST changes, and with it EVENT.BOOT. -/
def State.setBoot (s : State) (v : Nat) : State := (s.setMgmt 0x18 (BitVec.ofNat 64 v)).event 14
/-- The boot ROM verifies the image in flash: the firmware then trains the links and enables the dies, or the
collective die is in recovery. -/
def State.boot (s : State) : State :=
  let img := s.coll.flash
  if img.isEmpty then s.setBoot 0x43
  else
    let rsa := Config.imageVerifies 0 img
    let slh := Config.imageVerifies 1 img
    if rsa && slh then
      { s.setBoot 4 with
        dies := s.dies.map fun e => (e.1, { e.2 with enabled := true }) }
    else s.setBoot (3 + (if rsa then 0 else 16) + (if slh then 0 else 32))
/-- Every die reset, with given incarnations: nothing is kept but what the host, the board and the flash hold. -/
def State.restart (s : State) (inc : Nat → Nat) : State :=
  let die (d : Nat) : Die :=
    let x := Die.afterReset false (inc d)
    { x with ctl := x.ctl.set 0x78 (BitVec.ofNat 64 (inc d)) }
  { State.reset with
    now := s.now
    freeCtr := s.freeCtr
    flitNo := s.flitNo
    mem := s.mem.filter fun c => 5 * region ≤ c.1 && c.1 < 6 * region
    dies := (upFrom 0 4).map fun d => (d, die d)
    coll := { Coll.afterReset with flash := s.coll.flash, boardInc := s.coll.boardInc }
    msix := s.msix }
/-- A module reset (R456): each die's incarnation advances (R333), and the module boots. -/
def State.resetModule (s : State) : State :=
  (s.restart fun d => ((s.die d).inc + 1) % Config.incMod).boot
/-- MODULE_RESET (R456). -/
def execModuleReset (s : State) : Host.Outcome State Fault Refusal := .next (if s.power then s.resetModule else s)
/-- The incarnations after power-on (R411). -/
def State.powerInc (s : State) (d : Nat) : Nat :=
  match s.coll.boardInc.find? d with
  | some n => (n + 1) % Config.incMod
  | none => 0
/-- POWER_ON (R411): every die is reset, and the module boots. -/
def execPowerOn (s : State) : Host.Outcome State Fault Refusal :=
  .next (if s.power then s else (s.restart s.powerInc).boot)
/-- MAIN_POWER_OFF (R411): nothing runs and nothing is kept; the board's controller holds the last incarnations. -/
def execMainPowerOff (s : State) : Host.Outcome State Fault Refusal :=
  let inc := (upFrom 0 4).map fun d => (d, (s.die d).inc)
  .next (if !s.power then s
    else
      let t := s.restart fun _ => 0
      { t with power := false, coll := { t.coll with boardInc := inc } })

/-- PROVISIONING_WRITE (R409): in recovery the host writes an image; once both its signatures verify, the ROM writes it
to flash and resets the module. -/
def execProvisioningWrite (off : Nat) (data : List Byte) (s : State) : Host.Outcome State Fault Refusal :=
  let old := s.coll.image ++ List.replicate (off - s.coll.image.length) (0 : Byte)
  let img := old.take off ++ data ++ old.drop (off + data.length)
  .next (
    if s.bootState ≠ 3 || 0x80000 < off + data.length then s
    else if Config.imageVerifies 0 img && Config.imageVerifies 1 img then
      { s with coll := { s.coll with flash := img } }.resetModule
    else { s with coll := { s.coll with image := img } })

/-- The report of R410 up to its signatures: report version 1 and the part number code, 4 bytes each: DESIGN CHOICE (log 98). -/
def State.reportBody (s : State) (nonce : BitVec 256) : List Byte :=
  leBytes 4 1 ++ (upFrom 0 4).map (Config.fusedByte 0) ++ (upFrom 0 16).map (Config.fusedByte 1)
    ++ leBytes 8 (s.coll.mgmt.get 8).toNat ++ (upFrom 0 48).map (Config.digestByte s.coll.flash)
    ++ leBytes 32 nonce.toNat
/-- ATTESTATION_REQUEST (R410): the signed report. -/
def execAttestationRequest (nonce : BitVec 256) (s : State) : Host.Outcome State Fault Refusal :=
  let b := s.reportBody nonce
  let r := b ++ (upFrom 0 384).map (Config.signByte 0 b) ++ (upFrom 0 29792).map (Config.signByte 1 b)
  .next (if s.pf4 then { s with coll := { s.coll with report := r }, hostOut := r } else s)

/-! ## A die reset (R270, R333, R411, R454) -/

/-- The other dies have learned of a die's number until now. -/
def State.learnOld (s : State) (d : Nat) : State :=
  let key := s.modnum * 4 + d
  (upFrom 0 4).foldl (fun s e =>
    if e = d || (s.knownInc (some e) key).isSome then s else s.keepInc (some e) key (s.die d).inc) s
/-- Reset a die; its links train again (R452). -/
def State.resetDie (s : State) (d : Nat) : State :=
  let s := (s.abortDomain d).learnOld d
  let key := s.modnum * 4 + d
  let inc := ((s.die d).inc + 1) % Config.incMod
  let x := Die.afterReset (s.die d).enabled inc
  let x := { x with ctl := x.ctl.set 0x78 (BitVec.ofNat 64 inc), incOf := (s.die d).incOf.set key inc }
  let dies : FMap Die := (s.dies.set d x).map fun (e : Nat × Die) => (e.1, { e.2 with ttc := 0, ttcOf := [] })
  let ours (k : Nat) : Bool := linkDie k == some d
  let s := { s with
    coll := { s.coll with
      linkDown := s.coll.linkDown.filter fun k => !ours k
      linkRetry := s.coll.linkRetry.filter fun e => !ours e.1 }
    dies := dies
    tiles := s.tiles.filter fun e => e.1 / 512 != d
    ctxs := s.ctxs.filter fun e => e.1 / 4096 != d
    trackers := s.trackers.filter fun e => !trackerOf (some d) e.1 }
  (s.freeSource none key).keepInc none key inc
/-- DIE_RESET (R454). -/
def execDieReset (die : Nat) (s : State) : Host.Outcome State Fault Refusal :=
  .next (if s.power && die < 4 then s.resetDie die else s)

/-! ## Freeze and read-out (R456, R457) -/

/-- FRZ_WRITE (R456). -/
def execFrzWrite (s : State) : Host.Outcome State Fault Refusal := .next (if s.pf4 then s.freezeAll else s)
/-- FREEZE_PIN (R456). -/
def execFreezePin (s : State) : Host.Outcome State Fault Refusal := .next (if s.power then s.freezeAll else s)
/-- The number of a packet's kind, for the debug port. -/
def PktKind.code : PktKind → Nat
  | .store => 0
  | .signal => 1
  | .close => 2
  | .load => 3
  | .update => 4
/-- A packet as the debug port shows it: its source, number, epoch, kind, endpoint, address, length and bytes. -/
def Pkt.bytes (p : Pkt) : List Byte :=
  d8 (p.src.module * 2 ^ 48 + p.src.die * 2 ^ 46 + p.src.tile * 2 ^ 37 + p.src.ctx * 2 ^ 35 + p.src.stm * 2 ^ 31 + p.seq * 2 ^ 19
      + p.epoch * 2 ^ 11 + (if p.cl then 8 else 0) + p.kind.code)
    ++ d8 (p.dst.module * 2 ^ 48 + p.dst.key) ++ d8 p.addr ++ d8 p.len ++ p.data
/-- A half of a loop buffer as the debug port shows it: whether it is valid, the segment, the syllables read. -/
def Half.bytes (h : Half) : List Byte :=
  d8 (h.valid.toNat * 2 ^ 63 + h.addr) ++ d8 h.syls.length ++ h.syls.flatMap fun w => leBytes 4 w.toNat
/-- A segment of the debug port beyond the contexts' state and the memories (R457), in a layout of the model's: DESIGN CHOICE
(log 79). n is 8 × tile + context, a tile, or the key of an endpoint. -/
def State.debugSegment (s : State) (d seg n : Nat) : List Byte :=
  let t := s.tile d n
  let cmds (l : List Cmd) : List Byte := d8 l.length ++ l.flatMap Cmd.bytes
  let pkts (l : List Pkt) : List Byte := d8 l.length ++ l.flatMap Pkt.bytes
  match seg with
  | 0 => let x := s.lead d (n / 8) (n % 8); x.h0.bytes ++ x.h1.bytes
  | 1 => let h := (s.lead d (n / 8) (n % 8)).hist; d8 h.length ++ h.flatMap Issued.bytes
  | 2 => cmds (t.runs.map (·.cmd)) ++ (upFrom 0 4).flatMap fun c => cmds (s.ctx d n c).e.queue
  | 3 =>
    let k := s.trackers.get n
    d8 k.entries.length ++ k.entries.flatMap (fun e => d8 (e.src.module * 2 ^ 48 + e.src.die * 2 ^ 46 + e.src.tile * 2 ^ 37
        + e.src.ctx * 2 ^ 35 + e.src.stm * 2 ^ 31 + e.epoch * 2 ^ 13 + e.e * 2 + e.broken.toNat))
  | 4 => pkts (s.trackers.get n).reorder
  | 5 => pkts t.retx
  | 6 => (upFrom 0 64).flatMap fun i => leBytes 4 (t.sems.get i).toNat
  | 7 => (upFrom 0 4).flatMap fun k =>
      d8 (t.fifo.get k).length ++ (t.fifo.get k).flatMap fun e => d8 e.1 ++ leBytes 64 e.2.toNat
  | _ => []
/-- DEBUG_PORT_READ (R457): a context's state at a tile, as the tile section of R441; beyond the tiles FRZTTC, 64 bytes of the
die's HBM4, 64 bytes of LPDDR6, and then the loop buffers, issue histories, engine queues, trackers, reorder and retransmit
buffers, semaphores, FIFOs and the journal write buffer, which is empty (log 26). -/
def execDebugPortRead (die tile ctx : Nat) (s : State) : Host.Outcome State Fault Refusal :=
  .next (
    if !s.power then s
    else if tile = 512 then { s with hostOut := leBytes 8 (s.coll.mgmt.get 0x808).toNat }
    else if tile = 513 then s.hostAccess (dieKey die (64 * ctx)) 64 []
    else if tile = 514 then s.hostAccess (tierKey (64 * ctx)) 64 []
    else if 514 < tile then { s with hostOut := s.debugSegment die (tile - 515) ctx }
    else { s with hostOut := s.tileSection die (s.leadTileOf die tile) tile ctx })

end Sys2Proof.Machine
end

