-- ==== Sys2Proof/Machine/Walks.lean ====
section
/-! DEFINITION. Page walks for the translation streams of a tile (R283 to R285, R381, R385). -/

namespace Sys2Proof.Machine

/-- The miss handler is enabled (R299). -/
def State.missEnabled (s : State) (d : Nat) : Bool := bit (s.ctl d 0x50) 63
/-- What a walk or a fault of the range table does with a miss (R283, R285): the handler is entered, up to four times for
one access, or the fault is declined. -/
def State.missFault (s : State) (d t : Nat) (m : Miss) (f : XFault) : State :=
  if s.missEnabled d && m.entries < 4 then s.enterShadow d t m f
  else s.modTile d t fun x => { x with miss := some { m with kind := f.kind, status := f.status, declined := true } }

/-! ## The walkers (R385) -/

/-- The page is in the die's TLB. -/
def State.tlbHas (s : State) (d asid page : Nat) : Bool := (s.die d).tlb.any fun e => e.asid == asid && e.page == page
/-- The translations that the tiles of a die have outstanding and that walk: the cycle in which each was asked for, and its
tile. -/
def State.walking (s : State) (d : Nat) : List (Nat × Nat) :=
  s.tiles.flatMap fun e =>
    if e.1 / 512 ≠ d then []
    else
      let t := e.1 % 512
      let asid := (s.car d t).asid
      (match e.2.miss with
        | some m => if m.shadow || m.declined || m.sf.isSome || s.tlbHas d asid (m.va / 4096) then [] else [(m.since, t)]
        | none => [])
      ++ (match e.2.pipeB with
        | some (a, page, since) => if s.tlbHas d a page then [] else [(since, t)]
        | none => [])
      ++ match e.2.gen with
        | some (_, a, page, since) => if s.tlbHas d a page then [] else [(since, t)]
        | none => []
/-- A request has one of the die's 64 walkers: fewer than 64 others came before it. Of one cycle the lower tile stands
first, DESIGN CHOICE (log 91). -/
def State.hasWalker (s : State) (d t since : Nat) : Bool :=
  ((s.walking d).filter fun e => e.1 < since || (e.1 == since && e.2 < t)).length < 64

/-- The general stream of a tile gets the translation that it has asked for (R385): the micro-TLB is filled. Where it
faults, the access that asked finds the fault when it begins. -/
def State.fillGeneral (s : State) (d t : Nat) : State :=
  match (s.tile d t).gen with
  | none => s
  | some (stream, asid, page, since) =>
    if s.now ≤ since || !(s.tlbHas d asid page || s.hasWalker d t since) then s
    else
      let (s, r) := s.translate d asid (page * 4096)
      s.modTile d t fun x =>
        let x := { x with gen := none }
        match r with
        | .ok _ => x.fill stream asid page
        | .error _ => { x with piped := x.piped ++ [(stream, asid, page)] }
/-- A matrix load pipe gets the translation that it misses (R283, R381): the tile goes on, or the fault is handled. A
handler that trapped has declined (R284). -/
def State.fillMatrix (s : State) (d t : Nat) : State :=
  match (s.tile d t).miss with
  | none => s
  | some m =>
    let asid := (s.car d t).asid
    if m.shadow || m.declined || s.now ≤ m.since then s
    else if m.sf.isSome then s.modTile d t fun x => { x with miss := some { m with declined := true } }
    else if !(s.tlbHas d asid (m.va / 4096) || s.hasWalker d t m.since) then s
    else
      let (s, r) := s.reach d asid (if m.write then .write else .read) m.va
      match r with
      | .ok _ => s.modTile d t fun x => { x.fill 2 asid (m.va / 4096) with miss := none }
      | .error f => s.missFault d t m f
/-- The other load pipe gets the translation that it has asked for beside a miss (R385). A fault is found as its row is
taken. -/
def State.fillPipeB (s : State) (d t : Nat) : State :=
  match (s.tile d t).pipeB with
  | none => s
  | some (asid, page, since) =>
    if s.now ≤ since || !(s.tlbHas d asid page || s.hasWalker d t since) then s
    else
      let (s, r) := s.translate d asid (page * 4096)
      s.modTile d t fun x => match r with
        | .ok _ => { x.fill 2 asid page with pipeB := none }
        | .error _ => { x with pipeB := none }
/-- PAGE_WALK_COMPLETE (R283, R381, R385). -/
def execPageWalkComplete (die tile : Nat) (s : State) : Host.Outcome State Fault Refusal :=
  .next (((s.fillMatrix die tile).fillPipeB die tile).fillGeneral die tile)

end Sys2Proof.Machine
end

