-- ==== Sys2Proof/Machine/Dispatch.lean ====
section
/-! DEFINITION. One arm per row of spec/opcode_table.json. -/

namespace Sys2Proof.Machine

def exec (i : Instr) (s : State) : Host.Outcome State Fault Refusal :=
  match i with
  | .add f => Sys2Proof.Machine.execAdd f s
  | .sub f => Sys2Proof.Machine.execSub f s
  | .mul f => Sys2Proof.Machine.execMul f s
  | .mulh f => Sys2Proof.Machine.execMulh f s
  | .mulhz f => Sys2Proof.Machine.execMulhz f s
  | .div f => Sys2Proof.Machine.execDiv f s
  | .divz f => Sys2Proof.Machine.execDivz f s
  | .rem f => Sys2Proof.Machine.execRem f s
  | .remz f => Sys2Proof.Machine.execRemz f s
  | .and f => Sys2Proof.Machine.execAnd f s
  | .or f => Sys2Proof.Machine.execOr f s
  | .xor f => Sys2Proof.Machine.execXor f s
  | .andn f => Sys2Proof.Machine.execAndn f s
  | .shl f => Sys2Proof.Machine.execShl f s
  | .shr f => Sys2Proof.Machine.execShr f s
  | .sar f => Sys2Proof.Machine.execSar f s
  | .rotl f => Sys2Proof.Machine.execRotl f s
  | .clz f => Sys2Proof.Machine.execClz f s
  | .ctz f => Sys2Proof.Machine.execCtz f s
  | .popc f => Sys2Proof.Machine.execPopc f s
  | .min f => Sys2Proof.Machine.execMin f s
  | .max f => Sys2Proof.Machine.execMax f s
  | .minz f => Sys2Proof.Machine.execMinz f s
  | .maxz f => Sys2Proof.Machine.execMaxz f s
  | .addsh f => Sys2Proof.Machine.execAddsh f s
  | .sel f => Sys2Proof.Machine.execSel f s
  | .addi f => Sys2Proof.Machine.execAddi f s
  | .movi f => Sys2Proof.Machine.execMovi f s
  | .movhi f => Sys2Proof.Machine.execMovhi f s
  | .cmp f => Sys2Proof.Machine.execCmp f s
  | .pset f => Sys2Proof.Machine.execPset f s
  | .plog f => Sys2Proof.Machine.execPlog f s
  | .ld f => Sys2Proof.Machine.execLd f s
  | .st f => Sys2Proof.Machine.execSt f s
  | .fadd f => Sys2Proof.Machine.execFadd f s
  | .fsub f => Sys2Proof.Machine.execFsub f s
  | .fmul f => Sys2Proof.Machine.execFmul f s
  | .fma f => Sys2Proof.Machine.execFma f s
  | .fdiv f => Sys2Proof.Machine.execFdiv f s
  | .fsqrt f => Sys2Proof.Machine.execFsqrt f s
  | .fmin f => Sys2Proof.Machine.execFmin f s
  | .fmax f => Sys2Proof.Machine.execFmax f s
  | .fcmp f => Sys2Proof.Machine.execFcmp f s
  | .fcvt f => Sys2Proof.Machine.execFcvt f s
  | .fclass f => Sys2Proof.Machine.execFclass f s
  | .fchk f => Sys2Proof.Machine.execFchk f s
  | .movsys f => Sys2Proof.Machine.execMovsys f s
  | .movctlRead f => Sys2Proof.Machine.execMovctlRead f s
  | .movctlWrite f => Sys2Proof.Machine.execMovctlWrite f s
  | .movstg f => Sys2Proof.Machine.execMovstg f s
  | .rdstg f => Sys2Proof.Machine.execRdstg f s
  | .rst f => Sys2Proof.Machine.execRst f s
  | .rstf f => Sys2Proof.Machine.execRstf f s
  | .rld f => Sys2Proof.Machine.execRld f s
  | .vadd f => Sys2Proof.Machine.execVadd f s
  | .vsub f => Sys2Proof.Machine.execVsub f s
  | .vmul f => Sys2Proof.Machine.execVmul f s
  | .vmulh f => Sys2Proof.Machine.execVmulh f s
  | .vfma f => Sys2Proof.Machine.execVfma f s
  | .vmin f => Sys2Proof.Machine.execVmin f s
  | .vmax f => Sys2Proof.Machine.execVmax f s
  | .vabs f => Sys2Proof.Machine.execVabs f s
  | .vneg f => Sys2Proof.Machine.execVneg f s
  | .vand f => Sys2Proof.Machine.execVand f s
  | .vor f => Sys2Proof.Machine.execVor f s
  | .vxor f => Sys2Proof.Machine.execVxor f s
  | .vandn f => Sys2Proof.Machine.execVandn f s
  | .vshl f => Sys2Proof.Machine.execVshl f s
  | .vshr f => Sys2Proof.Machine.execVshr f s
  | .vsar f => Sys2Proof.Machine.execVsar f s
  | .vcmp f => Sys2Proof.Machine.execVcmp f s
  | .vsel f => Sys2Proof.Machine.execVsel f s
  | .vclz f => Sys2Proof.Machine.execVclz f s
  | .vpopc f => Sys2Proof.Machine.execVpopc f s
  | .vcrc f => Sys2Proof.Machine.execVcrc f s
  | .vmov f => Sys2Proof.Machine.execVmov f s
  | .klog f => Sys2Proof.Machine.execKlog f s
  | .vsplat f => Sys2Proof.Machine.execVsplat f s
  | .vext f => Sys2Proof.Machine.execVext f s
  | .vins f => Sys2Proof.Machine.execVins f s
  | .vld f => Sys2Proof.Machine.execVld f s
  | .vst f => Sys2Proof.Machine.execVst f s
  | .vgather f => Sys2Proof.Machine.execVgather f s
  | .vscatter f => Sys2Proof.Machine.execVscatter f s
  | .gset f => Sys2Proof.Machine.execGset f s
  | .greset f => Sys2Proof.Machine.execGreset f s
  | .vrotr f => Sys2Proof.Machine.execVrotr f s
  | .vrotc f => Sys2Proof.Machine.execVrotc f s
  | .vbcr f => Sys2Proof.Machine.execVbcr f s
  | .vbcc f => Sys2Proof.Machine.execVbcc f s
  | .vredr f => Sys2Proof.Machine.execVredr f s
  | .vredc f => Sys2Proof.Machine.execVredc f s
  | .vscanR f => Sys2Proof.Machine.execVscanR f s
  | .vscanC f => Sys2Proof.Machine.execVscanC f s
  | .vtrn f => Sys2Proof.Machine.execVtrn f s
  | .vshfr f => Sys2Proof.Machine.execVshfr f s
  | .vtopk f => Sys2Proof.Machine.execVtopk f s
  | .vcvt f => Sys2Proof.Machine.execVcvt f s
  | .vrcp f => Sys2Proof.Machine.execVrcp f s
  | .vrsq f => Sys2Proof.Machine.execVrsq f s
  | .vsqrt f => Sys2Proof.Machine.execVsqrt f s
  | .vdiv f => Sys2Proof.Machine.execVdiv f s
  | .vexp2 f => Sys2Proof.Machine.execVexp2 f s
  | .vlog2 f => Sys2Proof.Machine.execVlog2 f s
  | .vexp f => Sys2Proof.Machine.execVexp f s
  | .vlog f => Sys2Proof.Machine.execVlog f s
  | .vtanh f => Sys2Proof.Machine.execVtanh f s
  | .vsig f => Sys2Proof.Machine.execVsig f s
  | .vsin f => Sys2Proof.Machine.execVsin f s
  | .vcos f => Sys2Proof.Machine.execVcos f s
  | .qclr f => Sys2Proof.Machine.execQclr f s
  | .qadd f => Sys2Proof.Machine.execQadd f s
  | .qsub f => Sys2Proof.Machine.execQsub f s
  | .qdot f => Sys2Proof.Machine.execQdot f s
  | .qaddq f => Sys2Proof.Machine.execQaddq f s
  | .qsubq f => Sys2Proof.Machine.execQsubq f s
  | .qneg f => Sys2Proof.Machine.execQneg f s
  | .qrnd f => Sys2Proof.Machine.execQrnd f s
  | .qsave f => Sys2Proof.Machine.execQsave f s
  | .qload f => Sys2Proof.Machine.execQload f s
  | .qtov f => Sys2Proof.Machine.execQtov f s
  | .vtoq f => Sys2Proof.Machine.execVtoq f s
  | .mma f => Sys2Proof.Machine.execMma f s
  | .mzero f => Sys2Proof.Machine.execMzero f s
  | .mdrain f => Sys2Proof.Machine.execMdrain f s
  | .mload f => Sys2Proof.Machine.execMload f s
  | .mstore f => Sys2Proof.Machine.execMstore f s
  | .copy f => Sys2Proof.Machine.execCopy f s
  | .bufset f => Sys2Proof.Machine.execBufset f s
  | .bufsetOff f => Sys2Proof.Machine.execBufsetOff f s
  | .publish f => Sys2Proof.Machine.execPublish f s
  | .quant f => Sys2Proof.Machine.execQuant f s
  | .dequant f => Sys2Proof.Machine.execDequant f s
  | .sqld f => Sys2Proof.Machine.execSqld f s
  | .sqclr f => Sys2Proof.Machine.execSqclr f s
  | .xpush f => Sys2Proof.Machine.execXpush f s
  | .xfetch f => Sys2Proof.Machine.execXfetch f s
  | .xflush => Sys2Proof.Machine.execXflush s
  | .xcfg f => Sys2Proof.Machine.execXcfg f s
  | .br => Sys2Proof.Machine.execBr s
  | .brc bp bn => Sys2Proof.Machine.execBrc bp bn s
  | .call bx => Sys2Proof.Machine.execCall bx s
  | .ret bx => Sys2Proof.Machine.execRet bx s
  | .jmpr bx => Sys2Proof.Machine.execJmpr bx s
  | .loop bx imm => Sys2Proof.Machine.execLoop bx imm s
  | .loopRot bx imm => Sys2Proof.Machine.execLoopRot bx imm s
  | .loopw bp bn imm => Sys2Proof.Machine.execLoopw bp bn imm s
  | .yield => Sys2Proof.Machine.execYield s
  | .exit => Sys2Proof.Machine.execExit s
  | .allot bx by' => Sys2Proof.Machine.execAllot bx by' s
  | .shrink by' => Sys2Proof.Machine.execShrink by' s
  | .balloc bx q n => Sys2Proof.Machine.execBalloc bx q n s
  | .bfree bx n => Sys2Proof.Machine.execBfree bx n s
  | .vpark bx n => Sys2Proof.Machine.execVpark bx n s
  | .vunpark bx n => Sys2Proof.Machine.execVunpark bx n s
  | .mlease => Sys2Proof.Machine.execMlease s
  | .mrelease => Sys2Proof.Machine.execMrelease s
  | .launch bx by' q => Sys2Proof.Machine.execLaunch bx by' q s
  | .barcfg bx b => Sys2Proof.Machine.execBarcfg bx b s
  | .bar b => Sys2Proof.Machine.execBar b s
  | .barw b => Sys2Proof.Machine.execBarw b s
  | .bartst bp b => Sys2Proof.Machine.execBartst bp b s
  | .hadv bx => Sys2Proof.Machine.execHadv bx s
  | .ttstart bx by' q => Sys2Proof.Machine.execTtstart bx by' q s
  | .waitany bx => Sys2Proof.Machine.execWaitany bx s
  | .waitall bx => Sys2Proof.Machine.execWaitall bx s
  | .ffr bx by' => Sys2Proof.Machine.execFfr bx by' s
  | .tagclr bx => Sys2Proof.Machine.execTagclr bx s
  | .semw bx n => Sys2Proof.Machine.execSemw bx n s
  | .semsig bx n => Sys2Proof.Machine.execSemsig bx n s
  | .semset bx n => Sys2Proof.Machine.execSemset bx n s
  | .sclose stm => Sys2Proof.Machine.execSclose stm s
  | .fence scope => Sys2Proof.Machine.execFence scope s
  | .rngset bx by' n => Sys2Proof.Machine.execRngset bx by' n s
  | .rngclr by' n => Sys2Proof.Machine.execRngclr by' n s
  | .tlbinv bx by' => Sys2Proof.Machine.execTlbinv bx by' s
  | .tlbinva by' => Sys2Proof.Machine.execTlbinva by' s
  | .tlbinvaAll => Sys2Proof.Machine.execTlbinvaAll s
  | .trap n => Sys2Proof.Machine.execTrap n s
  | .eret => Sys2Proof.Machine.execEret s
  | .eretCtx bx op => Sys2Proof.Machine.execEretCtx bx op s
  | .ctxsave bx by' => Sys2Proof.Machine.execCtxsave bx by' s
  | .ctxload bx by' => Sys2Proof.Machine.execCtxload bx by' s
  | .jmark bx n => Sys2Proof.Machine.execJmark bx n s
  | .jflush => Sys2Proof.Machine.execJflush s
  | .leadIssueCycle die lead => Sys2Proof.Machine.execLeadIssueCycle die lead s
  | .bundleArrival die tile ctx => Sys2Proof.Machine.execBundleArrival die tile ctx s
  | .latchRelease die tile ctx => Sys2Proof.Machine.execLatchRelease die tile ctx s
  | .stopSignal die tile ctx => Sys2Proof.Machine.execStopSignal die tile ctx s
  | .fetchLineReturn die lead ctx => Sys2Proof.Machine.execFetchLineReturn die lead ctx s
  | .resultLanding die tile => Sys2Proof.Machine.execResultLanding die tile s
  | .fifoRowArrival die tile dir => Sys2Proof.Machine.execFifoRowArrival die tile dir s
  | .matrixCommandStart die tile => Sys2Proof.Machine.execMatrixCommandStart die tile s
  | .matrixCommandComplete die tile => Sys2Proof.Machine.execMatrixCommandComplete die tile s
  | .leaseDecision die tile => Sys2Proof.Machine.execLeaseDecision die tile s
  | .copyCommandStart die tile => Sys2Proof.Machine.execCopyCommandStart die tile s
  | .copyCommandComplete die tile => Sys2Proof.Machine.execCopyCommandComplete die tile s
  | .bufsetStart die tile => Sys2Proof.Machine.execBufsetStart die tile s
  | .publishSwap die tile => Sys2Proof.Machine.execPublishSwap die tile s
  | .quantCommandStart die tile => Sys2Proof.Machine.execQuantCommandStart die tile s
  | .quantCommandComplete die tile => Sys2Proof.Machine.execQuantCommandComplete die tile s
  | .sqldEntryPush die tile => Sys2Proof.Machine.execSqldEntryPush die tile s
  | .scatterCommandStart die tile => Sys2Proof.Machine.execScatterCommandStart die tile s
  | .scatterEntryTimeout die tile => Sys2Proof.Machine.execScatterEntryTimeout die tile s
  | .xflushComplete die tile => Sys2Proof.Machine.execXflushComplete die tile s
  | .xfetchComplete die tile => Sys2Proof.Machine.execXfetchComplete die tile s
  | .semaphoreCycle die tile => Sys2Proof.Machine.execSemaphoreCycle die tile s
  | .barrierComplete die tile b => Sys2Proof.Machine.execBarrierComplete die tile b s
  | .packetArrival p => Sys2Proof.Machine.execPacketArrival p s
  | .packetRefusedResend p => Sys2Proof.Machine.execPacketRefusedResend p s
  | .packetRetransmit die tile => Sys2Proof.Machine.execPacketRetransmit die tile s
  | .streamBrokenTimeout die tile => Sys2Proof.Machine.execStreamBrokenTimeout die tile s
  | .ackReceived p => Sys2Proof.Machine.execAckReceived p s
  | .rldResponse p => Sys2Proof.Machine.execRldResponse p s
  | .incarnationChange die src incn => Sys2Proof.Machine.execIncarnationChange die src incn s
  | .portPacketExpiry p => Sys2Proof.Machine.execPortPacketExpiry p s
  | .retiredRecordExpiry ep => Sys2Proof.Machine.execRetiredRecordExpiry ep s
  | .dispatchCycle die => Sys2Proof.Machine.execDispatchCycle die s
  | .contextReady die car => Sys2Proof.Machine.execContextReady die car s
  | .timetableStart die => Sys2Proof.Machine.execTimetableStart die s
  | .timetablePlacement die => Sys2Proof.Machine.execTimetablePlacement die s
  | .exitComplete die lead ctx => Sys2Proof.Machine.execExitComplete die lead ctx s
  | .granuleRelease die tile => Sys2Proof.Machine.execGranuleRelease die tile s
  | .dieFreeze die => Sys2Proof.Machine.execDieFreeze die s
  | .freezeEnd die => Sys2Proof.Machine.execFreezeEnd die s
  | .ttcExchange die => Sys2Proof.Machine.execTtcExchange die s
  | .timedDeparture die tile => Sys2Proof.Machine.execTimedDeparture die tile s
  | .timedDelivery p => Sys2Proof.Machine.execTimedDelivery p s
  | .timetableOverrun die lead ctx => Sys2Proof.Machine.execTimetableOverrun die lead ctx s
  | .pageWalkComplete die tile => Sys2Proof.Machine.execPageWalkComplete die tile s
  | .haulGroupPublish die => Sys2Proof.Machine.execHaulGroupPublish die s
  | .haulListFail die => Sys2Proof.Machine.execHaulListFail die s
  | .holdWatchdogExpiry die tile ctx => Sys2Proof.Machine.execHoldWatchdogExpiry die tile ctx s
  | .quantumExpiry die lead => Sys2Proof.Machine.execQuantumExpiry die lead s
  | .preemptionStop die lead ctx => Sys2Proof.Machine.execPreemptionStop die lead ctx s
  | .trapSignalArrival die lead ctx => Sys2Proof.Machine.execTrapSignalArrival die lead ctx s
  | .handlerEntry die lead ctx => Sys2Proof.Machine.execHandlerEntry die lead ctx s
  | .saveComplete die => Sys2Proof.Machine.execSaveComplete die s
  | .loadComplete die => Sys2Proof.Machine.execLoadComplete die s
  | .replayDivergence die => Sys2Proof.Machine.execReplayDivergence die s
  | .linkDown link => Sys2Proof.Machine.execLinkDown link s
  | .destinationLearnsBreak ep die tile ctx stm => Sys2Proof.Machine.execDestinationLearnsBreak ep die tile ctx stm s
  | .invalidationComplete die => Sys2Proof.Machine.execInvalidationComplete die s
  | .scrubComplete die tile => Sys2Proof.Machine.execScrubComplete die tile s
  | .linkRetry link => Sys2Proof.Machine.execLinkRetry link s
  | .linkTrainingComplete p level => Sys2Proof.Machine.execLinkTrainingComplete p level s
  | .reductionPartialArrival port group parts => Sys2Proof.Machine.execReductionPartialArrival port group parts s
  | .reductionResultArrival group results => Sys2Proof.Machine.execReductionResultArrival group results s
  | .waybillWithdrawal die => Sys2Proof.Machine.execWaybillWithdrawal die s
  | .doorbell die q => Sys2Proof.Machine.execDoorbell die q s
  | .preqWrite die v => Sys2Proof.Machine.execPreqWrite die v s
  | .invcmdPage die asid => Sys2Proof.Machine.execInvcmdPage die asid s
  | .invcmdAsid die asid => Sys2Proof.Machine.execInvcmdAsid die asid s
  | .invcmdAll die => Sys2Proof.Machine.execInvcmdAll die s
  | .invcmdSourceRanges die => Sys2Proof.Machine.execInvcmdSourceRanges die s
  | .ccmdResume die desc => Sys2Proof.Machine.execCcmdResume die desc s
  | .ccmdEnd die desc => Sys2Proof.Machine.execCcmdEnd die desc s
  | .ccmdSave die desc => Sys2Proof.Machine.execCcmdSave die desc s
  | .ccmdLoad die desc => Sys2Proof.Machine.execCcmdLoad die desc s
  | .rehaul die slot entry => Sys2Proof.Machine.execRehaul die slot entry s
  | .jtailWrite die v => Sys2Proof.Machine.execJtailWrite die v s
  | .portTrain p => Sys2Proof.Machine.execPortTrain p s
  | .registerWrite w off v => Sys2Proof.Machine.execRegisterWrite w off v s
  | .hostMemoryAccess die addr n data => Sys2Proof.Machine.execHostMemoryAccess die addr n data s
  | .loadWindowAccess off n data => Sys2Proof.Machine.execLoadWindowAccess off n data s
  | .attestationRequest nonce => Sys2Proof.Machine.execAttestationRequest nonce s
  | .provisioningWrite off data => Sys2Proof.Machine.execProvisioningWrite off data s
  | .powerOn => Sys2Proof.Machine.execPowerOn s
  | .dieReset die => Sys2Proof.Machine.execDieReset die s
  | .moduleReset => Sys2Proof.Machine.execModuleReset s
  | .frzWrite => Sys2Proof.Machine.execFrzWrite s
  | .freezePin => Sys2Proof.Machine.execFreezePin s
  | .debugPortRead die tile ctx => Sys2Proof.Machine.execDebugPortRead die tile ctx s
  | .mainPowerOff => Sys2Proof.Machine.execMainPowerOff s

end Sys2Proof.Machine
end

