-- ==== Sys2Proof/Machine/Place.lean ====
section
/-! DEFINITION. A program placed from outside, for one instruction word: a caravan of one tile whose loop
buffer holds a segment of one bundle (log 11). -/

namespace Sys2Proof.Machine

/-- The slot and the syllables of a bare word: the class is that of its instruction (log 10). -/
def wordSyls (w : Nat) (i : Option Instr) : Nat × List Syl :=
  let a : Syl := BitVec.ofNat 32 w
  let b : Syl := BitVec.ofNat 32 (w / 2 ^ 32)
  match i.bind Instr.slotClass with
  | some .m => (28, [a])
  | some .c => (29, [a])
  | some .e => (30, [a])
  | some .b => (31, [a])
  | _ => (24, if a.getLsbD 24 then [a, b] else [a])

/-- Clear the stop bits of syllables, then set that of the last (R47). -/
def fixStops (l : List Syl) : List Syl := setStop (l.map fun x => x &&& 0xFFFFFFFE#32)

/-- The body of a segment that holds one bundle with the word in its slot; LAST is set (R38). -/
def wordBody (w : Nat) (i : Option Instr) : List Syl :=
  let (bit, ws) := wordSyls w i
  fixStops (BitVec.ofNat 32 (2 ^ bit + 2 ^ 19) :: ws)

/-- The address at which the placed segment's record lies. -/
def placedSeg : Nat := 0x1000

/-- A segment record (R36) whose NEXT and ALT are the segment itself, so that control can go on. -/
def wordRecord (len : Nat) : List Syl :=
  let a := placedSeg / 16
  let v := len * 2 ^ 118 + 2 ^ 115 + 2 ^ 114 + a * 2 ^ 53 + a
  (upFrom 0 4).map fun k => BitVec.ofNat 32 (v / 2 ^ (32 * k))

/-- The placed segment in a loop-buffer half. -/
def wordHalf (w : Nat) (i : Option Instr) : Half :=
  let b := wordBody w i
  { valid := true, addr := placedSeg, syls := wordRecord b.length ++ b, fail := none, next := none }

/-- The placed caravan: one tile at row 0, column 0 of die 0, one context, free mode, ASID 0. -/
def wordCar : Car :=
  { (default : Car) with wb := 0, h := 1, w := 1, nctx := 1, lease := 16 }

/-- Place the word and put the lead's issue on the agenda. -/
def placeWord (s : State) (w : Nat) (i : Option Instr) : State :=
  let d := s.die 0
  let c := s.ctx 0 0 0
  let s := s.setDie 0 { d with
    cars := d.cars.set 1 wordCar, carNo := 2,
    wbs := d.wbs.set 0 { (default : Wb) with placed := 1 } }
  let s := s.setTile 0 0 { s.tile 0 0 with occ := some 1, cur := 0 }
  let s := s.setCtx 0 0 0 { c with
    st := .ready,
    lead := { (default : Lead) with h0 := wordHalf w i, flow := { (default : Flow) with pos := ⟨placedSeg, 0, 0⟩ } } }
  { s with agenda := [.leadIssueCycle 0 0] }

end Sys2Proof.Machine
end

