-- ==== Sys2Proof/Machine/Schedule.lean ====
section
/-! DEFINITION. What happens when nothing is on the agenda: one arithmetic cycle passes (R12), and the rows that may be due
in the new one are listed in the model's order (log 5). A row that turns out not to be due changes nothing (log 12). -/

namespace Sys2Proof.Machine

/-! ## Who there is -/

/-- The tiles that are listed: die, tile, contents. -/
def State.tileList (s : State) : List (Nat × Nat × Tile) := s.tiles.map fun e => (e.1 / 512, e.1 % 512, e.2)
/-- The contexts that are listed: die, tile, context, contents. -/
def State.ctxList (s : State) : List (Nat × Nat × Nat × Ctx) :=
  s.ctxs.map fun e => (e.1 / 4096, e.1 / 8 % 512, e.1 % 8, e.2)
/-- The dies. -/
def dieList : List Nat := upFrom 0 4
/-- Rows of the tiles that a predicate accepts. -/
def State.forTiles (s : State) (p : Nat → Nat → Tile → Bool) (f : Nat → Nat → Instr) : List Instr :=
  s.tileList.filterMap fun e => if p e.1 e.2.1 e.2.2 then some (f e.1 e.2.1) else none
/-- Rows of the contexts that a predicate accepts. -/
def State.forCtxs (s : State) (p : Nat → Nat → Nat → Ctx → Bool) (f : Nat → Nat → Nat → Instr) : List Instr :=
  s.ctxList.filterMap fun e => if p e.1 e.2.1 e.2.2.1 e.2.2.2 then some (f e.1 e.2.1 e.2.2.1) else none
/-- Rows of the dies that a predicate accepts. -/
def forDies (p : Nat → Bool) (f : Nat → Instr) : List Instr :=
  dieList.filterMap fun d => if p d then some (f d) else none

/-! ## The rows of a cycle -/

/-- What goes on while a die stands still, and its end: TTC exchange, code, walks, the haulier, freeze (R278). -/
def State.dueMemory (s : State) : List Instr :=
  forDies (fun d => s.ttPhase d == 2 || s.tracking d) .ttcExchange
    ++ s.forCtxs (fun _ _ _ x => x.lead.h0.next.isSome || x.lead.h1.next.isSome) .fetchLineReturn
    ++ s.forTiles (fun _ _ x => x.miss.isSome || x.pipeB.isSome || x.gen.isSome) .pageWalkComplete
    ++ forDies (fun d => !(s.die d).hauls.isEmpty) .haulListFail
    ++ forDies (fun d => !(s.die d).hauls.isEmpty) .haulGroupPublish
    ++ forDies (fun d => (s.die d).freeze.isSome) .freezeEnd
/-- What lands (R52, R302, R340). -/
def State.dueLanding (s : State) : List Instr :=
  s.forTiles (fun _ _ x => x.occ.isSome || !x.pend.isEmpty) .resultLanding
    ++ (s.tileList.flatMap fun e =>
      if e.2.2.fifoIn.isEmpty && e.2.2.pops.isEmpty then [] else (upFrom 0 4).map fun dir => .fifoRowArrival e.1 e.2.1 dir)
/-- The row of a flit that has arrived. -/
def InFlight.row (x : InFlight) : Instr :=
  match x.flit with
  | .pkt _ => .packetArrival x.id
  | .refused _ => .packetRefusedResend x.id
  | .ack .. | .fault .. => .ackReceived x.id
  | .resp .. => .rldResponse x.id
  | .timed _ => .timedDelivery x.id
/-- The place of a flit in its cycle (R303): values for the scatter engine, writes that commit, loads. -/
def InFlight.rank (x : InFlight) : Nat :=
  match x.flit with
  | .pkt p | .timed p => if p.kind = .load then 2 else 1
  | .resp .. => 0
  | _ => 1
/-- Entries whose binding their source may have broken (R331). -/
def State.dueBreaks (s : State) : List Instr :=
  s.trackers.flatMap fun e => e.2.entries.filterMap fun y =>
    if y.src.module = s.modnum && !y.broken then
      let st := s.strm y.src.die y.src.tile y.src.ctx y.src.stm
      if st.broken || st.epoch ≠ y.epoch then
        some (.destinationLearnsBreak e.1 y.src.die y.src.tile y.src.ctx y.src.stm)
      else none
    else none
/-- Incarnations that a die has yet to learn (R333). -/
def State.dueIncs (s : State) : List Instr :=
  dieList.flatMap fun a => dieList.filterMap fun b =>
    match s.knownInc (some a) (s.modnum * 4 + b) with
    | some n => if a ≠ b && n ≠ (s.die b).inc then
        some (.incarnationChange a (s.modnum * 4 + b) (BitVec.ofNat 8 (s.die b).inc)) else none
    | none => none
/-- Links and packets (R330 to R338, R352, R452). -/
def State.duePackets (s : State) : List Instr :=
  s.coll.linkRetry.filterMap (fun e => if 16 ≤ e.2 then some (.linkDown e.1) else none)
    ++ s.dueIncs
    ++ (sortBy InFlight.rank (sortBy (fun (x : InFlight) => x.arrive) (s.net.filter s.flitDue))).map
        InFlight.row
    ++ (s.net.filter s.expired).map (fun x => .portPacketExpiry x.id)
    ++ s.forTiles (fun d t x => !s.timedTile d t && x.retx.any fun p => p.dueAgain s.now) .packetRetransmit
    ++ s.forTiles (fun _ _ x => x.retx.any fun p => p.givenUp s.now) .streamBrokenTimeout
    ++ s.dueBreaks
    ++ s.trackers.filterMap (fun e =>
      if e.2.retired.any fun r => r.cycle + retiredLife ≤ s.now then some (.retiredRecordExpiry e.1) else none)
/-- Semaphores, barriers, granules (R256, R265, R336). -/
def State.dueSync (s : State) : List Instr :=
  s.forTiles (fun _ _ x => !x.semQ.isEmpty) .semaphoreCycle
    ++ (s.tileList.flatMap fun e => (e.2.2.bars.filter fun b => b.2.cfg.isSome && !b.2.arr.isEmpty).map fun b =>
      .barrierComplete e.1 e.2.1 b.1)
    ++ s.forTiles (fun _ _ x => !x.granDue.isEmpty) .granuleRelease
/-- Some context at a tile has commands that have not started. -/
def State.queued (s : State) (d t : Nat) : Bool := (upFrom 0 4).any fun c => !(s.ctx d t c).e.queue.isEmpty
/-- What the engines write, engine by engine in the order of R303, before the packets of the cycle. -/
def State.dueWrites (s : State) : List Instr :=
  let runs (_ _ : Nat) (x : Tile) : Bool := !x.runs.isEmpty
  s.forTiles runs .copyCommandComplete ++ s.forTiles runs .matrixCommandComplete ++ s.forTiles runs .quantCommandComplete
    ++ s.forTiles (fun d t x => !x.runs.isEmpty || s.queued d t) .scatterCommandStart
    ++ s.forTiles (fun _ _ x => !x.window.isEmpty) .scatterEntryTimeout
/-- Engines behind the packets: what their acknowledgements complete, then what reads and starts (R61, R221 to R239, R262,
R308 to R322, R346 to R351). -/
def State.dueEngines (s : State) : List Instr :=
  s.tileList.flatMap fun e =>
    let (d, t, x) := e
    (if x.runs.isEmpty then [] else
      (if x.runs.any fun r => r.cmd.rsv.isSome then [.copyCommandComplete d t] else [])
        ++ [.xfetchComplete d t, .xflushComplete d t])
    ++ (if !x.runs.isEmpty || s.queued d t then [.publishSwap d t] else [])
    ++ (if (upFrom 0 4).any fun c => (s.ctx d t c).lease != 0 then [.leaseDecision d t] else [])
    ++ (if x.runs.isEmpty then [] else [.sqldEntryPush d t])
    ++ (if !x.runs.isEmpty || s.queued d t then [.matrixCommandStart d t] else [])
    ++ (if !x.runs.isEmpty || s.queued d t then [.copyCommandStart d t] else [])
    ++ (if s.queued d t then [.bufsetStart d t] else [])
    ++ (if !x.runs.isEmpty || s.queued d t then [.quantCommandStart d t] else [])
/-- The dispatcher, scrubs and timetables (R246, R249, R274, R280, R392). -/
def State.duePlacing (s : State) : List Instr :=
  s.forTiles (fun _ _ x => x.scrubAt != 0) .scrubComplete
    ++ (dieList.flatMap fun d => ((s.die d).cars.filter fun k => k.2.readyAt ≤ s.now &&
      (upFrom 0 k.2.nctx).any fun c => (s.ctx d k.2.leadTile c).st == .clearing).map fun k => .contextReady d k.1)
    ++ forDies (fun d => ((s.die d).tt.map fun (t : Timetable) => t.phase == 1).getD false) .timetableStart
    ++ forDies (fun d => s.ttPhase d == 2) .timetablePlacement
    ++ forDies (fun d => (s.die d).enabled) .dispatchCycle
/-- Contexts that stop, enter handlers, are saved or loaded (R288, R420 to R425, R438). -/
def State.dueStops (s : State) : List Instr :=
  let stops (x : Ctx) : Bool := x.lead.halted || x.lead.stop.isSome || !x.lead.sigs.isEmpty
  s.forCtxs (fun _ _ _ x => stops x) .trapSignalArrival
    ++ s.forCtxs (fun _ _ _ x => stops x) .preemptionStop
    ++ s.forCtxs (fun _ _ _ x => stops x) .handlerEntry
    ++ forDies (fun d => !(s.die d).saves.isEmpty) .saveComplete
    ++ forDies (fun d => !(s.die d).saves.isEmpty) .loadComplete
/-- A tile leads the caravan that occupies it. -/
def State.isLead (s : State) (d t : Nat) (x : Tile) : Bool := x.occ.isSome && s.leadTileOf d t == t
/-- Issue, bundles on their way, stops between tiles (R250 to R253). -/
def State.dueIssue (s : State) : List Instr :=
  s.forTiles (fun d t x => s.isLead d t x || x.miss.isSome) .leadIssueCycle
    ++ (s.ctxList.flatMap fun (d, t, c, x) =>
      (if x.latch.isEmpty then [] else [.latchRelease d t c])
        ++ if x.inbox.any fun e => e.2 ≤ s.now then [.bundleArrival d t c] else [])
    ++ s.forCtxs (fun _ _ _ x => !x.latch.isEmpty || !x.inbox.isEmpty || x.stopOut) .stopSignal
    ++ s.forCtxs (fun _ _ _ x => x.lead.exitPh != 0) .exitComplete
    ++ s.forTiles (fun d t x => s.isLead d t x && x.curAt + (fld (s.ctl d 0) 19 0) * 1024 ≤ s.now) .quantumExpiry
/-- A hold, a miss or a freeze has lasted 2^20 cycles (R298). -/
def State.holdOld (s : State) (d t c : Nat) (x : Ctx) : Bool :=
  let old (n : Nat) : Bool := n + Config.watchdog ≤ s.now
  ((x.hold.find? heldKey).map old).getD false || ((s.die d).freeze.map fun (f : Nat × Nat) => old f.2).getD false
    || ((s.tile d t).miss.map fun (m : Miss) => m.ctx == c && old m.since).getD false
/-- S + LEN of a die's timetable has come (R281). -/
def State.overdue (s : State) (d : Nat) : Bool :=
  match s.sinceStart d, (s.die d).tt with
  | some n, some t => t.len ≤ n
  | _, _ => false
/-- Watchdog, replay, timed packets, overrun, invalidations, freezes (R273, R278, R281, R298, R390, R464). -/
def State.dueLast (s : State) : List Instr :=
  s.forCtxs (fun d t c x => s.holdOld d t c x) .holdWatchdogExpiry
    ++ forDies (fun d => (s.ctl d 0x430).toNat < (s.ctl d 0x428).toNat) .replayDivergence
    ++ s.forTiles (fun d t x => x.occ.isSome && s.timedTile d t) .timedDeparture
    ++ s.forCtxs (fun d t _ x => x.st == .ready && (s.tile d t).occ.isSome && s.leadTileOf d t == t && s.overdue d) .timetableOverrun
    ++ forDies (fun d => (s.die d).inv.isSome) .invalidationComplete
    ++ forDies (fun d => s.tracking d) .dieFreeze
/-- The rows that may be due in a cycle, in the model's order. -/
def due (s : State) : List Instr :=
  s.dueMemory ++ s.dueLanding ++ s.dueWrites ++ s.duePackets ++ s.dueSync ++ s.dueEngines ++ s.duePlacing ++ s.dueStops
    ++ s.dueIssue ++ s.dueLast

/-! ## A frozen die (R278) -/

/-- The die that a row of a tile's slots, engines, FIFOs or mesh acts on. -/
def pipelineDie (s : State) : Instr → Option Nat
  | .leadIssueCycle d t => if (s.tile d t).miss.isSome then none else some d
  | .matrixCommandStart d t | .copyCommandStart d t => if s.heldBy d t 8 then none else some d
  | .bundleArrival d _ _ | .latchRelease d _ _ | .stopSignal d _ _ | .resultLanding d _ | .fifoRowArrival d _ _
  | .matrixCommandComplete d _ | .leaseDecision d _ | .copyCommandComplete d _ | .bufsetStart d _ | .publishSwap d _
  | .quantCommandStart d _ | .quantCommandComplete d _ | .sqldEntryPush d _ | .scatterCommandStart d _
  | .scatterEntryTimeout d _ | .xflushComplete d _ | .xfetchComplete d _ | .semaphoreCycle d _
  | .barrierComplete d _ _ | .granuleRelease d _ | .scrubComplete d _ | .exitComplete d _ _ | .trapSignalArrival d _ _
  | .preemptionStop d _ _ | .handlerEntry d _ _ | .timedDeparture d _ | .timetableOverrun d _ _ | .saveComplete d
  | .loadComplete d => some d
  | _ => none
/-- A die is frozen. -/
def State.dieFrozen (s : State) (d : Nat) : Bool := (s.die d).freeze.isSome
/-- A row waits because its die stands still. -/
def State.standsStill (s : State) (i : Instr) : Bool :=
  match pipelineDie s i with
  | some d => s.dieFrozen d
  | none => false
/-- One cycle later for what a frozen tile waits for. -/
def Tile.later (x : Tile) : Tile :=
  { x with
    semQ := x.semQ.map fun o => { o with cycle := o.cycle + 1 }
    bars := x.bars.map fun b => (b.1, { b.2 with
      arr := b.2.arr.map fun a => (a.1, (a.2.1, a.2.2 + 1)), shows := b.2.shows.map (· + 1) })
    fifoIn := x.fifoIn.map fun r => { r with cycle := r.cycle + 1 }
    pops := x.pops.map fun p => (p.1 + 1, p.2)
    granDue := x.granDue.map fun g => (g.1, g.2 + 1)
    scrubAt := if x.scrubAt = 0 then 0 else x.scrubAt + 1
    curAt := x.curAt + 1
    window := x.window.map fun w => { w with last := w.last + 1 } }
/-- One cycle later for what a context at a frozen tile waits for. -/
def Ctx.later (x : Ctx) : Ctx :=
  { x with
    inbox := x.inbox.map fun e => (e.1, e.2 + 1)
    latch := x.latch.map fun e => (e.1, e.2 + 1)
    lead := { x.lead with sigs := x.lead.sigs.map fun e => (e.1 + 1, e.2) } }

/-! ## A cycle passes -/

/-- TTC of the die stands: it is frozen, or its domain has been aborted (R270, R282). -/
def State.ttcStands (s : State) (d : Nat) : Bool := s.dieFrozen d || s.ttPhase d == 4 || s.ttPhase d == 6
/-- Some access of the die is tier-holding (R297). -/
def State.tierHolds (s : State) (d : Nat) : Bool :=
  s.ctxList.any fun e => e.1 == d && (e.2.2.2.hold.find? 8).isSome
/-- One cycle later for what the clear engine and the save engine of a frozen die work on (R32, R249, R438). -/
def Die.later (x : Die) : Die :=
  { x with
    cars := x.cars.map fun e => (e.1, { e.2 with readyAt := e.2.readyAt + 1 })
    saves := x.saves.map fun o => { o with done := o.done + 1 } }
/-- TTC, TTHOLD, the clear engine and one of TIERCNT0 to TIERCNT4 of a die over one cycle (R32, R270, R297). -/
def State.tickDie (s : State) (d : Nat) (x : Die) : Die :=
  let x := if s.dieFrozen d then x.later else x
  let x := if s.ttcStands d then { x with ctl := x.ctl.set 0x18 (x.ctl.get 0x18 + 1) } else { x with ttc := x.ttc + 1 }
  let k := 0x20 + 8 * s.tierCause d
  if s.tierHolds d then { x with ctl := x.ctl.set k (x.ctl.get k + 1) } else x
/-- One cycle later for what the slots of a tile with held pipelines have under way: changes of semaphores and arrivals at
barriers (R266, R283, R336). -/
def Tile.slotsLater (x : Tile) (now : Nat) : Tile :=
  { x with
    semQ := x.semQ.map fun o => if o.own && now < o.cycle then { o with cycle := o.cycle + 1 } else o
    bars := x.bars.map fun b => (b.1, { b.2 with
      arr := b.2.arr.map fun a => (a.1, (a.2.1, if now < a.2.2 then a.2.2 + 1 else a.2.2)) }) }
/-- A tile over one cycle: where its pipelines are held its own clock stands, and what they push waits (R278, R283). -/
def State.tickTile (s : State) (d t : Nat) (x : Tile) : Tile :=
  if s.dieFrozen d then { x.later with lag := x.lag + 1 }
  else
    let x := if x.fifoIn.isEmpty then x else { x with fifoIn := x.fifoIn.map fun r =>
      if s.now < r.cycle && (s.tile d (pusherOf t r.dir)).miss.isSome then { r with cycle := r.cycle + 1 } else r }
    if x.miss.isSome then { x.slotsLater s.now with lag := x.lag + 1 } else x
/-- The clocks over one cycle. -/
def State.tick (s : State) : State :=
  { s with
    now := s.now + 1
    dies := s.dies.map fun e => (e.1, s.tickDie e.1 e.2)
    tiles := s.tiles.map fun e => (e.1, s.tickTile (e.1 / 512) (e.1 % 512) e.2)
    ctxs := s.ctxs.map fun e => (e.1, if s.dieFrozen (e.1 / 4096) && e.1 % 8 != 4 then e.2.later else e.2) }
/-- One arithmetic cycle passes (R12). A module that stands in its boot ROM boots (R409). -/
def advance (s : State) : State :=
  let s := s.tick
  let s := if s.bootState = 0 then s.boot else s
  { s with agenda := due s }
/-- Rows that act while the package is frozen: resets, power, and the debug port (R456, R457). -/
def actsFrozen : Instr → Bool
  | .moduleReset | .powerOn | .mainPowerOff | .debugPortRead .. => true
  | _ => false
/-- A row finds nothing that could act: main power is off (R411), the package is frozen (R456), or its die stands still
(R278). -/
def State.waits (s : State) (i : Instr) : Bool :=
  (!s.power && i != .powerOn) || (s.frozen && !actsFrozen i) || s.standsStill i
/-- Nothing is on the agenda: a cycle passes, unless every clock is stopped (R411, R456). -/
def idle (s : State) : State := if s.power && !s.frozen then advance s else s

end Sys2Proof.Machine
end

