-- ==== Sys2Proof/Machine/Step.lean ====
section
/-! DEFINITION. One step of the machine: the next row of the agenda, or, where there is none, the passing
of one cycle (log 5). -/

namespace Sys2Proof.Machine

/-- One step. -/
def step (s : State) : Host.Outcome State Fault Refusal :=
  match s.agenda with
  | [] => .next (idle s)
  | i :: rest =>
    let s := { s with agenda := rest }
    if s.waits i then .next s else exec i s

/-- The state in which the next step issues the bundle that holds the word (log 11). -/
def State.withFetchWord (s : State) (nbits w : Nat) : State :=
  placeWord s w (decodeTableWord nbits w)

end Sys2Proof.Machine
end

