-- ==== Sys2Proof/Safety.lean ====
section
/-! DEFINITION. The terms in which the statements speak: what a state is like, what has changed between two states, and
what a register holds once the writes to it have landed. -/

namespace Sys2Proof

open Sys2Proof.Machine

/-- Memory is in its canonical form. -/
def MemOk (s : State) : Prop := s.mem.wf = true

/-- A step that neither stops nor is refused. -/
def Goes (s t : State) : Prop := step s = .next t

/-! ## What a register holds once writes have landed (R52, R53) -/

/-- No write to a register is open at a clock. -/
def Quiet {w : Nat} (l : List (PWrite w)) (reg u : Nat) : Prop := ∀ p ∈ l, p.reg = reg → p.t0 + p.bound < u

/-- Scalar register n holds v once a bound has passed; s0 stays 0. -/
def SBecomes (s t : State) (n : Nat) (v : DWord) (bound : Nat) : Prop :=
  ∀ u, s.t + bound < u → Quiet s.fctx.r.sW n u → t.fctx.r.readS u n = if n = 0 then 0 else v

/-- Predicate n holds v once a bound has passed; p0 stays 1. -/
def PBecomes (s t : State) (n : Nat) (v : Bool) (bound : Nat) : Prop :=
  ∀ u, s.t + bound < u → Quiet s.fctx.r.pW (physP s.fctx.r.soff n) u →
    t.fctx.r.readP u n = if n = 0 then true else v

/-- Mask n holds the bits m of v, and its other bits as before, once a bound has passed. -/
def KBecomes (s t : State) (n : Nat) (m v : Mask) (bound : Nat) : Prop :=
  ∀ u, s.t + bound < u → Quiet s.fctx.r.kW n u → t.fctx.r.readK u n = mix m v (s.fctx.r.readK u n)

/-- Quire n holds v once a bound has passed. -/
def QBecomes (s t : State) (n : Nat) (v : Row) (bound : Nat) : Prop :=
  ∀ u, s.t + bound < u → Quiet s.fctx.r.qW n u → t.fctx.r.readQ u n = v

/-- Operand-file register n holds the bits m of v, and its other bits as before, once a bound has passed. -/
def OBecomes (s t : State) (n : Nat) (m v : VReg) (bound : Nat) : Prop :=
  ∀ u, s.t + bound < u → Quiet s.fctx.r.oW n u → t.fctx.r.readO u n = mix m v (s.fctx.r.readO u n)

/-- Flags are ORed into FSR within a bound, and no other flag of FSR changes. -/
def FBecomes (s t : State) (f : Flags) (bound : Nat) : Prop :=
  ∀ u, s.t + bound ≤ u → t.fctx.r.readFsr u = s.fctx.r.readFsr u ||| f

/-! ## What has not changed -/

/-- The key of the context in focus. -/
def fkey (s : State) : Nat := ctxKey s.focus.die s.focus.tile s.focus.ctx

/-- Nothing has changed but the context in focus and the number of the next free value: no byte of memory, no tile, no
die, no other context. -/
def OnlyFocus (s t : State) : Prop :=
  t = { s with ctxs := t.ctxs, freeCtr := t.freeCtr } ∧ ∀ k, k ≠ fkey s → t.ctxs.get k = s.ctxs.get k

/-- Of the context in focus, only registers in the files of writes in flight have changed: no system register, no
trap register, no engine state, no stream, no position. -/
def OnlyRegs (s t : State) : Prop :=
  OnlyFocus s t ∧
  t.fctx = { s.fctx with r := { s.fctx.r with
    sW := t.fctx.r.sW, pW := t.fctx.r.pW, kW := t.fctx.r.kW, qW := t.fctx.r.qW, oW := t.fctx.r.oW, vW := t.fctx.r.vW,
    fW := t.fctx.r.fW } }

/-- Only the scalar registers of a list, and no other register and no flag, read otherwise than before. -/
def OnlyS (s t : State) (l : List Nat) : Prop :=
  OnlyRegs s t ∧ (∀ u n, n ∉ l → t.fctx.r.readS u n = s.fctx.r.readS u n) ∧
  t.fctx.r.pW = s.fctx.r.pW ∧ t.fctx.r.kW = s.fctx.r.kW ∧ t.fctx.r.qW = s.fctx.r.qW ∧ t.fctx.r.oW = s.fctx.r.oW ∧
  t.fctx.r.vW = s.fctx.r.vW

/-- Only the predicates of a list. -/
def OnlyP (s t : State) (l : List Nat) : Prop :=
  OnlyRegs s t ∧ (∀ u n, n < 16 → n ∉ l → t.fctx.r.readP u n = s.fctx.r.readP u n) ∧
  t.fctx.r.sW = s.fctx.r.sW ∧ t.fctx.r.kW = s.fctx.r.kW ∧ t.fctx.r.qW = s.fctx.r.qW ∧ t.fctx.r.oW = s.fctx.r.oW ∧
  t.fctx.r.vW = s.fctx.r.vW

/-- Only the masks of a list. -/
def OnlyK (s t : State) (l : List Nat) : Prop :=
  OnlyRegs s t ∧ (∀ u n, n ∉ l → t.fctx.r.readK u n = s.fctx.r.readK u n) ∧
  t.fctx.r.sW = s.fctx.r.sW ∧ t.fctx.r.pW = s.fctx.r.pW ∧ t.fctx.r.qW = s.fctx.r.qW ∧ t.fctx.r.oW = s.fctx.r.oW ∧
  t.fctx.r.vW = s.fctx.r.vW

/-- Only the quires of a list. -/
def OnlyQ (s t : State) (l : List Nat) : Prop :=
  OnlyRegs s t ∧ (∀ u n, n ∉ l → t.fctx.r.readQ u n = s.fctx.r.readQ u n) ∧
  t.fctx.r.sW = s.fctx.r.sW ∧ t.fctx.r.pW = s.fctx.r.pW ∧ t.fctx.r.kW = s.fctx.r.kW ∧ t.fctx.r.oW = s.fctx.r.oW ∧
  t.fctx.r.vW = s.fctx.r.vW

/-- Only the operand-file registers of a list. -/
def OnlyO (s t : State) (l : List Nat) : Prop :=
  OnlyRegs s t ∧ (∀ u n, n ∉ l → t.fctx.r.readO u n = s.fctx.r.readO u n) ∧
  t.fctx.r.sW = s.fctx.r.sW ∧ t.fctx.r.pW = s.fctx.r.pW ∧ t.fctx.r.kW = s.fctx.r.kW ∧ t.fctx.r.qW = s.fctx.r.qW ∧
  t.fctx.r.vW = s.fctx.r.vW

/-- No flag is on its way that was not before. -/
def SameFlags (s t : State) : Prop := t.fctx.r.fW = s.fctx.r.fW

/-! ## Stores, operands, results -/

/-- The cycle of the tile's clock in which a write of the context in focus performs that its own clock dates: the shadow context
runs by the time while the tile's clock stands (R284). -/
def padTick (s : State) (cycle : Nat) : Nat := if s.focus.ctx = 4 then cycle - s.ftile.lag else cycle

/-- No write in flight to the tile's scratchpad performs after one of the context in focus that its clock dates so. -/
def PadLast (s : State) (cycle : Nat) : Prop :=
  ∀ p ∈ s.ftile.pend, p.tick s.ftile.lag * 16 + p.ctx ≤ padTick s cycle * 16 + s.focus.ctx

/-- No soft error lies in rows stored from a key on, and none of them is poisoned (R447, R450). -/
def cleanRows (s : State) (k n : Nat) : Prop := ∀ u ∈ s.badUnits ++ s.upsets.filterMap (fun x => x.unit?.map (·.1)),
  ∀ i, i < 64 * n → u ≠ unitOf (k + i)
/-- So for rows of an operand-file register of the context in focus. -/
def cleanO (s : State) (reg n : Nat) : Prop := cleanRows s (opKey s.focus.die s.focus.tile s.focus.ctx reg) n
/-- So for rows of a main-file register, by its number after renaming. -/
def cleanV (s : State) (v n : Nat) : Prop := cleanRows s (poolKey s.focus.die s.focus.tile (s.fctx.poolReg v)) n

/-- The stores of a list, each a cycle of the clock that the context in focus runs by, an address and a byte, in rising order of
cycles, are all that separates two states: a read of the tile's scratchpad for a cycle finds the last of them that performs by
then, if no earlier write of another instruction performs after it, and finds what it found before where none of them does. -/
def Stores (s t : State) (l : List (Nat × Nat × Byte)) : Prop :=
  let d := s.focus.die
  let k := s.focus.tile
  let at' (x : Nat) : Nat := redirect (s.tile d k).bufs x
  t = { s with tiles := t.tiles } ∧
  (∀ x, x ≠ tileKey d k → t.tiles.get x = s.tiles.get x) ∧
  t.tile d k = { s.tile d k with pend := (t.tile d k).pend } ∧
  ∀ c x, match (l.filter fun e => decide (padTick s e.1 ≤ c) && at' e.2.1 == at' x).getLast? with
    | some e => PadLast s e.1 → t.padBytes d k c x 1 = [e.2.2]
    | none => t.padBytes d k c x 1 = s.padBytes d k c x 1

/-- A main-file register of the context in focus, by its number after renaming, as it reads at a clock (R89, R158). -/
def mainAt (s : State) (v u : Nat) : VReg := readW (s.ftile.pool.get (s.fctx.poolReg v)) s.fctx.r.vW v u

/-- A main-file register holds the bits m of v, and its other bits as before, once a bound has passed. -/
def VBecomes (s t : State) (n : Nat) (m v : VReg) (bound : Nat) : Prop :=
  ∀ u, s.t + bound < u → Quiet s.fctx.r.vW n u → mainAt t n u = mix m v (mainAt s n u)

/-- A vector instruction whose source fields can be read, and whose destination takes the result, completes: it marks its
last uses, then delivers `h` rows of a result, of which it writes the bits of a mask, and sets flags. -/
def Delivers (s : State) (i : Instr) (f : VF) (srcs : List (BitVec 8 × Nat)) (h bound : Nat)
    (res : (BitVec 8 → VReg) → VReg × VReg × Flags) : Prop :=
  ∀ s1 got s2, s.sources srcs = .ok (s1, got) →
    (s1.lastUses f).dest f.vd h (res (pick got)).1 (res (pick got)).2.1 bound = .ok s2 →
    exec i s = .next (s2.wf (res (pick got)).2.2 bound)

/-- Element e of w bytes of a register, as a number (R155). -/
def elemAt (w : Nat) (v : VReg) (e : Nat) : Nat := (v.extractLsb' (8 * w * e) (8 * w)).toNat
/-- Whether an instruction writes element e: no mask, or the bit of the element's lowest byte (R161, R162). -/
def writesElem (s : State) (f : VF) (e : Nat) : Bool := !f.ke || (s.rk f.km.toNat).getLsbD (vfW f * e)
/-- All bits of the elements that an instruction writes. -/
def writtenBits (s : State) (f : VF) : VReg :=
  ofElems (vfW f) ((upFrom 0 (vfN f)).map fun e => if writesElem s f e then 2 ^ (8 * vfW f) - 1 else 0)

/-- The result of an instruction that works element by element: element e is `g` of the operands' elements e, and the flags
are those of the elements that are written (R151, R170). -/
def byElement (s : State) (f : VF) (srcs : List (BitVec 8)) (g : List Nat → Nat × Flags) (v : BitVec 8 → VReg) :
    VReg × VReg × Flags :=
  let r (e : Nat) : Nat × Flags := g (srcs.map fun c => elemAt (vfW f) (v c) e)
  (writtenBits s f, ofElems (vfW f) ((upFrom 0 (vfN f)).map fun e => (r e).1),
    orFlags ((upFrom 0 (vfN f)).map fun e => if writesElem s f e then (r e).2 else 0))

/-! ## One context, one tile, one die -/

/-- Nothing has changed but one context at one tile. -/
def OnlyCtx (s t : State) (d k c : Nat) : Prop :=
  t = { s with ctxs := t.ctxs } ∧ ∀ x, x ≠ ctxKey d k c → t.ctxs.get x = s.ctxs.get x
/-- Nothing has changed but one tile: none of its contexts, no other tile. -/
def OnlyTile (s t : State) (d k : Nat) : Prop :=
  t = { s with tiles := t.tiles } ∧ ∀ x, x ≠ tileKey d k → t.tiles.get x = s.tiles.get x
/-- Nothing has changed but one die's own state: no tile, no context, no other die. -/
def OnlyDie (s t : State) (d : Nat) : Prop :=
  t = { s with dies := t.dies } ∧ ∀ x, x ≠ d → t.dies.get x = s.dies.get x
/-- A run of bytes of the one memory holds a list of bytes, and every other byte is as before. -/
def MemBecomes (s t : State) (key : Nat) (bs : List Byte) : Prop :=
  t.mem.readN key bs.length = bs ∧ ∀ a, a < key ∨ key + bs.length ≤ a → t.mem.read a = s.mem.read a

end Sys2Proof
end

