-- ==== Sys2Proof/Certificates/Slice0/Obligations.lean ====
section
/-! DEFINITION. The statements for the provers. -/

open Sys2Proof Sys2Proof.Machine

/-! ## Scalar slots (R79, R88 to R98) -/

/-- The result of each two-source and one-source integer instruction, with its bound: a is s[SA], b is s[SB] or the
sign-extended literal (R92, R91). -/
def Sys2Proof.integerTable (f : SR) (a b : DWord) : List (Instr × Nat × DWord) :=
  [(.add f, 1, BitVec.ofNat 64 (a.toNat + b.toNat)), (.sub f, 1, BitVec.ofInt 64 (a.toInt - b.toInt)),
   (.mul f, 3, BitVec.ofNat 64 (a.toNat * b.toNat)), (.mulh f, 3, BitVec.ofInt 64 (a.toInt * b.toInt / 2 ^ 64)),
   (.mulhz f, 3, BitVec.ofNat 64 (a.toNat * b.toNat / 2 ^ 64)),
   (.and f, 1, a &&& b), (.or f, 1, a ||| b), (.xor f, 1, a ^^^ b), (.andn f, 1, a &&& ~~~b),
   (.shl f, 1, BitVec.ofNat 64 (a.toNat * 2 ^ (b.toNat % 64))),
   (.shr f, 1, BitVec.ofNat 64 (a.toNat / 2 ^ (b.toNat % 64))),
   (.sar f, 1, BitVec.ofInt 64 (a.toInt / 2 ^ (b.toNat % 64))),
   (.rotl f, 1, a.rotateLeft (b.toNat % 64)),
   (.clz f, 1, BitVec.ofNat 64 ((List.range 64).takeWhile fun i => !a.getMsbD i).length),
   (.ctz f, 1, BitVec.ofNat 64 ((List.range 64).takeWhile fun i => !a.getLsbD i).length),
   (.popc f, 1, BitVec.ofNat 64 ((List.range 64).filter fun i => a.getLsbD i).length),
   (.min f, 1, if a.toInt ≤ b.toInt then a else b), (.max f, 1, if a.toInt ≤ b.toInt then b else a),
   (.minz f, 1, if a.toNat ≤ b.toNat then a else b), (.maxz f, 1, if a.toNat ≤ b.toNat then b else a),
   (.addsh f, 1, BitVec.ofNat 64 (a.toNat + b.toNat * 64))]

/-- R92: every integer instruction that is not guarded off completes, writes its result to s[SD] within its bound, and
changes nothing else; a destination of s0 discards the result (R88). -/
def Sys2Proof.integerResults : Prop :=
  ∀ (s : State) (f : SR), s.guard f.pg f.pn = true →
    ∀ e ∈ integerTable f (s.rs f.sa) (s.srB f), ∃ t, exec e.1 s = .next t ∧
      SBecomes s t f.sd.toNat e.2.2 e.2.1 ∧ OnlyS s t [f.sd.toNat] ∧ SameFlags s t

/-- The quotients and remainders of R93. -/
def Sys2Proof.divisionTable (f : SR) (a b : DWord) : List (Instr × DWord) :=
  [(.div f, if b = 0 then BitVec.allOnes 64 else BitVec.ofInt 64 (a.toInt.tdiv b.toInt)),
   (.divz f, if b = 0 then BitVec.allOnes 64 else BitVec.ofNat 64 (a.toNat / b.toNat)),
   (.rem f, if b = 0 then a else BitVec.ofInt 64 (a.toInt - b.toInt * a.toInt.tdiv b.toInt)),
   (.remz f, if b = 0 then a else BitVec.ofNat 64 (a.toNat % b.toNat))]

/-- R93: a division that is not guarded off completes, whatever its operands, and sets DZ exactly where the divisor
is 0. -/
def Obligations.DivisionResults : Prop :=
  ∀ (s : State) (f : SR), s.guard f.pg f.pn = true →
    ∀ e ∈ divisionTable f (s.rs f.sa) (s.srB f), ∃ t, exec e.1 s = .next t ∧
      SBecomes s t f.sd.toNat e.2 18 ∧ OnlyS s t [f.sd.toNat] ∧
      FBecomes s t (if s.srB f = 0 then fDZ else 0) 18

/-- R96: sel, which no guard turns off. -/
def Sys2Proof.selectResult : Prop :=
  ∀ (s : State) (f : SR), ∃ t, exec (.sel f) s = .next t ∧
    SBecomes s t f.sd.toNat (if (s.rp f.pg ^^ f.pn) = true then s.rs f.sa else s.srB f) 1 ∧
    OnlyS s t [f.sd.toNat] ∧ SameFlags s t

/-- R92, R94: addi, movi and movhi. -/
def Sys2Proof.immediateResults : Prop :=
  (∀ (s : State) (f : SI), s.guard f.pg f.pn = true → ∃ t, exec (.addi f) s = .next t ∧
    SBecomes s t f.sd.toNat (BitVec.ofInt 64 ((s.rs f.sa).toInt + f.imm.toInt)) 1 ∧
    OnlyS s t [f.sd.toNat] ∧ SameFlags s t) ∧
  ∀ (s : State) (f : SL), s.guard f.pg f.pn = true →
    let v : Int := match f.lit with
      | some l => l.toInt
      | none => f.imm.toInt
    (∃ t, exec (.movi f) s = .next t ∧
      SBecomes s t f.sd.toNat (BitVec.ofInt 64 v) 1 ∧ OnlyS s t [f.sd.toNat] ∧ SameFlags s t) ∧
    ∃ t, exec (.movhi f) s = .next t ∧
      SBecomes s t f.sd.toNat (BitVec.ofInt 64 ((s.rs f.sd).toNat * 2 ^ 31 + v % 2 ^ 31)) 1 ∧
      OnlyS s t [f.sd.toNat] ∧ SameFlags s t

/-- The conditions of CMP (R97), by code. -/
def Sys2Proof.conditionTable (a b : DWord) : List (BitVec 4 × Bool) :=
  [(0, decide (a = b)), (1, decide (a ≠ b)), (2, decide (a.toInt < b.toInt)), (3, decide (a.toInt ≥ b.toInt)),
   (4, decide (a.toInt ≤ b.toInt)), (5, decide (a.toInt > b.toInt)), (6, decide (a.toNat < b.toNat)),
   (7, decide (a.toNat ≥ b.toNat)), (8, decide (a.toNat ≤ b.toNat)), (9, decide (a.toNat > b.toNat))]

/-- R97: cmp, with a register or with the literal; opcode 0x28 of format SC with FM = 0. -/
def Sys2Proof.compareResult : Prop :=
  ∀ (s : State) (f : SC), encode (.cmp f) = encSL 0x28 f.enc f.lit ∧ ((Instr.cmp f).wf = true → f.fm = false) ∧ ∀ e ∈ conditionTable (s.rs f.sa) (s.scB f), f.cond = e.1 →
    ∃ t, exec (.cmp f) s = .next t ∧ PBecomes s t f.pd.toNat e.2 1 ∧ OnlyP s t [f.pd.toNat] ∧ SameFlags s t

/-- R98: pset copies a bit, plog looks two predicates up in its truth table; a result for p0 is discarded. -/
def Sys2Proof.predicateLogic : Prop :=
  (∀ (f : SQ) (g : SP), encode (.pset f) = [sSyl 0x29 false f.enc] ∧ encode (.plog g) = [sSyl 0x2A false g.enc]) ∧
  (∀ (s : State) (f : SQ), ∃ t, exec (.pset f) s = .next t ∧
    PBecomes s t f.pd.toNat ((s.rs f.sa).getLsbD f.bit.toNat) 1 ∧ OnlyP s t [f.pd.toNat] ∧ SameFlags s t) ∧
  ∀ (s : State) (f : SP), ∃ t, exec (.plog f) s = .next t ∧
    PBecomes s t f.pd.toNat (f.tt.getLsbD (2 * (s.rp f.pa).toNat + (s.rp f.pb).toNat)) 1 ∧
    OnlyP s t [f.pd.toNat] ∧ SameFlags s t

/-- The guard of an instruction whose format has one (R79). -/
def Sys2Proof.guardOf : Instr → Option (BitVec 4 × Bool)
  | .add f | .sub f | .mul f | .mulh f | .mulhz f | .div f | .divz f | .rem f | .remz f | .and f | .or f | .xor f
  | .andn f | .shl f | .shr f | .sar f | .rotl f | .clz f | .ctz f | .popc f | .min f | .max f | .minz f | .maxz f
  | .addsh f => some (f.pg, f.pn)
  | .addi f => some (f.pg, f.pn)
  | .movi f | .movhi f => some (f.pg, f.pn)
  | .ld f | .st f => some (f.pg, f.pn)
  | .movsys f | .movctlRead f | .movctlWrite f => some (f.pg, f.pn)
  | .movstg f | .rdstg f => some (f.pg, f.pn)
  | .rst f | .rld f => some (f.pg, f.pn)
  | _ => none

/-- R79: at a tile where the predicate PG, exclusive-ORed with PN, is 0, a guarded instruction changes nothing at all. -/
def Sys2Proof.guardedOff : Prop :=
  ∀ (s : State) (i : Instr) (g : BitVec 4 × Bool), guardOf i = some g → (s.rp g.1 ^^ g.2) = false → exec i s = .next s

/-- R88, R89: s0 reads as zero and p0 as 1 at every clock, in every state. -/
def Sys2Proof.constantRegisters : Prop :=
  ∀ (r : Regs) (u : Nat), r.readS u 0 = 0 ∧ r.readP u 0 = true

/-! ## Scratchpad access by scalar slots (R99 to R101) -/

/-- The address of LD and ST: s[SA] plus the sign-extended literal, or plus 0 (R99). -/
def Sys2Proof.scalarAddr (s : State) (f : SM) : Nat :=
  (((s.rs f.sa).toNat : Int) + (match f.lit with | some l => l.toInt | none => 0) |>.emod (2 ^ 64)).toNat

/-- Bytes of an access by SZ (R78, R99). -/
def Sys2Proof.accessBytes (sz : BitVec 3) : Nat :=
  match sz.toNat with
  | 0 | 4 => 1
  | 1 | 5 => 2
  | 2 | 6 => 4
  | _ => 8

/-- Loaded bytes, zero-extended for .z8 to .z32 and .64, sign-extended for .s8 to .s32 (R99). -/
def Sys2Proof.extended (sz : BitVec 3) (bs : List Byte) : DWord :=
  let x := leNat bs
  let n := 8 * bs.length
  BitVec.ofInt 64 (if 4 ≤ sz.toNat ∧ 2 ^ n ≤ 2 * x then (x : Int) - 2 ^ n else x)

/-- No soft error lies in the units of own-scratchpad bytes (R447). -/
def Sys2Proof.errorFree (s : State) (a n : Nat) : Prop :=
  ∀ x ∈ s.upsets, ∀ i, i < n → x.unit?.map (·.1) ≠ some (unitOf (s.pad s.focus.die s.focus.tile (a + i)))

/-- R99, R101, R447, R451: an aligned ld inside the scratchpad completes. It delivers the bytes as they stand at issue + 1 of the tile's clock,
also where ECC corrects them, and nothing where a unit is poisoned; where no error is met, nothing else changes. -/
def Sys2Proof.scalarLoad : Prop :=
  ∀ (s : State) (f : SM), s.guard f.pg f.pn = true →
    let a := scalarAddr s f
    let n := accessBytes f.sz
    a + n ≤ 0x60000 → a % n = 0 →
    (s.padPoisonAt s.focus.die s.focus.tile (s.tt + 1) a n = false → ∃ t, exec (.ld f) s = .next t ∧
      SBecomes s t f.sd.toNat (extended f.sz (s.padBytes s.focus.die s.focus.tile (s.tt + 1) a n)) 3 ∧
      t.mem = s.mem ∧
      (errorFree s a n → OnlyS s t [f.sd.toNat] ∧ SameFlags s t)) ∧
    (s.padPoisonAt s.focus.die s.focus.tile (s.tt + 1) a n = true → ∃ t, exec (.ld f) s = .next t ∧
      t.fctx.r = s.fctx.r ∧ t.mem = s.mem)

/-- R99, R101: an aligned st inside the scratchpad completes. A read of the tile's scratchpad for a cycle two cycles after
its issue or later finds byte i of s[SD] at byte i of the access, where no later write stands behind it; a read for an
earlier cycle, or of a byte whose storage the access does not touch, finds what it found before. Nothing else changes. -/
def Sys2Proof.scalarStore : Prop :=
  ∀ (s : State) (f : SM), s.guard f.pg f.pn = true →
    let a := scalarAddr s f
    let n := accessBytes f.sz
    let d := s.focus.die
    let k := s.focus.tile
    let lands := padTick s (s.t + 2)
    a + n ≤ 0x60000 → a % n = 0 →
    ∃ t, exec (.st f) s = .next t ∧
      t = { s with tiles := t.tiles } ∧
      (∀ x, x ≠ tileKey d k → t.tiles.get x = s.tiles.get x) ∧
      t.tile d k = { s.tile d k with pend := (t.tile d k).pend } ∧
      (∀ i, i < n → PadLast s (s.t + 2) →
        (∀ i' j, i' < n → j < n → i' ≠ j →
          redirect (s.tile d k).bufs (a + i') ≠ redirect (s.tile d k).bufs (a + j)) →
        ∀ c, lands ≤ c → t.padBytes d k c (a + i) 1 = [((s.rs f.sd).extractLsb' (8 * i) 8)]) ∧
      (∀ c x, c < lands ∨ (∀ i, i < n → redirect (s.tile d k).bufs (a + i) ≠ redirect (s.tile d k).bufs x) →
        t.padBytes d k c x 1 = s.padBytes d k c x 1)

/-- R100: an access that does not lie wholly in the scratchpad takes scalar access outside scratchpad (0x41), whatever its
alignment, and one inside it that is misaligned takes misaligned access (0x42); the record's ADDR2 is the address. -/
def Sys2Proof.scalarAccessTraps : Prop :=
  ∀ (s : State) (f : SM), s.guard f.pg f.pn = true → ∀ i, (i = Instr.ld f ∨ i = Instr.st f) →
    let a := scalarAddr s f
    let n := accessBytes f.sz
    let info (cause : Nat) : TrapInfo := { cause := cause, kind := 0, eng := 1, addr2 := a % 2 ^ 57 }
    (0x60000 < a + n → exec i s = .next (s.takeTrap (info 0x41))) ∧
    (a + n ≤ 0x60000 → a % n ≠ 0 → exec i s = .next (s.takeTrap (info 0x42)))

/-! ## Scalar floating point (R102 to R108) -/

/-- The value of a scalar floating operand: F64, or F32 in bits 31:0 (R102, R133). -/
def Sys2Proof.floatOf (fm : Bool) (v : DWord) : Val :=
  let w := if fm then v.toNat else v.toNat % 2 ^ 32
  let (fb, eb) := if fm then (52, 11) else (23, 8)
  let neg := w.testBit (fb + eb)
  let e := w / 2 ^ fb % 2 ^ eb
  let m := w % 2 ^ fb
  let bias : Int := 2 ^ (eb - 1) - 1
  if e = 2 ^ eb - 1 then (if m = 0 then .inf neg else .nan (!m.testBit (fb - 1)))
  else if e = 0 then .fin neg m (1 - bias - fb)
  else .fin neg (2 ^ fb + m) (e - bias - fb)

/-- The exact results of R103, of operands a and b and of c = s[SD], with their bounds (R91). -/
def Sys2Proof.floatTable (f : SF) (a b c : Val) : List (Instr × Nat × Res) :=
  let long := if f.fm then 18 else 12
  [(.fadd f, 4, addV a b), (.fsub f, 4, addV a b.negate), (.fmul f, 4, mulV a b), (.fma f, 5, fmaV a b c),
   (.fdiv f, long, divV a b), (.fsqrt f, long, sqrtV a)]

/-- R103: the arithmetic instructions deliver their exact result, rounded once by RM, and its flags. -/
def Sys2Proof.floatArithmetic : Prop :=
  ∀ (s : State) (f : SF),
    ∀ e ∈ floatTable f (floatOf f.fm (s.rs f.sa)) (floatOf f.fm (s.rs f.sb)) (floatOf f.fm (s.rs f.sd)),
      let r := (fmFmt f.fm).deliver f.rm.toNat e.2.2
      ∃ t, exec e.1 s = .next t ∧ SBecomes s t f.sd.toNat (BitVec.ofNat 64 r.1) e.2.1 ∧
        OnlyS s t [f.sd.toNat] ∧ FBecomes s t r.2 e.2.1

/-- R102, R103: a NaN operand gives the canonical quiet NaN, with NV exactly where an operand signals; no other flag. -/
def Sys2Proof.floatNaN : Prop :=
  ∀ (s : State) (f : SF),
    let a := floatOf f.fm (s.rs f.sa)
    let b := floatOf f.fm (s.rs f.sb)
    let nan : DWord := if f.fm then 0x7FF8000000000000 else 0x7FC00000
    a.isNan = true ∨ b.isNan = true → ∀ i ∈ [Instr.fadd f, .fsub f, .fmul f, .fdiv f],
      ∃ t, exec i s = .next t ∧ SBecomes s t f.sd.toNat nan (if i = .fdiv f then (if f.fm then 18 else 12) else 4) ∧
        OnlyS s t [f.sd.toNat] ∧
        FBecomes s t (if a.isSig || b.isSig then fNV else 0) (if i = .fdiv f then (if f.fm then 18 else 12) else 4)

/-- A value orders below another as R104 orders them: −0 below +0. -/
def Sys2Proof.below (a b : Val) : Bool := ltV a b || (!ltV b a && a.sign && !b.sign)

/-- R104: fmin and fmax: of two numbers the lesser or greater, the number of a number and a quiet NaN, and the canonical
NaN of two NaNs or, with NV, of a signalling one; opcodes 0x3E and 0x3F. -/
def Sys2Proof.floatMinMax : Prop :=
  ∀ (s : State) (f : SF),
    let a := floatOf f.fm (s.rs f.sa)
    let b := floatOf f.fm (s.rs f.sb)
    let bits (v : DWord) : DWord := if f.fm then v else v &&& 0xFFFFFFFF
    let nan : DWord := if f.fm then 0x7FF8000000000000 else 0x7FC00000
    let sig := a.isSig || b.isSig
    encode (.fmin f) = [sSyl 0x3E false f.enc] ∧ encode (.fmax f) = [sSyl 0x3F false f.enc] ∧
    ∀ e ∈ [(Instr.fmin f, below a b), (.fmax f, !below a b)],
      ∃ t, exec e.1 s = .next t ∧
        SBecomes s t f.sd.toNat
          (if sig || (a.isNan && b.isNan) then nan
           else if a.isNan then bits (s.rs f.sb)
           else if b.isNan then bits (s.rs f.sa)
           else if e.2 then bits (s.rs f.sa) else bits (s.rs f.sb)) 2 ∧
        OnlyS s t [f.sd.toNat] ∧ FBecomes s t (if sig then fNV else 0) 2

/-- The rows of R105: the condition's code, whether it holds of two numbers, whether it holds where an operand is NaN, and
whether any NaN sets NV or only a signalling one. -/
def Sys2Proof.floatConditions (a b : Val) : List (Nat × Bool × Bool × Bool) :=
  [(0, !ltV a b && !ltV b a, false, false), (1, ltV a b || ltV b a, true, false), (2, ltV a b, false, true),
   (3, !ltV a b, false, true), (4, !ltV b a, false, true), (5, ltV b a, false, true), (10, false, true, false),
   (11, true, false, false)]

/-- R105: fcmp, opcode 0x40: its conditions of numbers and of NaN operands, with NV. -/
def Sys2Proof.floatCompare : Prop :=
  ∀ (s : State) (f : SC),
    let a := floatOf f.fm (s.rs f.sa)
    let b := floatOf f.fm (s.rs f.sb)
    let un := a.isNan || b.isNan
    (f.lit = none → encode (.fcmp f) = [sSyl 0x40 false f.enc]) ∧
    ∀ e ∈ floatConditions a b, f.cond.toNat = e.1 →
      ∃ t, exec (.fcmp f) s = .next t ∧ PBecomes s t f.pd.toNat (if un then e.2.2.1 else e.2.1) 2 ∧
        OnlyP s t [f.pd.toNat] ∧
        FBecomes s t (if (if e.2.2.2 then un else a.isSig || b.isSig) then fNV else 0) 2

/-- The class of R106, by its bit. -/
def Sys2Proof.classOf (fm : Bool) (v : DWord) : Nat :=
  let least : Nat := if fm then 2 ^ 52 else 2 ^ 23
  match floatOf fm v with
  | .nan true => 8
  | .nan false => 9
  | .inf true => 0
  | .inf false => 7
  | .fin n m _ =>
    if m = 0 then (if n then 3 else 4) else if m < least then (if n then 2 else 5) else if n then 1 else 6

/-- R106, R107: fclass gives the one-hot class; fcvt converts as CV selects, rounded once by RM. -/
def Sys2Proof.floatClassConvert : Prop :=
  (∀ (s : State) (f : SF), ∃ t, exec (.fclass f) s = .next t ∧
    SBecomes s t f.sd.toNat (BitVec.ofNat 64 (2 ^ classOf f.fm (s.rs f.sa))) 2 ∧ OnlyS s t [f.sd.toNat] ∧
    SameFlags s t) ∧
  ∀ (s : State) (f : SF),
    let v := s.rs f.sa
    let other := fmFmt (!f.fm)
    let nan : Nat := if f.fm then 0x7FC00000 else 0x7FF8000000000000
    let whole (m : Nat) (e : Int) (n : Bool) : Int :=
      let r := (roundAt f.rm.toNat n m (-e) false).1
      if n then -(r : Int) else r
    let exact (m : Nat) (e : Int) (n : Bool) : Bool := !(roundAt f.rm.toNat n m (-e) false).2
    let r : Nat × Flags :=
      match f.cv.toNat, floatOf f.fm v with
      | 0, .nan sig => (nan, if sig then fNV else 0)
      | 0, .inf n => other.deliver f.rm.toNat (.inf n false)
      | 0, .fin n m e => other.round f.rm.toNat ⟨n, m, e, false⟩
      | 1, .nan _ => (0, fNV)
      | 1, .inf n => (if n then 2 ^ 63 else 2 ^ 63 - 1, fNV)
      | 1, .fin n m e =>
        if whole m e n < -(2 ^ 63) then (2 ^ 63, fNV)
        else if 2 ^ 63 ≤ whole m e n then (2 ^ 63 - 1, fNV)
        else ((whole m e n % 2 ^ 64).toNat, if exact m e n then 0 else fNX)
      | 2, _ => (fmFmt f.fm).round f.rm.toNat ⟨v.toInt < 0, v.toInt.natAbs, 0, false⟩
      | _, _ => (fmFmt f.fm).round f.rm.toNat ⟨false, v.toNat, 0, false⟩
    ∃ t, exec (.fcvt f) s = .next t ∧ SBecomes s t f.sd.toNat (BitVec.ofNat 64 r.1) 4 ∧
      OnlyS s t [f.sd.toNat] ∧ FBecomes s t r.2 4

/-- R108: fchk takes flag check, with the flags that met as its status, where FSR and s[SA][7:0] meet; else it changes
nothing. -/
def Sys2Proof.flagCheck : Prop :=
  ∀ (s : State) (f : SF),
    let x := s.fctx.r.readFsr s.t &&& (s.rs f.sa).extractLsb' 0 8
    (x = 0 → exec (.fchk f) s = .next s) ∧
    (x ≠ 0 → exec (.fchk f) s = .next (s.takeTrap { cause := 0x20, kind := 0, eng := 1, status := x.toNat }) ∧
      (s.takeTrap { cause := 0x20, kind := 0, eng := 1, status := x.toNat }).fctx.r = s.fctx.r)

/-! ## System and staging registers (R109 to R111, R428) -/

/-- The values of R109 by selector, for a context of a caravan. -/
def Sys2Proof.systemTable (s : State) : List (Nat × Nat) :=
  let k := s.focus.tile
  let c := s.car s.focus.die k
  let e := s.fctx.e
  [(0x000, k / 32), (0x001, k % 32), (0x002, k), (0x003, k / 32 - c.row), (0x004, k % 32 - c.col), (0x005, c.h),
   (0x006, c.w), (0x007, s.focus.die), (0x008, s.focus.ctx), (0x009, c.asid), (0x00A, c.idx),
   (0x00B, s.fctx.wid.toNat), (0x00C, (s.die s.focus.die).ttc), (0x00D, s.ftile.tseq.toNat),
   (0x00E, (s.die s.focus.die).inc), (0x010, s.alstat.toNat), (0x011, s.ftile.tags.toNat),
   (0x012, (if e.msat then 2 ^ 63 else 0) + (if e.mvalid then 2 ^ 62 else 0) + e.mprog % 2 ^ 32)]

/-- R109, R224, R260: movsys reads the value that SEL selects. -/
def Sys2Proof.systemRegisters : Prop :=
  ∀ (s : State) (f : SS), s.guard f.pg f.pn = true → s.focus.ctx < 4 →
    ∀ e ∈ systemTable s, f.sel.toNat = e.1 → ∃ t, exec (.movsys f) s = .next t ∧
      SBecomes s t f.sd.toNat (BitVec.ofNat 64 e.2) 2 ∧ OnlyS s t [f.sd.toNat] ∧ SameFlags s t

/-- The values of R110 and R428 by selector. -/
def Sys2Proof.controlTable (s : State) : List (Nat × DWord) :=
  let c := s.fctx
  [(0x000, (c.r.readFsr s.t).zeroExtend 64), (0x001, BitVec.ofNat 64 c.r.voff), (0x002, BitVec.ofNat 64 c.r.soff),
   (0x003, BitVec.ofNat 64 ((upFrom 0 16).map fun n => if c.r.readP s.t n then 2 ^ n else 0).sum),
   (0x004, BitVec.ofNat 64 (c.e.fill.toNat + 16 * c.e.busy.toNat)), (0x100, c.t.tvec), (0x101, c.t.tdeleg),
   (0x102, BitVec.ofNat 64
     ((if c.t.hm then 2 ^ 63 else 0) + (if c.t.trapped then 2 ^ 62 else 0) + if c.t.dmg then 2 ^ 61 else 0)),
   (0x110, if c.t.hm then c.t.trpos else 0)]
    ++ ((upFrom 0 8).map fun n => (0x108 + n, c.t.trec.getD n 0))
    ++ (upFrom 0 4).map fun n => (0x118 + n, c.t.tscr.get n)

/-- R110, R428: movctl reads the register that SEL selects, and a write to a register that can be written is what a read
in the next bundle finds, with the reserved bits zero. -/
def Sys2Proof.controlRegisters : Prop :=
  (∀ (s : State) (f : SS), s.guard f.pg f.pn = true → ∀ e ∈ controlTable s, f.sel.toNat = e.1 →
    ∃ t, exec (.movctlRead f) s = .next t ∧ SBecomes s t f.sd.toNat e.2 2 ∧ OnlyS s t [f.sd.toNat] ∧
      SameFlags s t) ∧
  ∀ (s : State) (f : SS), s.guard f.pg f.pn = true → s.fctx.r.late = [] → s.fctx.r.fW = [] →
    ∀ e ∈ [(0x000, (0xFF : DWord)), (0x001, 0x1F), (0x002, 7), (0x100, 0xFFFFFFFFFFFFFC00), (0x101, 0xF),
        (0x118, BitVec.allOnes 64), (0x119, BitVec.allOnes 64), (0x11A, BitVec.allOnes 64),
        (0x11B, BitVec.allOnes 64)],
      f.sel.toNat = e.1 → ∃ t, exec (.movctlWrite f) s = .next t ∧ OnlyFocus s t ∧
        t.fctx.r = { s.fctx.r with late := t.fctx.r.late } ∧
        (∀ sel, t.ctlReg sel = s.ctlReg sel) ∧
        ∀ no, (t.closeBundle no).ctlReg e.1 = s.rs f.sd &&& e.2

/-- R110: a write to preds gives each of p1 to p15 its bit, and leaves p0 alone. -/
def Sys2Proof.predicateWrites : Prop :=
  ∀ (s : State) (f : SS), s.guard f.pg f.pn = true → f.sel.toNat = 0x003 →
    ∃ t, exec (.movctlWrite f) s = .next t ∧ OnlyP s t ((upFrom 1 15)) ∧ SameFlags s t ∧
      ∀ n, n < 16 → PBecomes s t n ((s.rs f.sd).getLsbD n) 1

/-- R59, R61, R111: movstg writes the register in the set that FILL names; into a busy set it holds in free mode; rdstg
reads either set. That a staging register keeps its reserved bits, so that rdstg reads them back, is the model's choice (log
100). -/
def Obligations.StagingRegisters : Prop :=
  (∀ (s : State) (f : SG), s.guard f.pg f.pn = true →
    let e := s.fctx.e
    let set := e.fill.getLsbD f.eng.toNat
    let key := (if set then 64 else 0) + 16 * f.eng.toNat + f.idx.toNat
    let v : DWord := match f.lit with
      | some l => BitVec.ofInt 64 l.toInt
      | none => s.rs f.sd
    (e.busy.getLsbD (2 * f.eng.toNat + set.toNat) = false → ∃ t, exec (.movstg f) s = .next t ∧ OnlyFocus s t ∧
      t.fctx = { s.fctx with e := { e with stgW := t.fctx.e.stgW } } ∧
      (∀ k u, k ≠ key → readW (t.fctx.e.stg.get k) t.fctx.e.stgW k u = readW (e.stg.get k) e.stgW k u) ∧
      ∀ u, s.t + 1 < u → Quiet e.stgW key u → readW (t.fctx.e.stg.get key) t.fctx.e.stgW key u = v) ∧
    (e.busy.getLsbD (2 * f.eng.toNat + set.toNat) = true → s.timed = false →
      exec (.movstg f) s = .next (s.noteHold 1))) ∧
  ∀ (s : State) (f : SG), s.guard f.pg f.pn = true →
    let e := s.fctx.e
    let key := (if f.set then 64 else 0) + 16 * f.eng.toNat + f.idx.toNat
    ∃ t, exec (.rdstg f) s = .next t ∧ SBecomes s t f.sd.toNat (readW (e.stg.get key) e.stgW key s.t) 2 ∧
      OnlyS s t [f.sd.toNat] ∧ SameFlags s t

/-! ## Vector operands (R157 to R168, R339) -/

/-- vmov shows what each source form delivers (R158, R164, R167, R168): an operand register or a main-file register its
value; a FIFO the context's oldest rows, which leave it; a read port the rows of its walk, each as it stands at issue + 1 +
its number ÷ 4. Here the destination is an operand register, nothing is masked, and no source row is poisoned or holds a soft
error (R447, R451). -/
def Sys2Proof.vectorSourceForms : Prop :=
  ∀ (s : State) (f : VF), isO f.vd = true → f.ke = false → f.lua = false → f.lub = false → f.luc = false →
    let h := vh f
    let d := s.focus.die
    let k := s.focus.tile
    let bound := (h + 3) / 4 + 2
    let all : VReg := BitVec.ofNat 8192 (2 ^ (512 * h) - 1)
    (isO f.va = true → cleanO s f.va.toNat h → ∃ t, exec (.vmov f) s = .next t ∧
      OBecomes s t f.vd.toNat all (s.ro f.va.toNat) bound ∧ OnlyO s t [f.vd.toNat] ∧ SameFlags s t) ∧
    (isV f.va = true → cleanV s (physV s.fctx.r.voff (f.va.toNat - 128)) h → ∃ t, exec (.vmov f) s = .next t ∧
      OBecomes s t f.vd.toNat all (mainAt s (physV s.fctx.r.voff (f.va.toNat - 128)) s.t) bound ∧
      OnlyO s t [f.vd.toNat] ∧ SameFlags s t) ∧
    (isFifo f.va = true →
      let dir := f.va.toNat - 16
      let mine := fifoRows (s.ftile.fifo.get dir) s.focus.ctx
      (s.neighbour dir).isSome = true → h ≤ mine.length → ∃ t, exec (.vmov f) s = .next t ∧
        OBecomes s t f.vd.toNat all (ofRows (mine.take h)) bound ∧
        fifoRows ((t.tile d k).fifo.get dir) s.focus.ctx = mine.drop h ∧
        ∀ c, c ≠ s.focus.ctx →
          fifoRows ((t.tile d k).fifo.get dir) c = fifoRows (s.ftile.fifo.get dir) c) ∧
    (isReadPort f.va = true →
      let g := f.va.toNat - 8
      let walk := ((s.fctx.ports.get g).full).walk h
      ((s.fctx.ports.get g).full).bad = false → (∀ a ∈ walk.1, 0 ≤ a ∧ a + 64 ≤ 0x60000) →
      (∀ q a, walk.1[q]? = some a → s.padPoisonAt d k (s.t + 1 + q / 4) a.toNat 64 = false) →
      ∃ t, exec (.vmov f) s = .next t ∧
        OBecomes s t f.vd.toNat all
          (ofRows ((upFrom 0 h).map fun q => bytesRow (s.padBytes d k (s.t + 1 + q / 4) (walk.1.getD q 0).toNat 64)))
          bound ∧
        t.fctx.ports.get g = walk.2)

/-- What a source that cannot be read does (R164, R168, R339): a FIFO with too few rows holds the slot in free mode; a FIFO
from outside the caravan takes FIFO outside caravan; a port with invalid parameters, or a row outside the scratchpad, takes
its trap. -/
def Sys2Proof.vectorSourceStops : Prop :=
  ∀ (s : State) (f : VF),
    let trap (cause addr : Nat) : TrapInfo := { cause := cause, kind := 0, eng := 2, addr2 := addr }
    let trapS (cause status : Nat) : TrapInfo := { cause := cause, kind := 0, eng := 2, status := status }
    (isFifo f.va = true →
      let dir := f.va.toNat - 16
      ((s.neighbour dir).isNone = true → exec (.vmov f) s = .next (s.takeTrap (trapS 0x60 dir))) ∧
      ((s.neighbour dir).isSome = true →
        (fifoRows (s.ftile.fifo.get dir) s.focus.ctx).length < vh f → s.timed = false →
        exec (.vmov f) s = .next (s.noteHold (16 * dir)))) ∧
    (isReadPort f.va = true →
      let p := (s.fctx.ports.get (f.va.toNat - 8)).full
      (p.bad = true → exec (.vmov f) s = .next (s.takeTrap (trapS 0x44 (f.va.toNat - 8)))) ∧
      (p.bad = false → ∀ a, (p.walk (vh f)).1.find? (fun a => decide (a < 0 ∨ 0x60000 < a + 64)) = some a →
        exec (.vmov f) s = .next (s.takeTrap (trap 0x43 (a % 2 ^ 57).toNat))))

/-- vmov shows where each destination form puts the result (R157, R162, R167, R168, R340): a main-file register takes the
written elements; a write port stores whole rows, row q at issue + 2 + q ÷ 4, with zeros for elements that are not written;
a FIFO sends whole rows to the neighbour, where they are one cycle after they land: within the instruction's bound, in
timetabled mode at its end, and not before rows sent earlier that are there by then; a push out of the caravan is lost. -/
def Obligations.VectorDestinations : Prop :=
  ∀ (s : State) (f : VF), isO f.va = true → f.lua = false → f.lub = false → f.luc = false → cleanO s f.va.toNat (vh f) →
    let h := vh f
    let d := s.focus.die
    let v := s.ro f.va.toNat
    let m := writtenBits s f
    let bound := (h + 3) / 4 + 2
    (isV f.vd = true → ∃ t, exec (.vmov f) s = .next t ∧
      VBecomes s t (physV s.fctx.r.voff (f.vd.toNat - 128)) m v ((h + 3) / 4 + 2) ∧ OnlyRegs s t ∧
      t.fctx.r = { s.fctx.r with vW := t.fctx.r.vW }) ∧
    (f.vd.toNat = 14 ∨ f.vd.toNat = 15 →
      let p := (s.fctx.ports.get (f.vd.toNat - 8)).full
      p.bad = false → (∀ a ∈ (p.walk h).1, 0 ≤ a ∧ a + 64 ≤ 0x60000) → ∃ t, exec (.vmov f) s = .next t ∧
        t.fctx.ports.get (f.vd.toNat - 8) = (p.walk h).2 ∧
        Stores (s.modF fun c => { c with ports := c.ports.set (f.vd.toNat - 8) (p.walk h).2 }) t
          ((upFrom 0 h).flatMap fun q => (upFrom 0 64).map fun b =>
            (s.t + 2 + q / 4, ((p.walk h).1.getD q 0).toNat + b,
              (v &&& m).extractLsb' (512 * q + 8 * b) 8))) ∧
    (isFifo f.vd = true →
      let dir := f.vd.toNat - 16
      (s.neighbour dir = none → exec (.vmov f) s = .next s) ∧
      ∀ n, s.neighbour dir = some n →
        let back := (dir + 2) % 4
        ((s.tile d n).fifoUsed s.now back s.focus.ctx + h ≤ 32 / max (s.car d n).nctx 1 →
          ∃ t cycle, exec (.vmov f) s = .next t ∧
            (t.tile d n).fifoIn = (s.tile d n).fifoIn ++
              ((upFrom 0 h).map fun q => ⟨cycle, back, s.focus.ctx, (v &&& m).extractLsb' (512 * q) 512, s.writeId⟩) ∧
            s.now < cycle ∧ cycle ≤ s.now + bound + 1 ∧ (s.timed = true → cycle = s.now + bound + 1) ∧
            ∀ r ∈ (s.tile d n).fifoIn, r.dir = back → r.ctx = s.focus.ctx → r.cycle ≤ s.now + bound + 1 →
              r.cycle ≤ cycle) ∧
        (32 / max (s.car d n).nctx 1 < (s.tile d n).fifoUsed s.now back s.focus.ctx + h → s.timed = false →
          exec (.vmov f) s = .next (s.noteHold (16 * dir + 64))))

/-- R160: a register marked for its last use reads as an unspecified value, one and the same, from the next cycle on, until
a write issued then or later lands. The register's row holds no soft error here (R447). -/
def Sys2Proof.lastUse : Prop :=
  ∀ (s : State) (f : VF), isO f.va = true → isO f.vd = true → f.vd ≠ f.va → f.lua = true → f.lub = false →
    f.luc = false → cleanO s f.va.toNat (vh f) → (∀ p ∈ s.fctx.r.oW, p.reg = f.va.toNat → p.t0 < s.t) →
    ∃ t k, exec (.vmov f) s = .next t ∧ ∀ u, s.t < u → Quiet s.fctx.r.oW f.va.toNat u →
      t.fctx.r.readO u f.va.toNat = Config.freeBits 8192 k

/-! ## Element by element (R170 to R172) -/

/-- An element of an I type as an integer (R155, R170). -/
def Sys2Proof.intElem (f : VF) (x : Nat) : Int :=
  if f.ty.toNat % 2 = 0 ∧ 2 ^ (8 * vfW f) ≤ 2 * x then (x : Int) - 2 ^ (8 * vfW f) else x
/-- An exact integer result: wrapped, or with SAT clamped to the range of TY, with ST where the clamp changes it (R139,
R170). -/
def Sys2Proof.fits (f : VF) (x : Int) : Nat × Flags :=
  let w := 8 * vfW f
  let lo : Int := if f.ty.toNat % 2 = 0 then -(2 ^ (w - 1)) else 0
  let hi : Int := if f.ty.toNat % 2 = 0 then 2 ^ (w - 1) - 1 else 2 ^ w - 1
  if f.sat = true ∧ x < lo then ((lo % 2 ^ w).toNat, fST)
  else if f.sat = true ∧ hi < x then ((hi % 2 ^ w).toNat, fST)
  else ((x % 2 ^ w).toNat, 0)

/-- The integer instructions of R170 and R172: bound past the occupancy, source fields, element result. -/
def Sys2Proof.integerElements (f : VF) : List (Instr × Nat × List (BitVec 8) × (List Nat → Nat × Flags)) :=
  let w := 8 * vfW f
  let i := intElem f
  let a (l : List Nat) : Nat := l.getD 0 0
  let b (l : List Nat) : Nat := l.getD 1 0
  let c (l : List Nat) : Nat := l.getD 2 0
  [(.vadd f, 2, [f.va, f.vb], fun l => fits f (i (a l) + i (b l))),
   (.vsub f, 2, [f.va, f.vb], fun l => fits f (i (a l) - i (b l))),
   (.vmul f, 4, [f.va, f.vb], fun l => fits f (i (a l) * i (b l))),
   (.vmulh f, 4, [f.va, f.vb], fun l => ((i (a l) * i (b l) / 2 ^ w % 2 ^ w).toNat, 0)),
   (.vfma f, 4, [f.va, f.vb, f.vc], fun l =>
     fits f ((if f.na then -1 else 1) * i (a l) * i (b l) + (if f.nc then -1 else 1) * i (c l))),
   (.vmin f, 2, [f.va, f.vb], fun l => (if i (a l) ≤ i (b l) then a l else b l, 0)),
   (.vmax f, 2, [f.va, f.vb], fun l => (if i (a l) ≤ i (b l) then b l else a l, 0)),
   (.vabs f, 2, [f.va], fun l => fits f (i (a l)).natAbs),
   (.vneg f, 2, [f.va], fun l => fits f (-(i (a l)))),
   (.vshl f, 2, [f.va, f.vb], fun l => fits f (i (a l) * 2 ^ (b l % w))),
   (.vshr f, 2, [f.va, f.vb], fun l => (a l / 2 ^ (b l % w), 0)),
   (.vsar f, 2, [f.va, f.vb], fun l =>
     (((BitVec.ofNat w (a l)).sshiftRight (b l % w)).toNat, 0)),
   (.vclz f, 2, [f.va], fun l => (((List.range w).takeWhile fun j => !(BitVec.ofNat w (a l)).getMsbD j).length, 0)),
   (.vpopc f, 2, [f.va], fun l => (((List.range w).filter fun j => (a l).testBit j).length, 0))]

/-- R170, R172: on I types the integer vector instructions complete with these elements. -/
def Sys2Proof.vectorIntegers : Prop :=
  ∀ (s : State) (f : VF), f.ty.toNat ≤ 5 → ∀ e ∈ integerElements f,
    Delivers s e.1 f (e.2.2.1.map fun c => (c, vh f)) (vh f) ((vh f + 3) / 4 + e.2.1)
      (byElement s f e.2.2.1 e.2.2.2)

/-- R171, R176: the bitwise instructions and vmov, on every type. -/
def Sys2Proof.vectorBits : Prop :=
  ∀ (s : State) (f : VF),
    let rows : VReg := BitVec.ofNat 8192 (2 ^ (512 * vh f) - 1)
    let bound := (vh f + 3) / 4 + 2
    (∀ e ∈ ([(.vand f, fun a b => a &&& b), (.vor f, fun a b => a ||| b), (.vxor f, fun a b => a ^^^ b),
        (.vandn f, fun a b => a &&& ~~~b)] : List (Instr × (VReg → VReg → VReg))),
      Delivers s e.1 f [(f.va, vh f), (f.vb, vh f)] (vh f) bound
        (fun v => (writtenBits s f, e.2 (v f.va) (v f.vb) &&& rows, 0))) ∧
    Delivers s (.vmov f) f [(f.va, vh f)] (vh f) bound (fun v => (writtenBits s f, v f.va &&& rows, 0))

/-- The instructions of R170, R193 on T and F types: bound past the occupancy, source fields, exact result, rounded
once. -/
def Sys2Proof.realElements (f : VF) : List (Instr × Nat × List (BitVec 8) × (List Nat → Nat × Flags)) :=
  let m := vfFmt f
  let v (l : List Nat) (n : Nat) : Val := m.dec (l.getD n 0)
  let sg (b : Bool) (x : Val) : Val := if b then x.negate else x
  let r (x : Res) : Nat × Flags := m.deliver f.rm.toNat x
  let one : Val := .fin false 1 0
  [(.vadd f, 4, [f.va, f.vb], fun l => r (addV (v l 0) (v l 1))),
   (.vsub f, 4, [f.va, f.vb], fun l => r (addV (v l 0) (v l 1).negate)),
   (.vmul f, 4, [f.va, f.vb], fun l => r (mulV (v l 0) (v l 1))),
   (.vfma f, 6, [f.va, f.vb, f.vc], fun l => r (fmaV (sg f.na (v l 0)) (v l 1) (sg f.nc (v l 2)))),
   (.vrcp f, 10, [f.va], fun l => r (divV one (v l 0))),
   (.vsqrt f, 10, [f.va], fun l => r (sqrtV (v l 0))),
   (.vrsq f, 10, [f.va], fun l => r (rsqV (v l 0))),
   (.vdiv f, 12, [f.va, f.vb], fun l => r (divV (v l 0) (v l 1)))]
    ++ ([(.vexp2 f, 10, .exp2), (.vlog2 f, 10, .log2), (.vexp f, 14, .exp), (.vlog f, 14, .log), (.vtanh f, 14, .tanh),
        (.vsig f, 14, .sig), (.vsin f, 18, .sin), (.vcos f, 18, .cos)] : List (Instr × Nat × Fn)).map fun e =>
      (e.1, e.2.1, [f.va], fun l => e.2.2.apply m f.rm.toNat (l.getD 0 0))

/-- R170, R193: on T and F types the arithmetic and the special functions complete with these elements. -/
def Sys2Proof.vectorRealArithmetic : Prop :=
  ∀ (s : State) (f : VF), 6 ≤ f.ty.toNat → f.ty.toNat ≤ 11 → ∀ e ∈ realElements f,
    Delivers s e.1 f (e.2.2.1.map fun c => (c, vh f)) (vh f) ((vh f + 3) / 4 + e.2.1)
      (byElement s f e.2.2.1 e.2.2.2)

/-- A finite value as a whole number of units of 2^e0; other values as 0. -/
def Sys2Proof.unitsAt (v : Val) (e0 : Int) : Int :=
  match v with
  | .fin neg m e => (if neg then -1 else 1) * (m : Int) * 2 ^ (e - e0).toNat
  | _ => 0
/-- A value is finite, and a whole number of units of 2^e0. -/
def Sys2Proof.wholeAt (v : Val) (e0 : Int) : Prop :=
  match v with
  | .fin _ _ e => e0 ≤ e
  | _ => False

/-- R103, R134, R149, R170: of finite operands the result before rounding is the exact sum, the exact product, or the exact
product plus addend; a zero sum is −0 only of two zeros −0. -/
def Sys2Proof.exactResults : Prop :=
  ∀ (a b c : Val) (ea eb : Int), wholeAt a ea → wholeAt b eb →
    (wholeAt b ea → ∃ x : Ex, addV a b = .ex x ∧ x.st = false ∧
      unitsAt (.fin x.neg x.m x.e) ea = unitsAt a ea + unitsAt b ea ∧
      (x.m = 0 → x.neg = (a.isZero && a.sign && b.isZero && b.sign))) ∧
    (∃ x : Ex, mulV a b = .ex x ∧ x.st = false ∧
      unitsAt (.fin x.neg x.m x.e) (ea + eb) = unitsAt a ea * unitsAt b eb ∧ x.neg = (a.sign != b.sign)) ∧
    (wholeAt c (ea + eb) → ∃ x : Ex, fmaV a b c = .ex x ∧ x.st = false ∧
      unitsAt (.fin x.neg x.m x.e) (ea + eb) = unitsAt a ea * unitsAt b eb + unitsAt c (ea + eb))

/-- A magnitude m as a multiple of 2^sh, by rounding mode: RNE, RZ, RU, RD (R72). -/
def Sys2Proof.nearest (rm : Nat) (neg : Bool) (m : Nat) (sh : Int) : Nat :=
  if sh ≤ 0 then m * 2 ^ (-sh).toNat
  else
    let d := 2 ^ sh.toNat
    if m % d = 0 then m / d
    else
      match rm with
      | 0 => if 2 * (m % d) < d ∨ (2 * (m % d) = d ∧ m / d % 2 = 0) then m / d else m / d + 1
      | 1 => m / d
      | 2 => if neg then m / d else m / d + 1
      | _ => if neg then m / d + 1 else m / d
/-- m × 2^e is below m' × 2^e'. -/
def Sys2Proof.magLt (m : Nat) (e : Int) (m' : Nat) (e' : Int) : Bool :=
  decide (m * 2 ^ (e - min e e').toNat < m' * 2 ^ (e' - min e e').toNat)
/-- m × 2^e is m' × 2^e'. -/
def Sys2Proof.magEq (m : Nat) (e : Int) (m' : Nat) (e' : Int) : Prop :=
  m * 2 ^ (e - min e e').toNat = m' * 2 ^ (e' - min e e').toNat

/-- R133 to R135, R141: an exact non-zero result m × 2^e is rounded once to a format with an exponent field: to the multiple
of its spacing there that the mode names, with NX where that is inexact and UF where it is also tiny after rounding (below
F16 that is the model's choice, log 21); beyond the largest magnitude, to infinity or that magnitude with OF and NX. -/
def Sys2Proof.roundedOnce : Prop :=
  ∀ ff ∈ [ff16, ffB16, ff32, ff64, ffE5M2, ffE4M3, ffE3M2, ffE2M3, ffE2M1], ∀ (rm : Nat) (neg : Bool) (m : Nat) (e : Int),
    rm < 4 → 0 < m →
    let top : Int := e + Nat.log2 m
    let emin : Int := 2 - 2 ^ (ff.eb - 1)
    let q : Int := max top emin - ff.fb
    let n := nearest rm neg m (q - e)
    let free := nearest rm neg m (top - ff.fb - e)
    let inexact : Bool := decide (0 < q - e ∧ m % 2 ^ (q - e).toNat ≠ 0)
    let r := ff.round rm ⟨neg, m, e, false⟩
    ∀ M eM, ff.dec ff.maxCode = .fin false M eM →
      (magLt M eM n q = false → ∃ m' e', ff.dec r.1 = .fin neg m' e' ∧ magEq m' e' n q ∧
        r.2 = (if inexact then fNX else 0) |||
          (if inexact && magLt free (top - ff.fb) 1 emin then fUF else 0)) ∧
      (magLt M eM n q = true → r.2 = fOF ||| fNX ∧
        ff.dec r.1 = if ff.kind = 0 ∧ (rm = 0 ∨ (rm = 2 ∧ neg = false) ∨ (rm = 3 ∧ neg = true)) then .inf neg
          else .fin neg M eM)

/-- R127: an exact non-zero result m × 2^e is rounded once to a tapered format: beyond maxpos or below minpos to that word
with CL and NX; else to the nearest of the words by the bit string of regime, exponent and fraction, a tie to the even one,
with NX where bits are cut off; a negative result is the two's complement. -/
def Sys2Proof.roundedTapered : Prop :=
  ∀ (n es : Nat) (neg : Bool) (m : Nat) (e : Int), n ∈ [8, 16, 32] → es < 4 → 0 < m →
    let top : Int := e + Nat.log2 m
    let lim : Int := ((n : Int) - 2) * 2 ^ es
    let k : Int := top / 2 ^ es
    let above : Prop := lim < top ∨ (top = lim ∧ m ≠ 2 ^ Nat.log2 m)
    let regime : Nat × Nat := if 0 ≤ k then (2 ^ (k.toNat + 2) - 2, k.toNat + 2) else (1, (-k).toNat + 1)
    let string := (regime.1 * 2 ^ es + (top % 2 ^ es).toNat) * 2 ^ Nat.log2 m + (m - 2 ^ Nat.log2 m)
    let cut : Int := (regime.2 + es + Nat.log2 m : Nat) - ((n : Int) - 1)
    let word (y : Nat) : Nat := if neg then 2 ^ n - y else y
    let r := (Fmt.t n es).round 0 ⟨neg, m, e, false⟩
    (above → r = (word (2 ^ (n - 1) - 1), fCL ||| fNX)) ∧
    (top < -lim → r = (word 1, fCL ||| fNX)) ∧
    (¬ above → -lim ≤ top →
      r = (word (nearest 0 false string cut), if 0 < cut ∧ string % 2 ^ cut.toNat ≠ 0 then fNX else 0) ∧
      0 < nearest 0 false string cut ∧ nearest 0 false string cut < 2 ^ (n - 1))

/-- R144, R170: vmin, vmax, vabs and vneg on T and F types. -/
def Sys2Proof.vectorSigns : Prop :=
  ∀ (s : State) (f : VF), 6 ≤ f.ty.toNat → f.ty.toNat ≤ 11 →
    let m := vfFmt f
    let w := 8 * vfW f
    let word (x : Nat) : Int := (BitVec.ofNat w x).toInt
    let two (x : Nat) : Nat := (2 ^ w - x) % 2 ^ w
    let nan : Nat := match m with
      | .f ff => ff.nanCode
      | _ => 2 ^ (w - 1)
    let pickMin (mx : Bool) (l : List Nat) : Nat × Flags :=
      let a := l.getD 0 0
      let b := l.getD 1 0
      let x := m.dec a
      let y := m.dec b
      if m.isT then
        (if x.isNan || y.isNan then nan else if (decide (word a < word b)) != mx then a else b, 0)
      else if x.isSig || y.isSig then (nan, fNV)
      else if x.isNan && y.isNan then (nan, 0)
      else if x.isNan then (b, 0)
      else if y.isNan then (a, 0)
      else (if below x y != mx then a else b, 0)
    let sign (clear : Bool) (l : List Nat) : Nat × Flags :=
      let a := l.getD 0 0
      let x := m.dec a
      if m.isT then (if clear && !decide (word a < 0) then a else two a, 0)
      else if x.isNan then (nan, if x.isSig then fNV else 0)
      else (a % 2 ^ (w - 1) + (if clear || x.sign then 0 else 2 ^ (w - 1)), 0)
    ∀ e ∈ ([(.vmin f, [f.va, f.vb], pickMin false), (.vmax f, [f.va, f.vb], pickMin true),
        (.vabs f, [f.va], sign true), (.vneg f, [f.va], sign false)] :
        List (Instr × List (BitVec 8) × (List Nat → Nat × Flags))),
      Delivers s e.1 f (e.2.1.map fun c => (c, vh f)) (vh f) ((vh f + 3) / 4 + 2) (byElement s f e.2.1 e.2.2)

/-- The fixed results of R194 for F32: function, operand code, result code, flags. -/
def Sys2Proof.fixedResults : List (Fn × Nat × Nat × Flags) :=
  let pInf := 0x7F800000
  let nInf := 0xFF800000
  let nZero := 0x80000000
  let nan := 0x7FC00000
  let one := 0x3F800000
  let nOne := 0xBF800000
  let half := 0x3F000000
  [(.exp2, nInf, 0, 0), (.exp2, nZero, one, 0), (.exp2, 0, one, 0), (.exp2, pInf, pInf, 0),
   (.exp, nInf, 0, 0), (.exp, nZero, one, 0), (.exp, 0, one, 0), (.exp, pInf, pInf, 0),
   (.log2, nInf, nan, fNV), (.log2, nOne, nan, fNV), (.log2, nZero, nInf, fDZ), (.log2, 0, nInf, fDZ),
   (.log2, pInf, pInf, 0), (.log, nInf, nan, fNV), (.log, nOne, nan, fNV), (.log, nZero, nInf, fDZ),
   (.log, 0, nInf, fDZ), (.log, pInf, pInf, 0), (.tanh, nInf, nOne, 0), (.tanh, nZero, nZero, 0), (.tanh, 0, 0, 0),
   (.tanh, pInf, one, 0), (.sig, nInf, 0, 0), (.sig, nZero, half, 0), (.sig, 0, half, 0), (.sig, pInf, one, 0),
   (.sin, nInf, nan, fNV), (.sin, nZero, nZero, 0), (.sin, 0, 0, 0), (.sin, pInf, nan, fNV),
   (.cos, nInf, nan, fNV), (.cos, nZero, one, 0), (.cos, 0, one, 0), (.cos, pInf, nan, fNV),
   (.log2, one, 0, 0), (.log, one, 0, 0)]

/-- R194: the special operands of the transcendental functions on F32, in every rounding mode. -/
def Sys2Proof.specialOperands : Prop :=
  ∀ rm, rm < 4 → ∀ e ∈ fixedResults, e.1.apply (.f ff32) rm e.2.1 = e.2.2

/-! ## Masks, moves, memory, ports (R173 to R182) -/

/-- Whether a comparison of R173 holds of two elements, by its code, and its flags. -/
def Sys2Proof.elementHolds (m : Fmt) (cond a b : Nat) : Bool × Flags :=
  let by' (x y : Int) : Bool :=
    match cond with
    | 0 => x == y
    | 1 => x != y
    | 2 => decide (x < y)
    | 3 => decide (x ≥ y)
    | 4 => decide (x ≤ y)
    | _ => decide (x > y)
  match m with
  | .i w sg => (by' (if sg && decide (2 ^ w ≤ 2 * a) then (a : Int) - 2 ^ w else a)
      (if sg && decide (2 ^ w ≤ 2 * b) then (b : Int) - 2 ^ w else b), 0)
  | .t n _ => (by' (BitVec.ofNat n a).toInt (BitVec.ofNat n b).toInt, 0)
  | m =>
    let x := m.dec a
    let y := m.dec b
    let un := x.isNan || y.isNan
    match (floatConditions x y).find? fun e => e.1 == cond with
    | some e => (if un then e.2.2.1 else e.2.1, if (if e.2.2.2 then un else x.isSig || y.isSig) then fNV else 0)
    | none => (false, 0)

/-- R162, R173 to R175: vcmp gives every bit of an element its comparison, 0 where the element is not enabled; vsel takes A
where the selector's bit is 1 and B elsewhere; klog looks its mask bits up in the truth table. Rows above ROWS keep their
bits. -/
def Obligations.MaskInstructions : Prop :=
  (∀ (s : State) (f : VF), f.ty.toNat ≤ 11 → f.vc.toNat < 6 ∨ (9 ≤ f.ty.toNat ∧ (f.vc.toNat = 10 ∨ f.vc.toNat = 11)) →
    ∀ s1 got, s.sources [(f.va, vh f), (f.vb, vh f)] = .ok (s1, got) →
      let r (e : Nat) := elementHolds (vfFmt f) f.vc.toNat (elemAt (vfW f) (pick got f.va) e)
        (elemAt (vfW f) (pick got f.vb) e)
      let v : Mask := BitVec.ofNat 1024 ((upFrom 0 (vfN f)).map fun e =>
        if writesElem s f e && (r e).1 then (2 ^ vfW f - 1) * 2 ^ (vfW f * e) else 0).sum
      let fl := orFlags ((upFrom 0 (vfN f)).map fun e => if writesElem s f e then (r e).2 else 0)
      ∃ t, exec (.vcmp f) s = .next t ∧
        KBecomes (s1.lastUses f) t f.vd.toNat (BitVec.ofNat 1024 (2 ^ (64 * vh f) - 1)) v ((vh f + 3) / 4 + 2) ∧
        OnlyK (s1.lastUses f) t [f.vd.toNat] ∧ FBecomes (s1.lastUses f) t fl ((vh f + 3) / 4 + 2)) ∧
  (∀ (s : State) (f : VF),
    Delivers s (.vsel f) f [(f.va, vh f), (f.vb, vh f)] (vh f) ((vh f + 3) / 4 + 2) fun v =>
      (BitVec.ofNat 8192 (2 ^ (512 * vh f) - 1),
        let m := writtenBits s { f with ke := true }
        (v f.va &&& m) ||| (v f.vb &&& ~~~m), 0)) ∧
  ∀ (s : State) (f : VF), ∃ t, exec (.klog f) s = .next t ∧ OnlyK s t [f.vd.toNat] ∧ SameFlags s t ∧
    ∀ u, s.t + ((vh f + 3) / 4 + 2) < u → Quiet s.fctx.r.kW f.vd.toNat u → ∀ i, i < 1024 →
      (t.fctx.r.readK u f.vd.toNat).getLsbD i =
        if i < 64 * vh f then
          f.vc.getLsbD (2 * ((s.rk f.va.toNat).getLsbD i).toNat + ((s.rk f.vb.toNat).getLsbD i).toNat)
        else (s.fctx.r.readK u f.vd.toNat).getLsbD i

/-- R177, R178: vsplat writes the low bits of s[VA] to every written element; vext delivers element s[VB] mod (1,024 ÷ W),
sign-extended for S types; vins replaces that element of VD as it stood at issue; here the rows
that they read are not poisoned and hold no soft error (R447, R451). -/
def Sys2Proof.splatExtractInsert : Prop :=
  ∀ (s : State) (f : VF),
    let w := vfW f
    let sc (c : BitVec 8) : DWord := s.rs (c.extractLsb' 0 6)
    let n := (sc f.vb).toNat % (1024 / w)
    Delivers s (.vsplat f) { f with lua := false, lub := false, luc := false } [] (vh f) ((vh f + 3) / 4 + 2) (fun _ =>
      (writtenBits s f, ofElems w ((upFrom 0 (vfN f)).map fun _ => (sc f.va).toNat % 2 ^ (8 * w)), 0)) ∧
    (cleanRows s (opKey s.focus.die s.focus.tile s.focus.ctx f.va.toNat + 64 * (n * w / 64)) 1 →
      let x := elemAt w (s.ro f.va.toNat) n
      let v : Int := if f.ty.toNat ≤ 4 ∧ f.ty.toNat % 2 = 0 ∧ 2 ^ (8 * w) ≤ 2 * x then (x : Int) - 2 ^ (8 * w) else x
      ∃ t, exec (.vext f) s = .next t ∧ SBecomes (s.lastUses f) t (f.vd.toNat % 64) (BitVec.ofInt 64 v) 4 ∧
        OnlyS (s.lastUses f) t [f.vd.toNat % 64]) ∧
    (cleanO s f.vd.toNat 16 → ∃ t, exec (.vins f) s = .next t ∧ OnlyO s t [f.vd.toNat] ∧ SameFlags s t ∧
      ∀ u, s.t + 3 < u → Quiet s.fctx.r.oW f.vd.toNat u → ∀ e, e < 1024 / w →
        elemAt w (t.fctx.r.readO u f.vd.toNat) e =
          if e = n then (sc f.va).toNat % 2 ^ (8 * w) else elemAt w (s.ro f.vd.toNat) e)

/-- R182: vcrc delivers one row: CRC-32C of the bytes of VA, from the running value in VB. -/
def Sys2Proof.checksum : Prop :=
  (∀ (s : State) (f : VF),
    Delivers s (.vcrc f) f [(f.va, vh f), (f.vb, 1)] 1 ((vh f + 3) / 4 + 8) fun v =>
      (BitVec.ofNat 8192 (2 ^ 512 - 1),
        BitVec.ofNat 8192 (crcUpdate ((v f.vb).toNat % 2 ^ 32)
          ((upFrom 0 (64 * vh f)).map fun i => (v f.va).extractLsb' (8 * i) 8)), 0)) ∧
  (∀ c bs, c < 2 ^ 32 → crcUpdate c bs < 2 ^ 32) ∧
  (∀ c a b, crcUpdate (crcUpdate c a) b = crcUpdate c (a ++ b)) ∧
  crcUpdate 0 [0x31, 0x32, 0x33, 0x34, 0x35, 0x36, 0x37, 0x38, 0x39] = 0xE3069283

/-- R179, R181: an aligned vld inside the scratchpad delivers its rows under the mask, row q as it stands at issue + 1 +
q ÷ 4; a vst stores the written elements of its rows, row q at issue + 2 + q ÷ 4. Poisoned rows (R451) and
soft errors (R447) are left out. -/
def Sys2Proof.vectorLoadStore : Prop :=
  (∀ (s : State) (f : VF),
    let a := (s.rs (f.va.extractLsb' 0 6)).toNat
    let h := vh f
    let row (q : Nat) : Row :=
      bytesRow (s.padBytes s.focus.die s.focus.tile (s.t + 1 + q / 4) (a + 64 * q) 64)
    a % 64 = 0 → a + 64 * h ≤ 0x60000 →
    (∀ q, q < h → s.padPoisonAt s.focus.die s.focus.tile (s.t + 1 + q / 4) (a + 64 * q) 64 = false) →
    errorFree s a (64 * h) →
    Delivers s (.vld f) { f with lua := false, lub := false, luc := false } [] h ((h + 3) / 4 + 2) fun _ =>
      (writtenBits s f, ofRows ((upFrom 0 h).map row), 0)) ∧
  ∀ (s : State) (f : VF),
    let a := (s.rs (f.va.extractLsb' 0 6)).toNat
    let h := vh f
    a % 64 = 0 → a + 64 * h ≤ 0x60000 → ∀ s1 got, s.sources [(f.vb, h)] = .ok (s1, got) →
    ∃ t, exec (.vst f) s = .next t ∧
      Stores (s1.lastUses f) t
        (((upFrom 0 h).flatMap fun q => (upFrom 0 64).map fun b => (q, b)).filterMap fun e =>
          if writesElem s f ((64 * e.1 + e.2) / vfW f) then
            some (s.t + 2 + e.1 / 4, a + 64 * e.1 + e.2,
              (pick got f.vb).extractLsb' (512 * e.1 + 8 * e.2) 8)
          else none)

/-- R179, R180: vld and vst check the alignment, then every row; a vgather or vscatter checks the enabled elements. -/
def Sys2Proof.vectorAccessTraps : Prop :=
  ∀ (s : State) (f : VF),
    let trap (cause addr : Nat) : TrapInfo := { cause := cause, kind := 0, eng := 2, addr2 := addr % 2 ^ 57 }
    (∀ i, i = Instr.vld f ∨ i = Instr.vst f →
      let a := (s.rs (f.va.extractLsb' 0 6)).toNat
      (a % 64 ≠ 0 → exec i s = .next (s.takeTrap (trap 0x42 a))) ∧
      (a % 64 = 0 → ∀ q, q < vh f → 0x60000 < a + 64 * q + 64 → (∀ p, p < q → a + 64 * p + 64 ≤ 0x60000) →
        exec i s = .next (s.takeTrap (trap 0x43 (a + 64 * q))))) ∧
    ∀ i, (i = Instr.vgather f ∨ i = Instr.vscatter f) → ∀ s1 iv, s.indexSource f = .ok (s1, iv) →
      f.ty.toNat = 4 ∨ f.ty.toNat = 5 ∨ f.ty.toNat = 8 ∨ f.ty.toNat = 11 →
      let addr (e : Nat) : Nat := ((s.rs (f.va.extractLsb' 0 6)).toNat + elemAt 4 iv e)
      (∀ e, e < 16 * vh f → writesElem s f e = true → addr e % 4 ≠ 0 →
        (∀ e', e' < e → writesElem s f e' = true → addr e' % 4 = 0) →
        exec i s = .next (s.takeTrap (trap 0x42 (addr e)))) ∧
      ((∀ e, e < 16 * vh f → writesElem s f e = true → addr e % 4 = 0) →
        ∀ e, e < 16 * vh f → writesElem s f e = true → 0x60000 < addr e + 4 →
        (∀ e', e' < e → writesElem s f e' = true → addr e' + 4 ≤ 0x60000) →
        exec i s = .next (s.takeTrap (trap 0x43 (addr e))))

/-- R180: a vgather delivers, for every written element, the 4 bytes at s[VA] + its index, row q as they stand at issue + 1
+ q; a vscatter stores them, row q at issue + 2 + q, an element after those before it. Poisoned words (R451) and
soft errors (R447) are left out. -/
def Sys2Proof.gatherScatter : Prop :=
  ∀ (s : State) (f : VF), f.ty.toNat = 4 ∨ f.ty.toNat = 5 ∨ f.ty.toNat = 8 ∨ f.ty.toNat = 11 →
    ∀ s1 iv, s.indexSource f = .ok (s1, iv) →
    let addr (e : Nat) : Nat := ((s.rs (f.va.extractLsb' 0 6)).toNat + elemAt 4 iv e)
    let n := 16 * vh f
    (∀ e, e < n → writesElem s f e = true → addr e % 4 = 0 ∧ addr e + 4 ≤ 0x60000) →
    ((∀ e, e < n → writesElem s f e = true →
        s1.padPoisonAt s.focus.die s.focus.tile (s.t + 1 + e / 16) (addr e) 4 = false ∧ errorFree s1 (addr e) 4) →
      ∀ s2, (s1.lastUses f).dest f.vd (vh f) (writtenBits s f)
          (ofElems 4 ((upFrom 0 n).map fun e => if writesElem s f e then
            leNat ((s1.lastUses f).padBytes s.focus.die s.focus.tile (s.t + 1 + e / 16) (addr e) 4) else 0))
          (vh f + 3) = .ok s2 → exec (.vgather f) s = .next s2) ∧
    ∀ s2 dv, (if f.vc = f.vb then .ok (s1, iv) else s1.source1 f.vc (vh f)) = Except.ok (s2, dv) →
      ∃ t, exec (.vscatter f) s = .next t ∧ Stores (s2.lastUses f) t
        (((upFrom 0 n).filter (writesElem s f)).flatMap fun e => (upFrom 0 4).map fun b =>
          (s.t + 2 + e / 16, addr e + b, dv.extractLsb' (32 * e + 8 * b) 8))

/-- R164 to R166: after the bundle of a gset, the port has the parameters of the first 40 bytes of its row and position 0,
and every other port is as it was; after the bundle of a greset the ports of its mask have position 0 and the same
parameters. Before the bundle ends nothing changes. -/
def Sys2Proof.portParameters : Prop :=
  (∀ (s : State) (f : VF) (s1 : State) (got : List (BitVec 8 × VReg)), s.sources [(f.va, 1)] = .ok (s1, got) →
    s1.fctx.r.late = [] →
    let byte (i : Nat) : Nat := ((pick got f.va).extractLsb' (8 * i) 8).toNat
    let w32 (i : Nat) : Nat := byte i + 2 ^ 8 * byte (i + 1) + 2 ^ 16 * byte (i + 2) + 2 ^ 24 * byte (i + 3)
    let s32 (i : Nat) : Int := (BitVec.ofNat 32 (w32 i)).toInt
    ∃ t, exec (.gset f) s = .next t ∧ t.fctx.ports = s1.fctx.ports ∧ ∀ no,
      ((t.closeBundle no).fctx.ports.get f.vc.toNat =
        { base := w32 0 % 2 ^ 19, cnt := [w32 8, w32 16, w32 24, w32 32],
          str := [s32 12, s32 20, s32 28, s32 36], pos := [0, 0, 0, 0] }) ∧
      ∀ g, g ≠ f.vc.toNat → (t.closeBundle no).fctx.ports.get g = s1.fctx.ports.get g) ∧
  ∀ (s : State) (f : VF), s.fctx.r.late = [] → ∃ t, exec (.greset f) s = .next t ∧
    t.fctx.ports = s.fctx.ports ∧ ∀ no g, g < 8 → (t.closeBundle no).fctx.ports.get g =
      if f.vc.getLsbD g then { s.fctx.ports.get g with pos := [0, 0, 0, 0] } else s.fctx.ports.get g

/-! ## Axes, top-k, conversion (R183 to R198) -/

/-- Element of row j, position i, of a register in elements of w bytes (R183). -/
def Sys2Proof.gridAt (w : Nat) (v : VReg) (j i : Nat) : Nat := elemAt w v (64 / w * j + i)
/-- A register of h rows from its elements by row and position. -/
def Sys2Proof.fromGrid (w h : Nat) (g : Nat → Nat → Nat) : VReg :=
  ofElems w ((upFrom 0 (h * (64 / w))).map fun e => g (e / (64 / w)) (e % (64 / w)))

/-- R186 to R188: rotations, broadcasts, shuffle and transposition move elements and set no flag; n is s[VB] at issue. -/
def Obligations.VectorMovements : Prop :=
  ∀ (s : State) (f : VF), f.ty.toNat ≤ 11 →
    let w := vfW f
    let P := 64 / w
    let H := vh f
    let O := (H + 3) / 4
    let n := (s.rs (f.vb.extractLsb' 0 6)).toNat
    (∀ e ∈ ([(.vrotr f, 2, fun a j i => gridAt w a j ((i + n) % P)),
        (.vrotc f, 6, fun a j i => gridAt w a ((j + n) % H) i),
        (.vbcr f, 2, fun a j _ => gridAt w a j (n % P)),
        (.vbcc f, 6, fun a _ i => gridAt w a (n % H) i)] : List (Instr × Nat × (VReg → Nat → Nat → Nat))),
      Delivers s e.1 f [(f.va, H)] H (O + e.2.1) fun v => (writtenBits s f, fromGrid w H (e.2.2 (v f.va)), 0)) ∧
    (Delivers s (.vshfr f) f [(f.va, H), (f.vb, H)] H (O + 2) fun v =>
      (writtenBits s f, fromGrid w H fun j i => gridAt w (v f.va) j (gridAt w (v f.vb) j i % P), 0)) ∧
    Delivers s (.vtrn f) f [(f.va, 16)] 16 10 fun v =>
      (BitVec.ofNat 8192 (2 ^ 8192 - 1),
        fromGrid w 16 fun j c => gridAt w (v f.va) (c % 16) (c / 16 * 16 + j), 0)

/-- The value of a leaf sequence (R190) for the operations on I types; an absent leaf is none. -/
def Sys2Proof.combineInt (f : VF) (l : List (Option Nat)) : Nat × Flags :=
  let on := l.filterMap id
  let lt (a b : Nat) : Bool := decide (intElem f a < intElem f b)
  match f.vc.toNat % 8 with
  | 0 => fits f ((on.map (intElem f)).sum)
  | 1 => (on.foldl (fun (a : Option Nat) x => some (match a with | none => x | some y => if lt x y then x else y)) none |>.getD 0, 0)
  | 2 => (on.foldl (fun (a : Option Nat) x => some (match a with | none => x | some y => if lt y x then x else y)) none |>.getD 0, 0)
  | 3 => (match on with | [] => 0 | x :: r => r.foldl (· &&& ·) x, 0)
  | 4 => (on.foldl (· ||| ·) 0, 0)
  | _ => (on.foldl (· ^^^ ·) 0, 0)

/-- The leaves of row j, or of position i, of the source of a reduction; a masked-out one is absent (R190). -/
def Sys2Proof.leafAt (s : State) (f : VF) (v : VReg) (j i : Nat) : Option Nat :=
  let e := 64 / vfW f * j + i
  if writesElem s f e then some (elemAt (vfW f) v e) else none

/-- A tree over leaves: one leaf is itself; of more, the first are as many as the largest power of two below their number;
an absent child leaves the other (R147, R148). -/
def Sys2Proof.isTree (node : Nat × Flags → Nat × Flags → Nat × Flags) (tree : List (Option Nat) → Option (Nat × Flags)) : Prop :=
  tree [] = none ∧ (∀ x, tree [x] = x.map fun v => (v, 0)) ∧
  ∀ l j, 2 ^ j < l.length → l.length ≤ 2 ^ (j + 1) →
    tree l = match tree (l.take (2 ^ j)), tree (l.drop (2 ^ j)) with
      | some a, some b => some (node a b)
      | some a, none => some a
      | none, b => b

/-- The value of a leaf sequence (R190) on T and F types. A sum of tapered terms, or one through a quire, is the exact total
in units of 2^−240, rounded once; another sum, and the least and the greatest of an F type, are those of the canonical tree,
node by node; NaR is the least and the greatest of tapered words with it; else, and of F codes without NaN, the least and
the greatest is the present leaf that no other orders before. -/
def Sys2Proof.combineReal (f : VF) (l : List (Option Nat)) (r : Nat × Flags) : Prop :=
  let m := vfFmt f
  let on := l.filterMap id
  let vals := on.map m.dec
  let op := f.vc.toNat % 8
  let nar := 2 ^ (8 * vfW f - 1)
  let total : Int := (vals.map Val.units).sum
  let once (rm : Nat) : Nat × Flags := m.round rm ⟨decide (total < 0), total.natAbs, -240, false⟩
  let node (a b : Nat × Flags) : Nat × Flags :=
    let x := if op = 0 then m.deliver f.rm.toNat (addV (m.dec a.1) (m.dec b.1)) else m.minmax (op == 2) a.1 b.1
    (x.1, a.2 ||| b.2 ||| x.2)
  (on = [] → r = (0, 0)) ∧
  (op = 0 → m.isT = true → r = if nar ∈ on then (nar, 0) else once 0) ∧
  (op = 0 → m.isT = false → f.vc.getLsbD 3 = true →
    ((∃ v ∈ vals, v.isNan = true ∨ v.isInf = true) → m.dec r.1 = .nan false ∧ r.2 = fNV) ∧
    ((∀ v ∈ vals, v.isNan = false ∧ v.isInf = false) → r = once f.rm.toNat)) ∧
  (m.isT = false → op = 1 ∨ op = 2 ∨ (op = 0 ∧ f.vc.getLsbD 3 = false) →
    ∃ tree, isTree node tree ∧ r = (tree l).getD (0, 0)) ∧
  (op = 1 ∨ op = 2 → on ≠ [] →
    let before (a b : Nat) : Bool :=
      if m.isT then decide ((BitVec.ofNat (8 * vfW f) a).toInt < (BitVec.ofNat (8 * vfW f) b).toInt)
      else below (m.dec a) (m.dec b)
    (m.isT = true → nar ∈ on → r = (nar, 0)) ∧
    ((∀ v ∈ vals, v.isNan = false) → r.2 = 0 ∧ r.1 ∈ on ∧
      ∀ y ∈ on, (if op = 1 then before y r.1 else before r.1 y) = false))

/-- R190, R191: reductions and scans complete with the values of their leaf sequences: on every type with `combine`, which
on I types gives the exact sum, the least, the greatest, or the bitwise combination of the present leaves, and on T and F
types what R190 says of them. -/
def Sys2Proof.reductions : Prop :=
  (∀ (s : State) (f : VF), f.ty.toNat ≤ 11 →
    let w := vfW f
    let P := 64 / w
    let H := vh f
    let row (v : VReg) (j n : Nat) : List (Option Nat) := (upFrom 0 n).map fun i => leafAt s f v j i
    let col (v : VReg) (i n : Nat) : List (Option Nat) := (upFrom 0 n).map fun j => leafAt s f v j i
    let ty := f.ty.toNat
    let bound (col : Bool) : Nat := (H + 3) / 4 +
      (if f.vc.toNat % 8 = 0 ∧ (6 ≤ ty ∧ ty ≤ 8 ∨ 9 ≤ ty ∧ f.vc.getLsbD 3 = true) then 12
       else if f.vc.toNat % 8 = 0 ∧ 9 ≤ ty then (if col then 10 else 8) else if col then 6 else 4)
    let flags (l : List (Nat × Flags)) : Flags := orFlags (l.map (·.2))
    let ones (h : Nat) : VReg := BitVec.ofNat 8192 (2 ^ (512 * h) - 1)
    let res (h : Nat) (l : List (Nat × Flags)) : VReg × VReg × Flags := (ones h, ofElems w (l.map (·.1)), flags l)
    (Delivers s (.vredr f) f [(f.va, H)] 1 (bound false) fun v =>
      res 1 ((upFrom 0 H).map fun j => combine f (row (v f.va) j P))) ∧
    (Delivers s (.vredc f) f [(f.va, H)] 1 (bound true) fun v =>
      res 1 ((upFrom 0 P).map fun i => combine f (col (v f.va) i H))) ∧
    (Delivers s (.vscanR f) f [(f.va, H)] H (bound false) fun v =>
      res H ((upFrom 0 (H * P)).map fun e => combine f (row (v f.va) (e / P) (e % P + 1)))) ∧
    Delivers s (.vscanC f) f [(f.va, H)] H (bound true) fun v =>
      res H ((upFrom 0 (H * P)).map fun e => combine f (col (v f.va) (e % P) (e / P + 1)))) ∧
  ∀ (f : VF) (l : List (Option Nat)), (∀ x ∈ l.filterMap id, x < 2 ^ (8 * vfW f)) → l.length ≤ 64 →
    (f.ty.toNat ≤ 5 → f.vc.toNat % 8 ≤ 5 → combine f l = combineInt f l) ∧
    (6 ≤ f.ty.toNat → f.ty.toNat ≤ 11 → f.vc.toNat % 8 ≤ 2 → (f.ty.toNat = 8 → f.es.toNat < 3) →
      combineReal f l (combine f l) ∧
      ∀ x, x < 2 ^ (8 * vfW f) → ∀ neg m e, (vfFmt f).dec x = .fin neg m e → -240 ≤ e)

/-- A candidate goes before another (R146): numbers before NaN and NaR, the greater value first, then the lower index. -/
def Sys2Proof.rankedBefore (m : Fmt) (a b : Nat × Nat) : Prop :=
  let nan (x : Nat) : Bool := !m.isI && (m.dec x).isNan
  let gt (x y : Nat) : Bool := m.lt y x
  (nan a.1 = false ∧ nan b.1 = true) ∨
  (nan a.1 = nan b.1 ∧ ((nan a.1 = false ∧ gt a.1 b.1 = true) ∨
    ((nan a.1 = true ∨ (gt a.1 b.1 = false ∧ gt b.1 a.1 = false)) ∧ a.2 < b.2)))

/-- R146, R192: vtopk delivers two rows: the first candidates of an order in which no candidate stands behind one that it
goes before, and 0 with index 0xFFFFFFFF past them. -/
def Sys2Proof.topK : Prop :=
  ∀ (s : State) (f : VF), f.ty.toNat = 4 ∨ f.ty.toNat = 5 ∨ f.ty.toNat = 8 ∨ f.ty.toNat = 11 →
    ∃ order : (BitVec 8 → VReg) → List (Nat × Nat),
      (∀ v, ((order v).Perm (((upFrom 0 (16 * vh f)).filter (writesElem s f)).map fun e =>
          (elemAt 4 (v f.va) e, elemAt 4 (v f.vb) e))) ∧
        (order v).Pairwise fun a b => ¬ rankedBefore (vfFmt f) b a) ∧
      Delivers s (.vtopk f) f [(f.va, vh f), (f.vb, vh f)] 2 (vh f + 12) fun v =>
        let k := min 16 (s.rs (f.vc.extractLsb' 0 6)).toNat
        let l := (order v).take k
        (BitVec.ofNat 8192 (2 ^ 1024 - 1),
          ofElems 4 (((upFrom 0 16).map fun t => (l.map (·.1)).getD t 0) ++
            (upFrom 0 16).map fun t => (l.map (·.2)).getD t 0xFFFFFFFF), 0)

/-- The formats of a vcvt by TY, ES and VC, an X code where XS or XD is set (R196). -/
def Sys2Proof.cvtFormats (f : VF) : Fmt × Fmt :=
  (if f.vc.getLsbD 6 then xFmt f.ty.toNat else tyFmt f.ty.toNat f.es.toNat,
    if f.vc.getLsbD 7 then xFmt (f.vc.toNat % 16) else tyFmt (f.vc.toNat % 16) (f.vc.toNat / 16 % 4))
/-- Elements of a format in a row (R197). -/
def Sys2Proof.rowElements (m : Fmt) : Nat := if m.bits = 32 then 16 else if m.bits = 16 then 32 else 64
/-- Element e of a format in a register, packed within its row (R136, R197). -/
def Sys2Proof.packedAt (m : Fmt) (v : VReg) (e : Nat) : Nat :=
  (v.extractLsb' (512 * (e / rowElements m) + m.bits * (e % rowElements m)) m.bits).toNat

/-- R140, R143, R196 to R198: vcvt of every pair of formats converts N elements, into a register, a FIFO or a port: an enabled
element is converted, a disabled one and what is behind element N stay as the register was at issue, or 0 for a FIFO or a
port, and the rest of a whole row is 0; the flags are those of the enabled ones. Then: what a conversion delivers, between I
types, of a finite value into every format, into E8M0, and of a type to itself. Here the destination's rows are not poisoned
and hold no soft error (R447, R451). -/
def Obligations.Conversions : Prop :=
  (∀ (s : State) (f : VF),
    (if f.vc.getLsbD 6 then f.ty.toNat ≤ 5 else f.ty.toNat ≤ 11) →
    (if f.vc.getLsbD 7 then f.vc.toNat % 16 ≤ 5 else f.vc.toNat % 16 ≤ 11) →
    let m := (cvtFormats f).1
    let d := (cvtFormats f).2
    let ps := rowElements m
    let pd := rowElements d
    let N := vh f * min ps pd
    let rs := (N + ps - 1) / ps
    let rd := (N + pd - 1) / pd
    let bound := (vh f + 3) / 4 + 4
    let main := physV s.fctx.r.voff (f.vd.toNat - 128)
    let old : VReg := if isO f.vd then s.ro f.vd.toNat else if isV f.vd then mainAt s main s.t else 0
    let on (e : Nat) : Bool :=
      !f.ke || (s.rk f.km.toNat).getLsbD (64 * (e / min ps pd) + e % min ps pd * (64 / min ps pd))
    let ones : VReg := BitVec.ofNat 8192 (2 ^ (512 * rd) - 1)
    (isO f.vd = true → cleanO s f.vd.toNat rd) → (isV f.vd = true → cleanV s main rd) →
    ∀ s1 got, s.sources [(f.va, rs)] = .ok (s1, got) →
      let r (e : Nat) : Nat × Flags := convert m d f.rm.toNat f.sat (packedAt m (pick got f.va) e)
      let fl := orFlags ((upFrom 0 N).map fun e => if on e then (r e).2 else 0)
      ∃ V : VReg,
        (∀ e, e < N → packedAt d V e = if on e then (r e).1 else packedAt d old e) ∧
        (∀ i, i < 8192 → pd * d.bits ≤ i % 512 → i / 512 < N / pd → V.getLsbD i = false) ∧
        (∀ i, i < 8192 → N / pd ≤ i / 512 → N ≤ pd * (i / 512) + i % 512 / d.bits → V.getLsbD i = old.getLsbD i) ∧
        (∀ s2, (s1.lastUses f).dest f.vd rd ones V bound = .ok s2 → exec (.vcvt f) s = .next (s2.wf fl bound)) ∧
        (isO f.vd = true → ∃ t, exec (.vcvt f) s = .next t ∧ OBecomes (s1.lastUses f) t f.vd.toNat ones V bound ∧
          OnlyO (s1.lastUses f) t [f.vd.toNat] ∧ FBecomes (s1.lastUses f) t fl bound)) ∧
  (∀ (m d : Fmt) (rm x : Nat) (sat neg : Bool) (n : Nat) (e : Int), m ≠ d → (m.isI && d.isI) = false →
    m.dec x = .fin neg n e → convert m d rm sat x = d.round rm ⟨neg, n, e, false⟩) ∧
  (∀ (m : Fmt) (rm x : Nat) (sat neg : Bool) (n : Nat) (e : Int), m ≠ .e8 → m.dec x = .fin neg n e →
    let top : Int := e + Nat.log2 n
    convert m .e8 rm sat x =
      if n = 0 ∨ top < -127 then (0, fUF ||| fNX)
      else if 128 ≤ top then (0xFE, fOF ||| fNX)
      else ((top + 127).toNat, if n = 2 ^ Nat.log2 n then 0 else fNX)) ∧
  (∀ (d : Fmt) (rm x : Nat) (sat : Bool),
    convert d d rm sat x = match d, d.dec x with
      | .f ff, .nan true => (ff.nanCode, fNV)
      | _, _ => (x, 0)) ∧
  ∀ (ws wd : Nat) (ss sd sat : Bool) (x : Nat), ws ∈ [8, 16, 32] → wd ∈ [8, 16, 32] → x < 2 ^ ws → (ws, ss) ≠ (wd, sd) →
    let v : Int := if ss = true ∧ 2 ^ ws ≤ 2 * x then (x : Int) - 2 ^ ws else x
    let lo : Int := if sd then -(2 ^ (wd - 1)) else 0
    let hi : Int := if sd then 2 ^ (wd - 1) - 1 else 2 ^ wd - 1
    ∀ rm : Nat, convert (.i ws ss) (.i wd sd) rm sat x =
      if sat = true ∧ v < lo then ((lo % 2 ^ wd).toNat, fST)
      else if sat = true ∧ hi < v then ((hi % 2 ^ wd).toNat, fST)
      else ((v % 2 ^ wd).toNat, 0)

/-! ## Quires (R199 to R204, R130 to R132) -/

/-- R131: exact addition of a number of units of 2^−240: NaR stays NaR, a sum out of range gives NaR with OF and NR. -/
def Sys2Proof.exactAdd (q : Row) (x : Int) : Row × Flags :=
  if q = BitVec.ofNat 512 (2 ^ 511) then (q, 0)
  else if 2 ^ 511 ≤ (q.toInt + x).natAbs then (BitVec.ofNat 512 (2 ^ 511), fOF ||| fNR)
  else (BitVec.ofInt 512 (q.toInt + x), 0)

/-- R199 to R204: the quire instructions but QADD, QSUB and QDOT. -/
def Sys2Proof.quireMoves : Prop :=
  ∀ (s : State) (f : VF),
    let a := s.rq f.va.toNat
    let b := s.rq f.vb.toNat
    let nar : Row := BitVec.ofNat 512 (2 ^ 511)
    (∃ t, exec (.qclr f) s = .next t ∧ QBecomes s t f.vd.toNat 0 2 ∧ SameFlags s t) ∧
    (∀ e ∈ ([(.qaddq f, 1), (.qsubq f, -1)] : List (Instr × Int)),
      let r : Row × Flags := if b = nar then (nar, 0) else exactAdd a (e.2 * b.toInt)
      ∃ t, exec e.1 s = .next t ∧ QBecomes s t f.vd.toNat r.1 4 ∧ FBecomes s t r.2 4) ∧
    (∃ t, exec (.qneg f) s = .next t ∧
      QBecomes s t f.vd.toNat (if a = nar then nar else BitVec.ofInt 512 (-a.toInt)) 4 ∧ SameFlags s t) ∧
    (let r := quireRound (vfFmt f) f.rm.toNat a
      ∃ t, exec (.qrnd f) s = .next t ∧ SBecomes s t (f.vd.toNat % 64) (BitVec.ofNat 64 r.1) 8 ∧
        OnlyS s t [f.vd.toNat % 64] ∧ FBecomes s t r.2 8) ∧
    (Delivers s (.qtov f) { f with lua := false, lub := false, luc := false } [] 1 4 fun _ =>
      (BitVec.ofNat 8192 (2 ^ 512 - 1), BitVec.ofNat 8192 a.toNat, 0)) ∧
    (∀ s1 got, s.sources [(f.va, 1)] = .ok (s1, got) → ∃ t, exec (.vtoq f) s = .next t ∧
      QBecomes s1 t f.vd.toNat ((pick got f.va).extractLsb' 0 512) 3 ∧ SameFlags s1 t) ∧
    let x := (s.rs (f.va.extractLsb' 0 6)).toNat
    x % 64 = 0 → x + 64 ≤ 0x60000 →
      (∃ t, exec (.qsave f) s = .next t ∧ Stores s t ((upFrom 0 64).map fun i =>
        (s.t + 2, x + i, b.extractLsb' (8 * i) 8))) ∧
      (s.padPoisonAt s.focus.die s.focus.tile (s.t + 1) x 64 = false → ∃ t, exec (.qload f) s = .next t ∧
        QBecomes s t f.vd.toNat (bytesRow (s.padBytes s.focus.die s.focus.tile (s.t + 1) x 64)) 4 ∧ SameFlags s t)

/-- R131, R202, R203: qadd, qsub and qdot add the exact terms of the enabled elements to the quire, on what an open chain
leaves if there is one; the write closes no earlier than those of its chain. -/
def Sys2Proof.quireChains : Prop :=
  ∀ (s : State) (f : VF) (s1 : State) (got : List (BitVec 8 × VReg)),
    let w := vfW f
    let A (e : Nat) : Val := (vfFmt f).dec (elemAt w (pick got f.va) e)
    let B (e : Nat) : Val := (tyFmt f.ty.toNat (f.vc.toNat % 4)).dec (elemAt w (pick got f.vb) e)
    let base : Row := match openChain s1.fctx.r.qW f.vd.toNat s.t with
      | some p => p.val
      | none => s1.rq f.vd.toNat
    let O := (vh f + 3) / 4
    ∀ e ∈ ([(.qadd f, [(f.va, vh f)], O + 6, A), (.qsub f, [(f.va, vh f)], O + 6, fun e => (A e).negate),
        (.qdot f, [(f.va, vh f), (f.vb, vh f)], O + 8, fun e => tapProd (A e) (B e))] :
        List (Instr × List (BitVec 8 × Nat) × Nat × (Nat → Val))),
      s.sources e.2.1 = .ok (s1, got) →
      let r := quireSum (vfFmt f).isF base (((upFrom 0 (vfN f)).filter (writesElem s f)).map e.2.2.2)
      ∃ t p, exec e.1 s = .next t ∧ t.fctx.r.qW = s1.fctx.r.qW ++ [p] ∧
        p.reg = f.vd.toNat ∧ p.val = r.1 ∧ p.mask = BitVec.allOnes 512 ∧ p.chain = true ∧
        s.t + e.2.2.1 ≤ p.t0 + p.bound ∧
        (∀ c ∈ openChain s1.fctx.r.qW f.vd.toNat s.t, c.t0 + c.bound ≤ p.t0 + p.bound) ∧
        FBecomes s1 t r.2 e.2.2.1

/-- R130, R131: a sum of numbers whose running totals stay in range is their exact sum, and so does not depend on the
order. -/
def Obligations.QuireSumExact : Prop :=
  ∀ (ieee : Bool) (l : List Val), (∀ v ∈ l, v.isNan = false ∧ v.isInf = false) →
    (l.map fun v => v.units.natAbs).sum < 2 ^ 511 →
    quireSum ieee 0 l = (BitVec.ofInt 512 ((l.map Val.units).sum), 0) ∧
    ∀ l', l'.Perm l → quireSum ieee 0 l' = quireSum ieee 0 l

/-! ## Command headers (R59 to R63, R83, R207 to R218, R305 to R320, R228 to R235, R345 to R351) -/

/-- The engine of the context in focus has room for a command (R61, R62): fewer than two of its commands wait, and, for a
command with staging registers, SETX names the set to fill and that set is not busy. -/
def Sys2Proof.HasRoom (s : State) (eng : Nat) (setx : Option Bool) : Prop :=
  (s.fctx.e.queue.filter fun c => c.eng == eng).length < 2 ∧
  ∀ b ∈ setx, b = s.fctx.e.fill.getLsbD eng ∧ s.fctx.e.busy.getLsbD (2 * eng + b.toNat) = false

/-- A command enters its engine's queue (R61, R314): with a copy of its staging set, which becomes busy while FILL moves to
the other; the engine's command count advances; its tag is cleared and counted out. Nothing else changes, but the
registers of a stream's numbering that a copy to a window reserves, and the note that an XCFG has been committed. -/
def Sys2Proof.Enters (s t : State) (eng : Nat) (i : Instr) (staged : Bool) (tag : Option Nat) : Prop :=
  let e := s.fctx.e
  let fill := e.fill.getLsbD eng
  (∃ c : Cmd, c.eng = eng ∧ c.instr = i ∧ c.hdr = s.focus.hdr ∧ c.idx = e.count.get eng ∧ c.at' = s.t ∧ c.prog = 0 ∧
    c.stg = (if staged then (upFrom 0 (if eng < 2 then 16 else 8)).map fun n =>
      settle (e.stg.get ((if fill then 64 else 0) + 16 * eng + n)) e.stgW ((if fill then 64 else 0) + 16 * eng + n)
      else []) ∧
    c.set = (if staged then some fill else none) ∧
    t.fctx.e = { e with
      queue := e.queue ++ [c]
      busy := if staged then e.busy ||| BitVec.ofNat 8 (2 ^ (2 * eng + fill.toNat)) else e.busy
      fill := if staged then e.fill ^^^ BitVec.ofNat 4 (2 ^ eng) else e.fill
      count := e.count.set eng ((e.count.get eng + 1) % 65536)
      xcommitted := t.fctx.e.xcommitted }) ∧
  t = { s with ctxs := t.ctxs, tiles := t.tiles, flitNo := t.flitNo } ∧
  (∀ k, k ≠ fkey s → t.ctxs.get k = s.ctxs.get k) ∧
  t.fctx = { s.fctx with e := t.fctx.e, streams := t.fctx.streams } ∧
  match tag with
  | none => t.tiles = s.tiles
  | some n =>
    t.ftile = { s.ftile with
      tags := s.ftile.tags &&& ~~~(BitVec.ofNat 64 (2 ^ n))
      out := s.ftile.out.set n (s.ftile.out.get n + 1) } ∧
    ∀ k, k ≠ tileKey s.focus.die s.focus.tile → t.tiles.get k = s.tiles.get k

/-- The context holds every bank of an accumulator block: one bank, or eight aligned ones (R207). -/
def Sys2Proof.HoldsBlock (s : State) (acc : Nat) (q : Bool) : Prop :=
  if q then acc % 8 = 0 ∧ ∀ b, b < 8 → s.fctx.banks.getLsbD (acc + b) = true else s.fctx.banks.getLsbD acc = true

/-- R61, R207 to R218: in free mode, a matrix command of a context with a lease, with its staged registers in form, its
block held and its tag owned, enters the queue. -/
def Sys2Proof.matrixCommands : Prop :=
  ∀ (s : State), s.timed = false → s.fctx.lease ≠ 0 →
    let l := s.stgCopy 0
    let acc := fld (l.getD 4 0) 13 8
    (∀ f : MmaF, HasRoom s 0 (some f.setx) → mmaBad f l = false →
      ¬ (f.fmt.toNat = 6 ∧ (fld (l.getD 4 0) 1 0 = 3 ∨ fld (l.getD 4 0) 3 2 = 3)) → HoldsBlock s acc (f.fmt != 0) →
      ∃ t, exec (.mma f) s = .next t ∧ Enters s t 0 (.mma f) true none) ∧
    (∀ f : MzeroF, HasRoom s 0 none → (f.blk = true → HoldsBlock s f.bank.toNat f.q) →
      ∃ t, exec (.mzero f) s = .next t ∧ Enters s t 0 (.mzero f) false none) ∧
    (∀ f : MdrainF, HasRoom s 0 (some f.setx) → drainBad f l = false →
      ¬ (f.ofmt.toNat = 6 ∧ fld (l.getD 4 0) 5 4 = 3) → HoldsBlock s acc f.qs →
      s.fctx.tagm.getLsbD f.tag.toNat = true →
      ∃ t, exec (.mdrain f) s = .next t ∧ Enters s t 0 (.mdrain f) true (some f.tag.toNat)) ∧
    ∀ f : MlsF, HasRoom s 0 (some f.setx) → mlsBad l = false → HoldsBlock s acc (f.xf == 2) →
      s.fctx.tagm.getLsbD f.tag.toNat = true →
      (∃ t, exec (.mload f) s = .next t ∧ Enters s t 0 (.mload f) true (some f.tag.toNat)) ∧
      ∃ t, exec (.mstore f) s = .next t ∧ Enters s t 0 (.mstore f) true (some f.tag.toNat)

/-- R61, R310, R319, R320: in free mode, a copy command with its staged registers in form and its tag owned enters the
queue; a copy to a window also takes the numbers of its packets from its stream. -/
def Sys2Proof.copyCommands : Prop :=
  ∀ (s : State), s.timed = false →
    let l := s.stgCopy 1
    let x := s.focus
    (∀ f : CopyF, HasRoom s 1 (some f.setx) → copyBad f l = false → s.fctx.tagm.getLsbD f.tag.toNat = true →
      (toWindow f l = false → ∃ t, exec (.copy f) s = .next t ∧ Enters s t 1 (.copy f) true (some f.tag.toNat) ∧
        t.fctx.streams = s.fctx.streams) ∧
      (toWindow f l = true → (s.fctx.streams.get f.stm.toNat).broken = false →
        s.mayReserve x.die x.tile (copyPackets f l) = true →
        ∃ t, exec (.copy f) s = .next t ∧ Enters s t 1 (.copy f) true (some f.tag.toNat) ∧
          t.fctx.streams.get f.stm.toNat =
            { s.fctx.streams.get f.stm.toNat with
              next := ((s.fctx.streams.get f.stm.toNat).next + copyPackets f l) % 4096 })) ∧
    (∀ f : BufF, HasRoom s 1 (some f.setx) → s.fctx.tagm.getLsbD f.tag.toNat = true →
      (fld (l.getD 10 0) 63 19 = 0 → fld (l.getD 11 0) 63 19 = 0 → fld (l.getD 12 0) 63 19 = 0 →
        ∃ t, exec (.bufset f) s = .next t ∧ Enters s t 1 (.bufset f) true (some f.tag.toNat)) ∧
      ∃ t, exec (.bufsetOff f) s = .next t ∧ Enters s t 1 (.bufsetOff f) true (some f.tag.toNat)) ∧
    ∀ f : PubF, HasRoom s 1 none → s.fctx.tagm.getLsbD f.tag.toNat = true →
      ∃ t, exec (.publish f) s = .next t ∧ Enters s t 1 (.publish f) false (some f.tag.toNat)

/-- R61, R230 to R235: the commands of the quantisation engine. -/
def Sys2Proof.quantCommands : Prop :=
  ∀ (s : State), s.timed = false →
    let l := s.stgCopy 2
    let g := qGeo l
    (∀ f : QuantF, HasRoom s 2 (some f.setx) → quantBad l = false → ¬ (f.f2.toNat = 8 ∧ g.es = 3) →
      g.badLayout = false → s.fctx.tagm.getLsbD f.tag.toNat = true →
      (g.outside (tyBits f.f2.toNat) (efBits f.f1.toNat) = none →
        ∃ t, exec (.quant f) s = .next t ∧ Enters s t 2 (.quant f) true (some f.tag.toNat)) ∧
      (g.outside (efBits f.f1.toNat) (tyBits f.f2.toNat) = none →
        ∃ t, exec (.dequant f) s = .next t ∧ Enters s t 2 (.dequant f) true (some f.tag.toNat))) ∧
    (∀ f : SqldF, HasRoom s 2 (some f.setx) → fld (l.getD 0 0) 63 19 = 0 → fld (l.getD 0 0) 18 0 % 64 = 0 →
      fld (l.getD 0 0) 18 0 + 16 * (f.nm1.toNat + 1) ≤ 0x60000 →
      ∃ t, exec (.sqld f) s = .next t ∧ Enters s t 2 (.sqld f) true none) ∧
    ∀ f : SqclrF, HasRoom s 2 none → ∃ t, exec (.sqclr f) s = .next t ∧ Enters s t 2 (.sqclr f) false none

/-- R61, R346, R347, R350, R351: the commands of the scatter-accumulate engine; a push and a fetch carry the rows and the
mask as they stand at issue; here those rows are not poisoned and hold no soft error (R447, R451). -/
def Sys2Proof.scatterCommands : Prop :=
  ∀ (s : State), s.timed = false →
    let l := s.stgCopy 3
    (∀ f : XcfgF, HasRoom s 3 (some f.setx) → xcfgBad f l = false →
      ¬ (f.xop.toNat = 7 ∧ f.vt.toNat = 1 ∧ f.es.toNat = 3) → ¬ (f.xop.toNat = 6 ∧ s.fixedOrder = true) →
      ∃ t, exec (.xcfg f) s = .next t ∧ Enters s t 3 (.xcfg f) true none ∧ t.fctx.e.xcommitted = true) ∧
    (s.fctx.e.xcommitted = true → HasRoom s 3 none →
      (∃ t, exec .xflush s = .next t ∧ Enters s t 3 .xflush false none) ∧
      ∀ f : XpF,
        let mask : Mask := if f.ke then s.rk f.km.toNat else BitVec.allOnes 1024
        cleanO s f.ix.toNat (f.rm1.toNat + 1) →
        (cleanO s f.vx.toNat (f.rm1.toNat + 1) → s.mayReserve s.focus.die s.focus.tile
            ((upFrom 0 (16 * (f.rm1.toNat + 1))).filter fun e => mask.getLsbD (4 * e)).length = true →
          ∃ t, exec (.xpush f) s = .next t ∧ Enters s t 3 (.xpush f) false none ∧
            ∃ c ∈ t.fctx.e.queue.getLast?, c.ix = s.ro f.ix.toNat ∧ c.vx = s.ro f.vx.toNat ∧ c.mask = mask) ∧
        (s.fixedOrder = false →
          (∀ h r, s.fctx.e.lastXcfg = some (h, r) → h.toNat / 2 ^ 21 % 16 ≠ 7 ∧
            ∀ q, q ≤ f.rm1.toNat → (∃ e, e < 16 ∧ mask.getLsbD (4 * (16 * q + e)) = true) →
              fld (r.getD 2 0) 18 0 + 64 * q + 64 ≤ 0x60000) →
          ∃ t, exec (.xfetch f) s = .next t ∧ Enters s t 3 (.xfetch f) false none ∧
            ∃ c ∈ t.fctx.e.queue.getLast?, c.ix = s.ro f.ix.toNat ∧ c.mask = mask))

/-- The engine and SETX of a command with staging registers. -/
def Sys2Proof.stagedHeader : Instr → Option (Nat × Bool)
  | .mma f => some (0, f.setx)
  | .mdrain f => some (0, f.setx)
  | .mload f | .mstore f => some (0, f.setx)
  | .copy f => some (1, f.setx)
  | .bufset f | .bufsetOff f => some (1, f.setx)
  | .quant f | .dequant f => some (2, f.setx)
  | .sqld f => some (2, f.setx)
  | .xcfg f => some (3, f.setx)
  | _ => none

/-- R61 to R63: a header whose SETX is not the set that FILL names takes staging set mismatch (0x09), before anything else; a
matrix command of a context that has asked for no lease then takes matrix command without lease (0x8E); one whose set is
busy, or whose engine has two commands waiting, then holds in free mode. -/
def Obligations.CommandStops : Prop :=
  ∀ (s : State) (i : Instr) (eng : Nat) (setx : Bool), stagedHeader i = some (eng, setx) →
    let e := s.fctx.e
    let trap (cause n : Nat) : TrapInfo := { cause := cause, kind := 0, eng := n }
    (e.fill.getLsbD eng ≠ setx → exec i s = .next (s.takeTrap (trap 0x09 0))) ∧
    (eng = 0 → e.fill.getLsbD 0 = setx → s.fctx.lease = 0 → exec i s = .next (s.takeTrap (trap 0x8E 4))) ∧
    ((eng = 0 → s.fctx.lease ≠ 0) → e.fill.getLsbD eng = setx → s.timed = false →
      (e.busy.getLsbD (2 * eng + setx.toNat) = true ∨ 2 ≤ (e.queue.filter fun c => c.eng == eng).length) →
      exec i s = .next (s.noteHold 1))

/-! ## Control transfers, loops, yield, exit (R112 to R121) -/

/-- Nothing but the stream of the context in focus, at its lead, has changed: where it stands is given. -/
def Sys2Proof.OnlyFlow (s t : State) (flow : Flow) : Prop :=
  OnlyFocus s t ∧ t.fctx = { s.fctx with lead := { s.fctx.lead with flow := flow } }

/-- R56, R112, R113: at the lead, a transfer in a segment whose ALT is valid, with room for its two delay positions, makes
the transfer pending: control goes to its target after two more bundles. call also writes the return position to s[BX]. -/
def Sys2Proof.transfersAtTheLead : Prop :=
  ∀ (s : State), s.deciding = true →
    (recNextv s.myHalf.record = true ∨ ∀ n, s.myHalf.left s.focus.pos.idx = some n → 2 ≤ n) →
    let flow (target : Option Pos) : Flow := { s.fctx.lead.flow with pend := some (target, 2) }
    let alt : Pos := ⟨recAlt s.myHalf.record, 0, 0⟩
    (recAltv s.myHalf.record = true →
      (∃ t, exec .br s = .next t ∧ OnlyFlow s t (flow (some alt))) ∧
      (∀ bp bn, ∃ t, exec (.brc bp bn) s = .next t ∧
        OnlyFlow s t (flow (if (s.rp bp ^^ bn) = true then some alt else none))) ∧
      ∀ bx, ∃ t, exec (.call bx) s = .next t ∧ t.fctx.lead.flow = flow (some alt) ∧
        SBecomes s t bx.toNat s.returnPos 1 ∧ SameFlags s t ∧ OnlyFocus s t) ∧
    (∀ bx, (s.rs bx).getLsbD 63 = false → ∃ t, exec (.ret bx) s = .next t ∧
      OnlyFlow s t (flow (some (Pos.dec (s.rs bx)).inside))) ∧
    ∀ bx, (s.rs bx).toNat % 16 = 0 → (s.rs bx).toNat < 2 ^ 57 → ∃ t, exec (.jmpr bx) s = .next t ∧
      OnlyFlow s t (flow (some ⟨(s.rs bx).toNat, 0, 0⟩))

/-- R112, R421: at a tile that does not decide, a transfer changes nothing, but call, which writes the return position that the
lead sent; R113: an ALT that is not valid takes end of segment chain (0x04) at the lead, and ret and jmpr take
illegal code position (0x0A) for a register out of form. -/
def Sys2Proof.transferStops : Prop :=
  (∀ (s : State), s.deciding = false → ∀ bp bn bx,
    exec .br s = .next s ∧ exec (.brc bp bn) s = .next s ∧ exec (.ret bx) s = .next s ∧
    exec (.jmpr bx) s = .next s ∧
    ∃ t, exec (.call bx) s = .next t ∧ SBecomes s t bx.toNat s.focus.dec.ret 1 ∧ OnlyS s t [bx.toNat] ∧
      SameFlags s t) ∧
  ∀ (s : State), s.deciding = true → ∀ bp bn bx,
    (recAltv s.myHalf.record = false → ∀ i ∈ [Instr.br, .brc bp bn, .call bx],
      exec i s = .next (s.takeTrap { cause := 0x04, kind := 0, eng := 0 })) ∧
    ((s.rs bx).getLsbD 63 = true → exec (.ret bx) s = .next (s.takeTrap { cause := 0x0A, kind := 0, eng := 3 })) ∧
    (((s.rs bx).toNat % 16 ≠ 0 ∨ 2 ^ 57 ≤ (s.rs bx).toNat) →
      exec (.jmpr bx) s = .next (s.takeTrap { cause := 0x0A, kind := 0, eng := 3 }))

/-- R116 to R119: the lead decides, every tile follows: loop counts its register down and goes to the head while it is not 0;
loop.rot does so with the low 32 bits and rotates, with the new p8 telling whether a pass is entered; loopw goes to the
head while its condition holds and changes no register. The edge is taken without delay positions. -/
def Sys2Proof.loops : Prop :=
  ∀ (s : State) (bx : BitVec 6) (n : BitVec 7) (bp : BitVec 4) (bn : Bool),
    (s.deciding = true → n.toNat ≤ s.focus.pos.idx) →
    let v := s.rs bx
    let edge (t : State) (taken : Bool) : Prop :=
      t.fctx.lead =
        if s.deciding = true ∧ taken = true then { s.fctx.lead with flow := { s.fctx.lead.flow with edge := some n.toNat } }
        else s.fctx.lead
    (let taken := if s.deciding then v != 0 else s.focus.dec.taken
      ∃ t, exec (.loop bx n) s = .next t ∧ edge t taken ∧ OnlyFocus s t ∧ SameFlags s t ∧
        (taken = true → SBecomes s t bx.toNat (BitVec.ofInt 64 (v.toInt - 1)) 1) ∧
        (taken = false → t.fctx.r = s.fctx.r)) ∧
    (let p := v.toNat % 2 ^ 32
      let stages := v.toNat / 2 ^ 32 % 16
      let taken := if s.deciding then p != 0 else s.focus.dec.taken
      let enters := taken && (if s.deciding then p != 0 && decide (stages ≤ p) else s.focus.dec.inBit)
      ∃ t, exec (.loopRot bx n) s = .next t ∧ edge t taken ∧ OnlyFocus s t ∧ SameFlags s t ∧
        (taken = true → SBecomes s t bx.toNat (BitVec.ofNat 64 (v.toNat / 2 ^ 32 * 2 ^ 32 + (p + 2 ^ 32 - 1) % 2 ^ 32)) 1) ∧
        (taken = false → t.fctx.r.sW = s.fctx.r.sW) ∧
        (s.fctx.r.late = [] → ∀ no,
          (t.closeBundle no).fctx.r.voff = (s.fctx.r.voff + 1) % 32 ∧
          (t.closeBundle no).fctx.r.soff = (s.fctx.r.soff + 1) % 8 ∧
          ∀ u, s.t < u → Quiet s.fctx.r.pW (physP ((s.fctx.r.soff + 1) % 8) 8) u →
            (t.closeBundle no).fctx.r.readP u 8 = enters)) ∧
    (let taken := if s.deciding then (s.rp bp ^^ bn) else s.focus.dec.taken
      ∃ t, exec (.loopw bp bn n) s = .next t ∧ edge t taken ∧ OnlyFocus s t ∧ t.fctx.r = s.fctx.r) ∧
    (s.deciding = true → ∀ m : BitVec 7, s.focus.pos.idx < m.toNat →
      ∀ i ∈ [Instr.loop bx m, .loopRot bx m, .loopw bp bn m],
        exec i s = .next (s.takeTrap { cause := 0x00, kind := 0, eng := 0, status := 2 }))

/-- R120, R121: yield and exit take effect at the lead after the bundle and its idle count; a yield in timetabled mode is
nothing. An exit first wants the accumulator banks freed (0x8A), then waits for the commands of earlier bundles, then wants
the scale queues empty (0x66). -/
def Sys2Proof.yieldExit : Prop :=
  ∀ (s : State),
    let flow (n : Nat) : Flow := { s.fctx.lead.flow with after := n }
    let trap (cause : Nat) : TrapInfo := { cause := cause, kind := 0, eng := 3 }
    (s.timed = true → exec .yield s = .next s) ∧
    (s.timed = false → ∃ t, exec .yield s = .next t ∧ if s.deciding = true then OnlyFlow s t (flow 1) else t = s) ∧
    (s.fctx.banks ≠ 0 → exec .exit s = .next (s.takeTrap (trap 0x8A))) ∧
    (s.fctx.banks = 0 → s.cmdsOpen = true → s.timed = false → exec .exit s = .next (s.noteHold 5)) ∧
    (s.fctx.banks = 0 → s.cmdsOpen = false →
      (s.fctx.e.sqA ≠ [] ∨ s.fctx.e.sqB ≠ [] → exec .exit s = .next (s.takeTrap (trap 0x66))) ∧
      (s.fctx.e.sqA = [] → s.fctx.e.sqB = [] →
        ∃ t, exec .exit s = .next t ∧ if s.deciding = true then OnlyFlow s t (flow 2) else t = s))

/-! ## The shared pool of a tile (R254 to R263) -/

/-- R255, R256: at the lead, allot gives the context the lowest free granules for those of its mask that it lacks, if there
are enough: then s[BX] is the mask it holds, and the new registers read as zero when the clear engine is done; otherwise
bit 63 of s[BX] is set and nothing is allotted. shrink takes granules away; they are free for others 32 cycles later. -/
def Sys2Proof.mainFileAllotment : Prop :=
  (∀ (s : State) (bx by' : BitVec 6), s.deciding = true →
    s.focus.ctx < (s.car s.focus.die s.focus.tile).nctx →
    (s.fctx.gran.map (·.1)).Pairwise (· < ·) → (∀ e ∈ s.fctx.gran, e.1 < 16) →
    let want := (upFrom 0 16).filter fun g => (s.rs by').getLsbD g && (s.fctx.gran.find? g).isNone
    let free := s.freeGran s.focus.die s.focus.tile
    let held := (s.fctx.gran.map fun e => 2 ^ e.1).sum
    ((free.length < want.length → ∃ t, exec (.allot bx by') s = .next t ∧
        SBecomes s t bx.toNat (BitVec.ofNat 64 (2 ^ 63 + held)) 2 ∧ OnlyS s t [bx.toNat]) ∧
      (want.length ≤ free.length →
        ∃ t, exec (.allot bx by') s = .next t ∧
          SBecomes s t bx.toNat (BitVec.ofNat 64 (held + (want.map fun g => 2 ^ g).sum)) 2 ∧
          (∀ g, g ∉ want → t.fctx.gran.find? g = s.fctx.gran.find? g) ∧
          want.map (fun g => t.fctx.gran.find? g) = (free.take want.length).map some ∧
          ∀ g ∈ want, ∀ v, v / 8 = g → ∀ u,
            s.t + 2 + 16 * (want.length + s.ftile.owed s.t) < u → Quiet s.fctx.r.vW v u → mainAt t v u = 0))) ∧
  ∀ (s : State) (by' : BitVec 6), s.deciding = true → ∃ t, exec (.shrink by') s = .next t ∧
    (∀ g, g < 16 → t.fctx.gran.find? g = if (s.rs by').getLsbD g then none else s.fctx.gran.find? g) ∧
    (∀ g p, g < 16 → (s.rs by').getLsbD g = true → s.fctx.gran.find? g = some p →
      (p, s.now + 32) ∈ t.ftile.granDue) ∧
    t.mem = s.mem

/-- R257 to R259: at the lead, balloc takes the lowest run of free banks, which then read as zero, within the context's budget,
and answers all ones where there is none; bfree gives banks back that the context holds and no command of it still names;
vpark copies a register to a free slot of accumulator memory, and vunpark brings it back and frees the slot; here what they
read is not poisoned and holds no soft error (R447, R451). -/
def Obligations.AccumulatorAllotment : Prop :=
  ∀ (s : State), s.deciding = true → ∀ (bx : BitVec 6) (q : Bool) (n : BitVec 7),
    let d := s.focus.die
    let k := s.focus.tile
    let held := popCount s.fctx.banks.toNat 64
    let key (off : Nat) : Nat := 6 * 2 ^ 52 + (512 * d + k) * 131072 + off
    (held + n.toNat ≤ s.fctx.bbud →
      (s.bankFind q n.toNat = none → ∃ t, exec (.balloc bx q n) s = .next t ∧
        SBecomes s t bx.toNat (BitVec.allOnes 64) 2 ∧ OnlyS s t [bx.toNat]) ∧
      ∀ h, s.bankFind q n.toNat = some h → ∃ t, exec (.balloc bx q n) s = .next t ∧
        SBecomes s t bx.toNat (BitVec.ofNat 64 h) 2 ∧
        (∀ b, b < 64 → t.fctx.banks.getLsbD b = (s.fctx.banks.getLsbD b || decide (h ≤ b ∧ b < h + n.toNat))) ∧
        ∀ a, t.mem.read a =
          if key (2048 * h) ≤ a ∧ a < key (2048 * (h + n.toNat)) then 0 else s.mem.read a) ∧
    (s.fctx.bbud < held + n.toNat →
      exec (.balloc bx q n) s = .next (s.takeTrap { cause := 0x8C, kind := 0, eng := 3 })) ∧
    (let v := (s.rs bx).toNat; v + n.toNat ≤ 64 → (∀ b, v ≤ b → b < v + n.toNat → s.fctx.banks.getLsbD b = true) →
        s.bankBusy v n.toNat = false → ∃ t, exec (.bfree bx n) s = .next t ∧ OnlyFocus s t ∧
          t.fctx = { s.fctx with banks := t.fctx.banks } ∧
          ∀ b, b < 64 → t.fctx.banks.getLsbD b = (s.fctx.banks.getLsbD b && !decide (v ≤ b ∧ b < v + n.toNat))) ∧
    (∀ h, (upFrom 0 128).find? (slotFree (s.banksHeld d k) (s.parksHeld d k)) = some h →
      cleanV s (physV s.fctx.r.voff n.toNat) 16 →
      ∃ t, exec (.vpark bx n) s = .next t ∧ SBecomes s t bx.toNat (BitVec.ofNat 64 h) 2 ∧
        t.fctx.parks = s.fctx.parks ||| BitVec.ofNat 128 (2 ^ h) ∧
        leNat (t.mem.readN (key (1024 * h)) 1024) = (mainAt s (physV s.fctx.r.voff n.toNat) s.t).toNat ∧
        ∀ a, (a < key (1024 * h) ∨ key (1024 * h) + 1024 ≤ a) → t.mem.read a = s.mem.read a) ∧
    ∀ h, (s.rs bx).toNat = h → h < 128 → s.fctx.parks.getLsbD h = true → cleanRows s (key (1024 * h)) 16 →
      ∃ t, exec (.vunpark bx n) s = .next t ∧ t.mem = s.mem ∧
        t.fctx.parks = s.fctx.parks &&& ~~~(BitVec.ofNat 128 (2 ^ h)) ∧
        VBecomes s t (physV s.fctx.r.voff n.toNat) (BitVec.allOnes 8192)
          (BitVec.ofNat 8192 (leNat (s.mem.readN (key (1024 * h)) 1024))) 8

/-- R261, R262: mlease asks for the matrix lease, unless the context has it or has asked; mrelease gives it up when no matrix
command of an earlier bundle is still to start, and holds until then. -/
def Sys2Proof.matrixLease : Prop :=
  ∀ (s : State),
    (∃ t, exec .mlease s = .next t ∧ OnlyFocus s t ∧
      t.fctx = { s.fctx with lease := if s.fctx.lease = 0 then 1 else s.fctx.lease }) ∧
    (let waits := s.fctx.e.queue.any fun c => c.eng == 0 && decide (c.at' < s.t);
      (waits = false → ∃ t, exec .mrelease s = .next t ∧ t.fctx = { s.fctx with lease := 0 } ∧
        (s.ftile.holder = some s.focus.ctx → t.ftile.holder = none ∧ t.ftile.lastHolder = some s.focus.ctx) ∧
        (s.ftile.holder ≠ some s.focus.ctx → t.ftile.holder = s.ftile.holder) ∧
        t = { s with ctxs := t.ctxs, tiles := t.tiles }) ∧
      (waits = true → s.timed = false → exec .mrelease s = .next (s.noteHold 5)))

/-! ## Barriers, tags, semaphores, fences, streams (R264 to R267, R315, R325 to R344) -/

/-- R264 to R266: at the lead, barcfg sets a valid descriptor up, unless it is there already; bar notes the arrival of the
context in the barrier's phase; barw goes on, and bartst answers 1, exactly when the phase in which the context last arrived
has completed; a barrier that is not configured takes barrier not configured (0x91). That an arrival counts from the issue
of its bar on for barrier busy (0x90) and for barrier already arrived (0x92) is the model's choice (log 85). -/
def Obligations.Barriers : Prop :=
  ∀ (s : State) (b : BitVec 7),
    let d := s.focus.die
    let k := s.focus.tile
    let c := s.focus.ctx
    let x := s.ftile.bars.get b.toNat
    let trap (cause : Nat) : TrapInfo := { cause := cause, kind := 0, eng := 3 }
    let withBar (t : State) (y : Bar) : Prop :=
      t = { s with tiles := t.tiles } ∧ t.ftile = { s.ftile with bars := s.ftile.bars.set b.toNat y } ∧
        ∀ n, n ≠ tileKey d k → t.tiles.get n = s.tiles.get n
    (∀ bx, s.deciding = true →
      (s.barBad d k (s.rs bx) = true → exec (.barcfg bx b) s = .next (s.takeTrap (trap 0x8F))) ∧
      (s.barBad d k (s.rs bx) = false →
        (x.cfg = some (s.rs bx) → exec (.barcfg bx b) s = .next s) ∧
        (x.cfg ≠ some (s.rs bx) → x.anyArrived = false →
          ∃ t, exec (.barcfg bx b) s = .next t ∧ withBar t ⟨some (s.rs bx), 0, [], none⟩) ∧
        (x.cfg ≠ some (s.rs bx) → x.anyArrived = true →
          exec (.barcfg bx b) s = .next (s.takeTrap (trap 0x90))))) ∧
    (x.cfg = none → ∀ bp, ∀ i ∈ [Instr.bar b, .barw b, .bartst bp b],
      exec i s = .next (s.takeTrap (trap 0x91))) ∧
    ∀ v, x.cfg = some v →
      ((v.getLsbD (56 + c) = true ∧ c < 4 → x.arrived c = false →
        ∃ t at', exec (.bar b) s = .next t ∧ s.now + 2 ≤ at' ∧
          withBar t { x with arr := x.arr.set c (x.phase + 1, at') }) ∧
      (c < 4 → v.getLsbD (56 + c) = false ∨ x.arrived c = true →
        exec (.bar b) s = .next (s.takeTrap (trap 0x92)))) ∧
      ∀ n cyc, x.arr.find? c = some (n, cyc) →
        (n ≤ x.phase → exec (.barw b) s = .next s) ∧
        (x.phase < n → s.timed = false → exec (.barw b) s = .next (s.noteHold 4)) ∧
        ∀ bp : BitVec 4, ∃ t, exec (.bartst bp b) s = .next t ∧ PBecomes s t bp.toNat (decide (n ≤ x.phase)) 1 ∧
          OnlyP s t [bp.toNat] ∧ SameFlags s t

/-- R315: waitany goes on where the mask is 0 or names a set tag, waitall where every tag of the mask is set; ffr gives the
lowest set tag of the mask, or 64; tagclr clears the tags for the next bundle. A mask with a tag that the context does not
own takes tag not owned (0x61), with the lowest such tag. -/
def Sys2Proof.tags : Prop :=
  ∀ (s : State) (bx by' : BitVec 6),
    let m := s.rs bx
    let tags := s.ftile.tags
    (m &&& ~~~s.fctx.tagm = 0 →
      (m = 0 ∨ tags &&& m ≠ 0 → exec (.waitany bx) s = .next s) ∧
      (m ≠ 0 → tags &&& m = 0 → s.timed = false → exec (.waitany bx) s = .next (s.noteHold 2)) ∧
      (tags &&& m = m → exec (.waitall bx) s = .next s) ∧
      (tags &&& m ≠ m → s.timed = false → exec (.waitall bx) s = .next (s.noteHold 2)) ∧
      (∃ t, exec (.ffr by' bx) s = .next t ∧ OnlyS s t [by'.toNat] ∧ SameFlags s t ∧
        SBecomes s t by'.toNat
          (BitVec.ofNat 64 ((List.range 64).takeWhile fun i => !(tags &&& m).getLsbD i).length) 2) ∧
      ∃ t, exec (.tagclr bx) s = .next t ∧ OnlyFocus s t ∧
        (s.fctx.r.late = [] → ∀ no, (t.closeBundle no).ftile.tags = tags &&& ~~~m)) ∧
    ∀ n, n < 64 → m.getLsbD n = true → s.fctx.tagm.getLsbD n = false →
      (∀ j, j < n → m.getLsbD j = true → s.fctx.tagm.getLsbD j = true) →
      ∀ i ∈ [Instr.waitany bx, .waitall bx, .ffr by' bx, .tagclr bx],
        exec i s = .next (s.takeTrap { cause := 0x61, kind := 0, eng := 3, status := n })

/-- R335, R336, R357: semw subtracts where the semaphore, after the operations of the cycle, is at least the operand, and
holds until then. semsig adds modulo 2^32 and semset sets at issue + 2, or, where a write of the context performs later, in
the cycle after the last that does. Other semaphores keep their values. -/
def Sys2Proof.semaphores : Prop :=
  ∀ (s : State) (bx : BitVec 6) (n : BitVec 7),
    let d := s.focus.die
    let k := s.focus.tile
    let v := (s.rs bx).toNat % 2 ^ 32
    let value (t : State) (u m : Nat) : Nat := ((t.ftile.semSettle u).sems.get m).toNat
    let mine := s.ftile.pend.filter fun p => p.ctx == s.focus.ctx
    let signals (t : State) (who : Option Nat) (at' : Nat) : Prop :=
      OnlyTile s t d k ∧ t.ftile = { s.ftile with semQ := s.ftile.semQ ++ [⟨at', n.toNat, who, v, true⟩] } ∧
        (at' = s.now + 2 ∨ ∃ p ∈ mine, at' + s.t = s.now + p.cycle + 1) ∧
        s.now + 2 ≤ at' ∧ ∀ p ∈ mine, s.t + 2 < p.cycle → s.now + p.cycle < at' + s.t
    (v = 0 ∨ v ≤ value s s.now n.toNat → ∃ t, exec (.semw bx n) s = .next t ∧ OnlyTile s t d k ∧
      value t s.now n.toNat = value s s.now n.toNat - v ∧
      ∀ m, m ≠ n.toNat → value t s.now m = value s s.now m) ∧
    (value s s.now n.toNat < v → s.timed = false → exec (.semw bx n) s = .next (s.noteHold 3)) ∧
    (∃ t at', exec (.semsig bx n) s = .next t ∧ signals t none at' ∧
      (s.ftile.semQ = [] → value t at' n.toNat = (value s at' n.toNat + v) % 2 ^ 32 ∧
        ∀ m, m ≠ n.toNat → value t at' m = value s at' m)) ∧
    ∃ t at', exec (.semset bx n) s = .next t ∧ signals t (some s.focus.ctx) at' ∧
      (s.ftile.semQ = [] → value t at' n.toNat = v ∧ ∀ m, m ≠ n.toNat → value t at' m = value s at' m)

/-- An endpoint lies in a fence scope of the tile in focus (R342): its own scratchpad, those of its caravan, the scratchpads and
HBM4 stacks of its die, every endpoint of the module but host memory, of the Kendom pod, of every module, and host memory
too. The kinds of endpoint: 0 a scratchpad, 1 an HBM4 stack, 2 host memory, 3 the reduction unit. -/
def Sys2Proof.inFence (s : State) (scope : Nat) (e : Endpoint) : Prop :=
  let here : Prop := e.module = s.modnum
  let d := s.focus.die
  match scope with
  | 0 | 1 => here ∧ e.kind = 0 ∧ e.die = d ∧ e.idx = s.focus.tile
  | 2 => here ∧ e.kind = 0 ∧ e.die = d ∧ (s.car d s.focus.tile).has e.idx = true
  | 3 => here ∧ e.die = d ∧ e.kind ≤ 1
  | 4 => here ∧ e.kind ≠ 2
  | 5 => (here ∨ ∃ p, s.route e.module = some p ∧ s.portRole p = 1) ∧ e.kind ≠ 2
  | 6 => e.kind ≠ 2
  | _ => True

/-- What an access of a command names lies in a fence scope: the own scratchpad in each, an address elsewhere by its endpoint. -/
def Sys2Proof.namesInFence (s : State) (scope : Nat) (l : List (Agent × Nat)) : Prop :=
  ∃ e ∈ l, e.2 < 0x60000 ∨ ∃ p, (s.reach s.focus.die (s.car s.focus.die s.focus.tile).asid e.1 e.2).2 = .ok p ∧
    inFence s scope (s.endpoint s.focus.die p)

/-- An earlier effect of the context in focus on which a fence of a scope waits (R343): a command in its queue, or what a
started one has still to read and to write; a packet that is not acknowledged; an update that is in the window; a slot's write
or read at this tile that has not performed. -/
def Sys2Proof.fenceWaits (s : State) (scope : Nat) : Prop :=
  let f := s.focus
  let w : Who := ⟨f.die, f.tile, f.ctx, (s.car f.die f.tile).asid⟩
  (∃ m ∈ s.fctx.e.queue, m.ord < s.flitNo ∧ namesInFence s scope (s.touches w m)) ∨
  (∃ r ∈ s.ftile.runs, r.ctx = f.ctx ∧ r.cmd.ord < s.flitNo ∧ namesInFence s scope (s.openTouches w r)) ∨
  (∃ p ∈ s.ftile.retx, p.src.ctx = f.ctx ∧ p.ord < s.flitNo ∧ inFence s scope p.dst) ∨
  (∃ e ∈ s.ftile.window, e.ctx = f.ctx ∧ e.ord < s.flitNo ∧ ∀ x, e.tgt = some x → inFence s scope x) ∨
  (∃ p ∈ s.ftile.pend, p.ctx = f.ctx ∧ p.at' < s.t ∧ s.tt < p.tick s.ftile.lag) ∨
  ∃ o ∈ s.lates, o.focus.die = f.die ∧ o.focus.tile = f.tile ∧ o.focus.ctx = f.ctx ∧ o.early = false ∧ o.at' < s.t ∧
    s.clockOf o.focus < o.last

/-- R342, R343: a fence changes nothing in timetabled mode. Elsewhere it goes on, and changes nothing, where no earlier effect
in its scope is open; where one is, it holds and asks for the context's window entries, with kind 12 exactly where a packet of
the context for an endpoint in the scope is being refused (R330). -/
def Sys2Proof.fences : Prop :=
  ∀ (s : State) (scope : BitVec 7),
    (s.timed = true → exec (.fence scope) s = .next s) ∧
    (s.timed = false → ¬ fenceWaits s scope.toNat → exec (.fence scope) s = .next s) ∧
    (s.timed = false → fenceWaits s scope.toNat → ∃ kind, (kind = 5 ∨ kind = 12) ∧
      exec (.fence scope) s = .next ((s.modF fun c => { c with evict := true }).noteHold kind) ∧
      (kind = 12 ↔ ∃ p ∈ s.ftile.retx, p.src.ctx = s.focus.ctx ∧ p.ref = true ∧ inFence s scope.toNat p.dst))

/-- A packet of a stream of the context in focus has been made (R325, R326, R331): it is in the tile's retransmit buffer with
the stream's next number, opens its binding where that is 0, and, outside a timetable, is on its way; the stream is bound to
its endpoint and has counted it, or, after a close, is unbound with the next epoch and number 0. Where its page is in
poison-hold it says so to its endpoint. -/
def Sys2Proof.Sends (s t : State) (n : Nat) (kind : PktKind) (dst : Endpoint) (addr : Nat) (data : List Byte)
    (len sem : Nat) (close held : Bool) : Prop :=
  let f := s.focus
  let st := s.fctx.streams.get n
  ∃ p : Pkt, t.ftile.retx = s.ftile.retx ++ [p] ∧ p.src = ⟨s.modnum, f.die, f.tile, f.ctx, n⟩ ∧ p.seq = st.next ∧
    p.epoch = st.epoch ∧ p.opn = (st.next == 0) ∧ p.kind = kind ∧ p.dst = dst ∧ p.addr = addr ∧ p.data = data ∧
    p.len = len ∧ p.sem = sem ∧ p.cl = close ∧ p.ph = held ∧ p.inc = s.fdie.inc ∧
    (if (s.car f.die f.tile).timed = true then t.net = s.net
     else ∃ cycle, s.now ≤ cycle ∧ t.net = s.net ++ [⟨s.flitNo + 1, cycle, s.now, .pkt p⟩]) ∧
    t.fctx.streams.get n =
      (if close then
        { bound := none, broken := false, epoch := (st.epoch + 1) % 256, next := 0,
          closes := (st.closes.filter fun c => decide (s.now < c + 2 ^ 20)) ++ [s.now] }
       else { st with bound := some (st.bound.getD dst), next := (st.next + 1) % 4096 }) ∧
    ∀ m, m ≠ n → t.fctx.streams.get m = s.fctx.streams.get m

/-- R325, R328, R329: a remote store, a store with a signal, or a load whose address, stream and limits pass their checks sends
its packet: a store its low bytes; a signal 8 bytes, or none where SD is 0, with the semaphore, and the binding's end where CL
is set; a load its length, and the next bundle waits for it. -/
def Sys2Proof.remoteSends : Prop :=
  (∀ (s : State) (f : ST) (s1 : State) (p : Place), s.guard f.pg f.pn = true →
    let n := 2 ^ f.rz.toNat
    let d := s.focus.die
    (s.remotePlace (s.rs f.sa).toNat n .marker = .ok (s1, p) → s1.remoteStream f.stm.toNat p = .ok () →
      ∃ t, exec (.rst f) s = .next t ∧
        Sends s1 t f.stm.toNat .store (s1.endpoint d p) p.addr
          ((upFrom 0 n).map fun i => (s.rs f.sd).extractLsb' (8 * i) 8) n 0 false
          (s.heldPage (s.rs f.sa).toNat .marker)) ∧
    (s.remotePlace (s.rs f.sa).toNat n .read = .ok (s1, p) → s1.remoteStream f.stm.toNat p = .ok () →
      s.timed = false → ∃ t, exec (.rld f) s = .next t ∧
        Sends s1 t f.stm.toNat .load (s1.endpoint d p) p.addr [] n 0 false
          (s.heldPage (s.rs f.sa).toNat .read) ∧
        t.fctx.rld = s1.fctx.rld ++
          [(f.stm.toNat * 256 + (s1.fctx.streams.get f.stm.toNat).epoch) * 4096 +
            (s1.fctx.streams.get f.stm.toNat).next])) ∧
  ∀ (s : State) (f : STF) (s1 : State) (p : Place),
    s.remotePlace (s.rs f.sa).toNat 8 .signal = .ok (s1, p) → (s1.endpoint s.focus.die p).kind = 0 →
    s1.remoteStream f.stm.toNat p = .ok () →
    let n := if f.sd.toNat = 0 then 0 else 8
    ∃ t, exec (.rstf f) s = .next t ∧
      Sends s1 t f.stm.toNat .signal (s1.endpoint s.focus.die p) p.addr
        ((upFrom 0 n).map fun i => (s.rs f.sd).extractLsb' (8 * i) 8) n f.sem.toNat f.cl
        (s.heldPage (s.rs f.sa).toNat .signal)

/-- R328: an address in the tile's own scratchpad, or not a multiple of the access's size, takes remote address invalid (0x49); a
stream bound to another endpoint takes stream destination conflict (0x62). -/
def Sys2Proof.remoteAccessTraps : Prop :=
  ∀ (s : State) (f : ST), s.guard f.pg f.pn = true → ∀ i, (i = Instr.rst f ∨ i = Instr.rld f) →
    let va := (s.rs f.sa).toNat
    let n := 2 ^ f.rz.toNat
    (va < 0x60000 ∨ va % n ≠ 0 →
      exec i s = .next (s.takeTrap { cause := 0x49, kind := 0, eng := 9, addr2 := va % 2 ^ 57 })) ∧
    ∀ s1 p e, s.remotePlace va n (if i = .rst f then .marker else .read) = .ok (s1, p) →
      (s1.fctx.streams.get f.stm.toNat).bound = some e → e ≠ s1.endpoint s.focus.die p →
      exec i s = .next (s.takeTrap { cause := 0x62, kind := 0, eng := 9, status := f.stm.toNat })

/-- R337: sclose of an unbound stream changes nothing. Of a bound one whose remote window entries have been applied: of a
broken one it unbinds without a packet; of one that may send it sends the close packet, and the next binding has the next
epoch. -/
def Sys2Proof.streamClose : Prop :=
  ∀ (s : State) (stm : BitVec 7),
    let n := stm.toNat
    let st := s.fctx.streams.get n
    (st.bound = none → exec (.sclose stm) s = .next s) ∧
    ((s.ftile.window.any fun e => e.ctx == s.focus.ctx && e.stm == n && decide (0x60000 ≤ e.va)) = false →
    (∀ e, st.bound = some e → st.broken = true → ∃ t, exec (.sclose stm) s = .next t ∧ OnlyFocus s t ∧
      t.fctx.streams.get n =
        { bound := none, broken := false, epoch := (st.epoch + 1) % 256, next := 0,
          closes := (st.closes.filter fun c => decide (s.now < c + 2 ^ 20)) ++ [s.now] }) ∧
    (∀ e, st.bound = some e → st.broken = false → s.mayDepart s.focus.die s.focus.tile s.focus.ctx n = true →
      s.endpoint s.focus.die (endpointPlace s.modnum e) = e →
      ∃ t, exec (.sclose stm) s = .next t ∧
        Sends s t n .close e (endpointPlace s.modnum e).addr [] 0 0 true false))

/-! ## Launches, hauls, isolation, recovery (R268, R275, R295, R387 to R390, R420 to R438, R462) -/

/-- R243, R268, R275, R406: at the lead, a launch of a valid image appends it to the queue with the next entry number, which
LASTENT of the queue then is, if the queue has room, and s[BY] tells: 1 where it was appended, 0 where not; an image of the
wrong version, ASID, die or mode takes launch invalid (0x93). -/
def Sys2Proof.launches : Prop :=
  ∀ (s : State) (bx by' : BitVec 6) (q : BitVec 7), s.deciding = true →
    let d := s.focus.die
    let a := (s.rs bx).toNat
    let img := s.image a
    let field (off h l : Nat) : Nat := leNat ((img.drop off).take 8) / 2 ^ l % 2 ^ (h + 1 - l)
    let c := s.car d s.focus.tile
    let queue := (s.die d).queues.get q.toNat
    a % 64 = 0 → a + 256 ≤ 0x60000 →
    ∀ e ∈ [(Instr.launch bx by' q, false), (.ttstart bx by' q, true)],
      let good : Bool := (field 0 63 48 == 1 || field 0 63 48 == 2) && field 0 47 32 == c.asid && field 0 31 30 == d &&
        (if e.2 then field 0 29 28 == 1 && field 0x60 56 0 != 0 else field 0 29 28 == 0 || field 0 29 28 == 2)
      (good = false → exec e.1 s = .next (s.takeTrap { cause := 0x93, kind := 0, eng := 3 })) ∧
      (good = true → ∃ t, exec e.1 s = .next t ∧
        SBecomes s t by'.toNat (if queue.length < 32 then 1 else 0) 12 ∧
        t.die d = (if queue.length < 32 then
            { s.die d with
              queues := (s.die d).queues.set q.toNat (queue ++ [⟨(s.die d).entNo, img⟩])
              entNo := (s.die d).entNo + 1
              qwin := (s.die d).qwin.modify q.toNat fun w => { w with lastent := (s.die d).entNo } }
          else s.die d) ∧ t.mem = s.mem)

/-- R295: at the lead, hadv counts one release of a published slot that no command of the context still reads; the release that
makes the target number frees the slot. A waybill without a haul list takes 0x94, a slot past the depot 0x95, one that is not
published 0x96. -/
def Sys2Proof.haulAdvance : Prop :=
  ∀ (s : State) (bx : BitVec 6), s.deciding = true →
    let d := s.focus.die
    let c := s.car d s.focus.tile
    let n := (s.rs bx).toNat
    let trap (cause : Nat) : TrapInfo := { cause := cause, kind := 0, eng := 3 }
    ((s.die d).haulOf c.wb = none → exec (.hadv bx) s = .next (s.takeTrap (trap 0x94))) ∧
    ∀ h, (s.die d).haulOf c.wb = some h →
      (h.nslot ≤ n → exec (.hadv bx) s = .next (s.takeTrap (trap 0x95))) ∧
      (n < h.nslot → (h.slots.get n).st ≠ 2 → exec (.hadv bx) s = .next (s.takeTrap (trap 0x96))) ∧
      (n < h.nslot → (h.slots.get n).st = 2 → (c.tiles.any fun t => s.slotRead t n h) = false →
        ∃ t h', exec (.hadv bx) s = .next t ∧ (t.die d).haulOf c.wb = some h' ∧
          (h'.slots.get n).rel = (if (h.slots.get n).rel + 1 = h.rtgt then 0 else (h.slots.get n).rel + 1) ∧
          (h'.slots.get n).st = (if (h.slots.get n).rel + 1 = h.rtgt then 0 else 2) ∧
          ∀ m, m ≠ n → h'.slots.get m = h.slots.get m)

/-- R387, R389, R390: at the lead of a context that may, an isolation instruction whose dropped translations nothing still uses
completes: the die's TLB keeps all but the translations it names (of an ASID's page, of an ASID, or all), and no micro-TLB of the
die keeps a page that the TLB has lost. Otherwise the privilege trap (0x4F) is taken and nothing is dropped. -/
def Sys2Proof.translationInvalidation : Prop :=
  ∀ (s : State) (bx by' : BitVec 6), s.deciding = true →
    let d := s.focus.die
    let asid := (s.rs by').toNat % 2 ^ 16
    let va := (s.rs bx).toNat % 2 ^ 57
    let may := s.focus.ctx = 4 ∨ s.asidSys d (s.car d s.focus.tile).asid = true
    ∀ e ∈ ([(.tlbinv bx by', fun e => e.asid == asid && (e.page * 4096) / 2 ^ e.res.lg == va / 2 ^ e.res.lg, some asid),
        (.tlbinva by', fun e => e.asid == asid, some asid), (.tlbinvaAll, fun _ => true, none)] :
        List (Instr × (TlbEnt → Bool) × Option Nat)),
      (¬ may → exec e.1 s = .next (s.takeTrap { cause := 0x4F, kind := 0, eng := 3 })) ∧
      (may → s.fctx.lead.isol = none → (s.dropTlb d e.2.1).isoBusy d e.2.2 s.now = false → ∃ t, exec e.1 s = .next t ∧
        (t.die d).tlb = (s.die d).tlb.filter (fun x => !e.2.1 x) ∧
        (∀ k, k < 512 → ∀ x ∈ (t.tile d k).micro, x ∈ (s.tile d k).micro ∧
          ∃ y ∈ (t.die d).tlb, y.asid = x.1 ∧ y.page = x.2) ∧
        t.mem = s.mem ∧ t.fctx.lead.isol = none ∧ t.fctx.r = s.fctx.r)

/-- R387, R388, R390: at the lead of a context that may, and where nothing still uses the ASID's translations, rngset, whose image
passes its checks, copies the 32 bytes to the entry of the ASID's range table, and rngclr clears the entry's first doubleword;
both drop the ASID's cached translations of the old and the new range, and no other ASID's; every other byte of memory keeps
its value. -/
def Sys2Proof.rangeInstructions : Prop :=
  ∀ (s : State) (bx by' : BitVec 6) (n : BitVec 7), s.deciding = true →
    s.focus.ctx = 4 ∨ s.asidSys s.focus.die (s.car s.focus.die s.focus.tile).asid = true →
    s.fctx.lead.isol = none →
    let d := s.focus.die
    let asid := (s.rs by').toNat % 2 ^ 16
    let a := (s.rs bx).toNat
    let entry := s.rangeAt d asid n.toNat
    let key := dieKey d entry
    let inRange (u : State) (x : TlbEnt) : Prop :=
      fld (u.readD d entry) 56 0 ≤ x.page * 4096 ∧ x.page * 4096 < fld (u.readD d (entry + 8)) 56 0
    let dropped (t : State) : Prop :=
      (∀ x ∈ (t.die d).tlb, x ∈ (s.die d).tlb ∧ (x.asid = asid → ¬ inRange s x ∧ ¬ inRange t x)) ∧
      ∀ x ∈ (s.die d).tlb, x.asid ≠ asid → x ∈ (t.die d).tlb
    s.isoBusy d (some asid) s.now = false →
    (s.rngsetCheck bx = .ok () → ∃ t, exec (.rngset bx by' n) s = .next t ∧
      t.mem.readN key (s.rngImage a).length = s.rngImage a ∧
      (∀ k, k < key ∨ key + (s.rngImage a).length ≤ k → t.mem.read k = s.mem.read k) ∧ dropped t) ∧
    ∃ t, exec (.rngclr by' n) s = .next t ∧ t.mem.readN key 8 = List.replicate 8 0 ∧
      (∀ k, k < key ∨ key + 8 ≤ k → t.mem.read k = s.mem.read k) ∧ dropped t

/-- R434: at the lead, trap n leaves its code for the end of its bundle and idle count; there, at the last position before the
next bundle and with no transfer under way, the lead's tile keeps the record of the software trap (0x0F, kind N, status n) and
issue stops. Where the lead's tile holds the record of another cause for this stop, the trap stays to be taken when the context
resumes (R423). At another tile trap does nothing. -/
def Sys2Proof.trapTaken : Prop :=
  (∀ (s : State) (n : BitVec 7), ∃ t, exec (.trap n) s = .next t ∧
    if s.deciding = true then OnlyFlow s t { s.fctx.lead.flow with trapN := some n.toNat } else t = s) ∧
  ∀ (s : State) (d l c idle n : Nat), (s.lead d l c).flow.trapN = some n → (s.lead d l c).flow.pend = none →
    idle ≤ (s.lead d l c).flow.pos.ioff →
    let t := s.stepFlow d l c idle false
    (t.lead d l c).halted = true ∧ t.mem = s.mem ∧
      ((s.ctx d l c).t.cur = none → (t.lead d l c).flow.trapN = none ∧ ∃ r, (t.ctx d l c).t.cur = some r ∧
        r.info = { cause := 0x0F, kind := 3, eng := 3, status := n }) ∧
      ((s.ctx d l c).t.cur.isSome = true → (t.ctx d l c).t.cur = (s.ctx d l c).t.cur ∧
        (t.lead d l c).flow.trapN = some n ∧ (t.lead d l c).flow.after = 8)

/-- R285, R426: eret in a handler, or in the miss handler, is noted for the end of its bundle and idle count; what ends a handler
gives every tile its resume position back, out of handler mode, and the lead the place and history of what was interrupted.
Outside a handler eret takes ERET outside handler (0x10). -/
def Sys2Proof.eretReturns : Prop :=
  (∀ s : State,
    (s.deciding = true → s.focus.ctx ≠ 4 → s.fctx.t.hm = false →
      exec .eret s = .next (s.takeTrap { cause := 0x10, kind := 0, eng := 3 })) ∧
    (s.deciding = false ∨ s.focus.ctx = 4 ∨ s.fctx.t.hm = true → ∃ t, exec .eret s = .next t ∧
      if s.deciding = true then OnlyFlow s t { s.fctx.lead.flow with after := 3 } else t = s)) ∧
  (∀ (s : State) (d l c idle : Nat), (s.lead d l c).flow.after = 3 → (s.lead d l c).flow.trapN = none →
    (s.lead d l c).flow.pend = none → idle ≤ (s.lead d l c).flow.pos.ioff →
    ((s.stepFlow d l c idle false).lead d l c).flow.after = 7) ∧
  ∀ (s : State) (d l c : Nat) (v : Saved), (s.lead d l c).saved = some v →
    let t := s.leaveHandler d l c
    (t.lead d l c).flow = v.flow ∧ (t.lead d l c).hist = v.hist ∧ (t.lead d l c).no = v.no ∧
      (t.lead d l c).saved = none ∧ t.mem = s.mem ∧
      ∀ k ∈ (s.car d l).tiles, (t.ctx d k c).t.hm = false ∧ (t.ctx d k c).nextNo = (s.ctx d k c).t.resume

/-- R285, R426, R434: trap and eret. -/
def Sys2Proof.trapAndReturn : Prop := trapTaken ∧ eretReturns

/-- R435 to R438: at the lead of a context that may, with a descriptor that names a stopped context of another caravan: eret.ctx
with operation 1 ends it, and with operation 0 resumes it, unless it is damaged (0x98). ctxsave and ctxload whose checks pass
put the save or load of that context under way, hold (kind 5) until it has ended, and then complete and change nothing more. -/
def Sys2Proof.contextCommands : Prop :=
  ∀ (s : State) (bx by' : BitVec 6) (l c : Nat), s.deciding = true →
    let d := s.focus.die
    (s.ctxTarget bx = .ok (l, c) →
      (∃ t, exec (.eretCtx bx 1) s = .next t ∧ t = s.endCtx d l c ∧
        ∀ k ∈ (s.car d l).tiles, (t.ctx d k c).st = .ready ∧ (t.ctx d k c).gran = [] ∧
          (t.ctx d k c).banks = 0 ∧ (t.ctx d k c).parks = 0 ∧ (t.ctx d k c).lease = 0) ∧
      (∃ t, exec (.eretCtx bx 1) s = .next t ∧ (t.lead d l c).halted = true ∧ (t.lead d l c).exitPh = 2) ∧
      ((s.ctx d l c).st = .damaged →
        exec (.eretCtx bx 0) s = .next (s.takeTrap { cause := 0x98, kind := 0, eng := 3 })) ∧
      ((s.ctx d l c).st ≠ .damaged → ((s.die d).wbs.get (s.car d l).wb).aborted = false →
        ∃ t, exec (.eretCtx bx 0) s = .next t ∧
          (t.lead d l c).halted = false ∧ ∀ k ∈ (s.car d l).tiles, (t.ctx d k c).st = .ready)) ∧
    (∀ load s1, s.fctx.lead.sysGo = false → s.ctxStart load bx by' (some (s.leadOf, s.focus.ctx)) = .ok s1 →
      s1.deciding = true → s1.myLead.sysRes = none →
      exec (if load then .ctxload bx by' else .ctxsave bx by') s =
          .next ((s1.modMyLead fun x => { x with sysGo := true }).noteHold 5) ∧
        ∃ o : SaveOp, (s1.die d).saves = (s.die d).saves ++ [o] ∧ o.load = load ∧ s.ctxTarget bx = .ok (o.lead, o.ctx) ∧
          o.addr = (s.rs by').toNat ∧ o.waiter = some (s.leadOf, s.focus.ctx) ∧ o.dry = false) ∧
    (s.fctx.lead.sysGo = true → s.fctx.lead.sysRes = none →
      exec (.ctxsave bx by') s = .next (s.noteHold 5) ∧ exec (.ctxload bx by') s = .next (s.noteHold 5)) ∧
    (s.fctx.lead.sysGo = true → s.fctx.lead.sysRes = some none → (∀ o ∈ (s.die d).saves, o.dry = false) →
      ∀ i ∈ [Instr.ctxsave bx by', .ctxload bx by'], ∃ t, exec i s = .next t ∧ OnlyFocus s t ∧
        t.fctx = { s.fctx with lead := { s.fctx.lead with sysGo := false, sysRes := none } })

/-- R459, R462: at the lead, jmark of a recorded context writes one entry of type 6 to the die's ring: the tile, the context, the
time, s[BX] and the number. jflush of a recorded context leaves no commit run of the die unwritten; without recording it changes
nothing. -/
def Sys2Proof.journalMarks : Prop :=
  (∀ (s : State) (bx : BitVec 6) (n : BitVec 7), s.deciding = true → s.focus.ctx < 4 →
    let d := s.focus.die
    let k := s.focus.tile
    let jctl := s.ctl d 0x400
    let lg := fld jctl 4 0
    let head := (s.ctl d 0x408).toNat
    let key := dieKey d (fld jctl 51 12 * 4096 + 32 * (head % 2 ^ lg))
    jctl.getLsbD 63 = true → 10 ≤ lg → lg ≤ 26 → (s.car d k).mode = 0 → fld (s.ctl d 0xB0) 7 4 ≠ 1 →
    ∃ t, exec (.jmark bx n) s = .next t ∧ t.ctl d 0x408 = s.ctl d 0x408 + 1 ∧
      leNat (t.mem.readN (key + 16) 8) = (s.rs bx).toNat ∧ leNat (t.mem.readN (key + 24) 8) = n.toNat ∧
      leNat (t.mem.readN (key + 8) 8) = (s.die d).ttc % 2 ^ 64 ∧
      leNat (t.mem.readN key 8) / 2 ^ 60 = 6 ∧ leNat (t.mem.readN key 8) / 2 ^ 58 % 4 = s.focus.ctx ∧
      leNat (t.mem.readN key 8) / 2 ^ 49 % 512 = s.leadOf % 512 ∧
      ∀ a, a < key ∨ key + 32 ≤ a → t.mem.read a = s.mem.read a) ∧
  (∀ (s : State) (bx : BitVec 6) (n : BitVec 7), s.deciding = false → exec (.jmark bx n) s = .next s) ∧
  (∀ (s : State), s.deciding = true → s.recording s.focus.die = true → (s.car s.focus.die s.focus.tile).mode = 0 →
    ∃ t, exec .jflush s = .next t ∧ t.openRuns s.focus.die = [] ∧ (s.openRuns s.focus.die = [] → t = s)) ∧
  ∀ (s : State), s.deciding = false ∨ (s.ctl s.focus.die 0x400).getLsbD 63 = false → exec .jflush s = .next s

/-- R419, R420, R429: taking a trap at a tile writes no register, no memory and no flag: the context's record is kept there, with the
cause, the place, the die's times and the tile's sequence number, and the signal to the lead is sent, which at the lead itself
stops issue at once, or, for a cause that withholds no bundle (of kind C, N or I), where no transfer is under way. Where a
record stands already it stays: such a cause then does nothing, and another withholds its bundle and signals. -/
def Obligations.TakingATrap : Prop :=
  ∀ (s : State) (i : TrapInfo),
    let f := s.focus
    let t := s.takeTrap i
    let lead := (s.car f.die f.tile).leadTile
    t = { s with ctxs := t.ctxs } ∧
    ((i.kind = 2 ∨ i.kind = 3 ∨ 5 ≤ i.kind) → s.fctx.t.cur.isSome = true → t = s) ∧
    (s.fctx.t.cur.isSome = true → i.kind ≤ 1 ∨ i.kind = 4 → t.fctx.t = { s.fctx.t with stuck := true }) ∧
    (i.kind ≤ 1 ∨ i.kind = 4 ∨ s.fctx.t.cur = none →
      t.fctx.r = s.fctx.r ∧ t.fctx.e = s.fctx.e ∧
      (s.fctx.t.cur = none → ∃ r, t.fctx.t = { s.fctx.t with cur := some r } ∧ r.info = i ∧ r.no = f.no ∧ r.pos = f.pos ∧
        r.baddr = i.baddr.getD f.baddr ∧ r.ttc = (s.die f.die).ttc ∧
        r.ptime = (s.die f.die).ttc + ((s.die f.die).ctl.get 0x18).toNat ∧ r.tseq = s.ftile.tseq.toNat ∧
        r.hm = s.fctx.t.hm) ∧
      (t.ctx f.die lead f.ctx).lead.sigs =
        (s.ctx f.die lead f.ctx).lead.sigs ++ [(s.now + (s.car f.die f.tile).hops f.tile, f.tile)] ∧
      (lead = f.tile → (s.car f.die f.tile).hops f.tile = 0 →
        (i.kind ≤ 1 ∨ i.kind = 4 ∨ s.fctx.lead.inWindow = false) → t.fctx.lead.halted = true))

/-! ## The machine's own steps: issue, followers, landing (R52, R250 to R253, R256, R262, R266, R302, R336, R340) -/

/-- R23, R250, R251, R421: where the current context of a free-mode caravan stands within the idle count of a bundle and may
issue, LEAD_ISSUE_CYCLE issues an idle bundle: it takes the next issue number, enters the history with no slots, executes at the
lead, goes on to the next tiles, and the position moves on by one. -/
def Sys2Proof.leadIssuesIdle : Prop :=
  ∀ (s : State) (d l c n a : Nat), c < 4 →
    let x := s.ctx d l c
    let y := x.lead
    (s.tile d l).miss = none → (s.tile d l).occ.isSome = true → (s.car d l).leadTile = l →
    (s.die d).freeze = none → (s.car d l).mode = 0 → (s.tile d l).cur = c →
    (∀ b, (s.ctx d l b).lead.flow.after = 0) → x.st = .ready → y.halted = false → y.stop = none → y.exitPh = 0 →
    s.histFull d l c = false → x.stopIn = [] → x.rld = [] → x.hold = [] → x.r.late = [] → y.re = none →
    y.flow.pend = none → y.flow.edge = none → y.flow.trapN = none → y.cur.has y.flow.pos.seg = true →
    (y.flow.chk = true → y.flow.pos.bit63 = false) →
    readBundle y.cur y.flow.pos y.flow.chk = .idle n a → y.flow.pos.ioff < n →
    ∃ t, exec (.leadIssueCycle d l) s = .next t ∧ t.mem = s.mem ∧
      (t.ctx d l c).lead.no = y.no + 1 ∧ (t.ctx d l c).nextNo = y.no + 1 ∧
      (t.ctx d l c).lead.flow.pos = { y.flow.pos with ioff := y.flow.pos.ioff + 1 } ∧
      (∃ b, (t.ctx d l c).lead.hist.getLast? = some b ∧ b.no = y.no ∧ b.slots = []) ∧
      ∀ u ∈ (s.car d l).nexts l, (t.ctx d u c).inbox = (s.ctx d u c).inbox ++ [(y.no, s.now + 1)]

/-- A tile that no caravan occupies, and on which no miss handler runs, issues nothing. -/
def Sys2Proof.noLeadNoIssue : Prop :=
  ∀ (s : State) (d l : Nat), (s.tile d l).miss = none → (s.tile d l).occ = none →
    exec (.leadIssueCycle d l) s = .next s

/-- An idle bundle may run at a tile now (R252, R253). -/
def Sys2Proof.mayFollow (s : State) (d k c no : Nat) (b : Issued) : Prop :=
  let x := s.ctx d k c
  s.bundleNo d k c no = some b ∧ b.no = no ∧ b.slots = [] ∧ x.nextNo ≤ no ∧ x.t.cur = none ∧ x.t.stuck = false ∧ x.stopIn = [] ∧ x.rld = [] ∧
    x.hold = [] ∧ x.r.late = [] ∧ (s.tile d k).miss = none ∧ x.lastAt + b.spacing ≤ s.clock d k

/-- R23, R252: a bundle that arrives at a follower, and that nothing holds, executes in the cycle of its arrival and goes on to
the next tiles; while earlier ones wait it goes into the latch. -/
def Sys2Proof.bundleArrives : Prop :=
  ∀ (s : State) (d k c no at' : Nat) (rest : List (Nat × Nat)) (b : Issued), c < 4 →
    (s.ctx d k c).inbox = (no, at') :: rest → at' ≤ s.now →
    (mayFollow s d k c no b → (s.ctx d k c).latch = [] →
      ∃ t, exec (.bundleArrival d k c) s = .next t ∧ (t.ctx d k c).nextNo = no + 1 ∧ (t.ctx d k c).inbox = rest ∧
        t.mem = s.mem ∧
        ∀ u ∈ (s.car d k).nexts k, u ≠ k → (t.ctx d u c).inbox = (s.ctx d u c).inbox ++ [(no, s.now + 1)]) ∧
    (s.bundleNo d k c no = some b → (s.ctx d k c).t.cur = none → (s.ctx d k c).t.stuck = false → (s.ctx d k c).stopIn = [] → (s.ctx d k c).rld = [] →
      (s.ctx d k c).hold = [] → (s.ctx d k c).latch ≠ [] →
      ∃ t, exec (.bundleArrival d k c) s = .next t ∧ OnlyCtx s t d k c ∧
        t.ctx d k c = { s.ctx d k c with inbox := rest, latch := (s.ctx d k c).latch ++ [(no, s.now)] })

/-- R252, R420: the head of a latch runs once nothing holds it, a cycle after it entered at the earliest; a trapped tile runs no
bundle of its latch. -/
def Sys2Proof.latchReleases : Prop :=
  ∀ (s : State) (d k c no at' : Nat) (rest : List (Nat × Nat)) (b : Issued), c < 4 →
    (s.ctx d k c).latch = (no, at') :: rest →
    (at' < s.now → mayFollow s d k c no b →
      ∃ t, exec (.latchRelease d k c) s = .next t ∧ (t.ctx d k c).nextNo = no + 1 ∧ (t.ctx d k c).latch = rest ∧
        t.mem = s.mem ∧
        ∀ u ∈ (s.car d k).nexts k, u ≠ k → (t.ctx d u c).inbox = (s.ctx d u c).inbox ++ [(no, s.now + 1)]) ∧
    (∀ r, (s.ctx d k c).t.cur = some r → r.info.kind ≤ 1 →
      ∃ t, exec (.latchRelease d k c) s = .next t ∧ OnlyCtx s t d k c ∧ t.ctx d k c = { s.ctx d k c with latch := [] })

/-- R253: a latch of 12 bundles or more stops the tile upstream, and one of fewer lets it go on. -/
def Sys2Proof.latchStops : Prop :=
  ∀ (s : State) (d k c : Nat), s.leadTileOf d k ≠ k →
    let u := (s.car d k).prev k
    let x := s.ctx d k c
    (12 ≤ x.latch.length → x.stopOut = false → ∃ t, exec (.stopSignal d k c) s = .next t ∧
      (t.ctx d k c).stopOut = true ∧ k ∈ (t.ctx d u c).stopIn ∧ t = { s with ctxs := t.ctxs }) ∧
    (x.latch.length < 12 → x.stopOut = true → ∃ t, exec (.stopSignal d k c) s = .next t ∧
      (t.ctx d k c).stopOut = false ∧ k ∉ (t.ctx d u c).stopIn ∧ t = { s with ctxs := t.ctxs })

/-- R42, R50: the lead's one prefetch engine takes at most one line in a cycle: where it has taken none, the line that is due of the
current half of a loop buffer, or else of its spare half, and whose translation is at hand, joins the segment being fetched; one
that cannot be fetched poisons it. -/
def Sys2Proof.lineReturns : Prop :=
  ∀ (s : State) (d l c : Nat),
    let y := (s.ctx d l c).lead
    ((s.tile d l).fetchAt = s.now + 1 → exec (.fetchLineReturn d l c) s = .next s) ∧
    ∀ (cur : Bool) (s' : State) (r : Except FetchFail (List Syl)),
      let half (z : Lead) : Half := if cur = true then z.cur else z.spare
      let a := (half y).addr + 4 * (half y).syls.length
      (s.tile d l).fetchAt ≠ s.now + 1 → (cur = true ∨ y.cur.lineDue s.now = false) → (half y).lineDue s.now = true →
      s.streamHas (s.who d l c) 0 a = true → s.fetchLine d (s.asidAtTile d l) a = (s', r) →
      ∃ t, exec (.fetchLineReturn d l c) s = .next t ∧ t.mem = s'.mem ∧ (t.tile d l).fetchAt = s.now + 1 ∧
        match r with
        | .ok ws => (half (t.ctx d l c).lead).syls = (half y).syls ++ ws ∧
            (half (t.ctx d l c).lead).fail = (half y).fail
        | .error f => (half (t.ctx d l c).lead).syls = (half y).syls ∧ (half (t.ctx d l c).lead).fail = some f ∧
            (half (t.ctx d l c).lead).next = none

/-- R23, R42, R50, R250 to R253: issue, and bundles on their way. That the prefetch engine expands one line a cycle, of a
context its current half before its spare one, is the model's choice (log 84). -/
def Obligations.IssueAndFollowers : Prop :=
  leadIssuesIdle ∧ noLeadNoIssue ∧ bundleArrives ∧ latchReleases ∧ latchStops ∧ lineReturns

/-- R52, R302: where no slot of a tile still has rows to read, landing shows in nothing that is read from then on: registers, flags
and scratchpad bytes read as they would have read; and no scratchpad write whose cycle has come stays pending. -/
def Sys2Proof.landingShowsNothing : Prop :=
  ∀ (s : State) (d k : Nat), (∀ p ∈ (s.tile d k).pend, p.ctx < 16) →
    (∀ o ∈ s.lates, o.focus.die ≠ d ∨ o.focus.tile ≠ k) → (∀ u ∈ (s.tile d k).undo, u.1 ≤ s.clock d k) →
    ∃ t, exec (.resultLanding d k) s = .next t ∧
      (∀ p ∈ (t.tile d k).pend, s.clock d k < p.tick (s.tile d k).lag) ∧
      (∀ cyc x n, s.clock d k ≤ cyc → t.padBytes d k cyc x n = s.padBytes d k cyc x n) ∧
      ∀ c u n, s.clock d k ≤ u →
        (t.ctx d k c).r.readS u n = (s.ctx d k c).r.readS u n ∧ (t.ctx d k c).r.readP u n = (s.ctx d k c).r.readP u n ∧
        (t.ctx d k c).r.readK u n = (s.ctx d k c).r.readK u n ∧ (t.ctx d k c).r.readQ u n = (s.ctx d k c).r.readQ u n ∧
        (t.ctx d k c).r.readO u n = (s.ctx d k c).r.readO u n ∧ (t.ctx d k c).r.readFsr u = (s.ctx d k c).r.readFsr u

/-- R340, R452: the rows that have crossed to a tile from a direction enter its FIFO in their order; the other FIFOs stay. Where
rows have come, the retries in a row of their link are over. -/
def Sys2Proof.rowsArrive : Prop :=
  ∀ (s : State) (d k dir : Nat), ∃ t, exec (.fifoRowArrival d k dir) s = .next t ∧
    let x := s.tile d k
    let came := x.fifoIn.any fun r => r.dir == dir && decide (r.cycle ≤ s.now)
    let link := 64 + 4 * (512 * d + k) + dir
    t = { s with tiles := t.tiles, coll := t.coll } ∧ (∀ n, n ≠ tileKey d k → t.tiles.get n = s.tiles.get n) ∧
    t.coll = { s.coll with linkRetry := t.coll.linkRetry } ∧
    (∀ n, t.coll.linkRetry.get n = if came ∧ n = link then 0 else s.coll.linkRetry.get n) ∧
    (t.tile d k).fifo.get dir = x.fifo.get dir ++
      (x.fifoIn.filter fun r => r.dir == dir && decide (r.cycle ≤ s.now)).map (fun r => (r.ctx, r.row)) ∧
    (∀ n, n ≠ dir → (t.tile d k).fifo.get n = x.fifo.get n) ∧
    (t.tile d k).fifoIn = x.fifoIn.filter fun r => !(r.dir == dir && decide (r.cycle ≤ s.now))

/-- R256: released granules whose 32 cycles have passed are free. -/
def Sys2Proof.granulesFree : Prop :=
  ∀ (s : State) (d k : Nat), ∃ t, exec (.granuleRelease d k) s = .next t ∧ OnlyTile s t d k ∧
    t.tile d k = { s.tile d k with granDue := (s.tile d k).granDue.filter fun e => s.now < e.2 }

/-- R336: the semaphore operations of a cycle are applied, a set before the increments, modulo 2^32; none is left. -/
def Sys2Proof.semaphoresSettle : Prop :=
  ∀ (s : State) (d k : Nat), (∀ o ∈ (s.tile d k).semQ, o.cycle ≤ s.now) →
    ∃ t, exec (.semaphoreCycle d k) s = .next t ∧ OnlyTile s t d k ∧ (t.tile d k).semQ = [] ∧
      ∀ n, let ops := (s.tile d k).semQ.filter fun o => o.sem == n
        let sum := ((ops.filter fun o => o.set.isNone).map (·.val)).sum
        (ops.filter (fun o => o.set.isSome) = [] →
          (t.tile d k).sems.get n = BitVec.ofNat 32 (((s.tile d k).sems.get n).toNat + sum)) ∧
        ∀ o, ops.filter (fun o => o.set.isSome) = [o] → (t.tile d k).sems.get n = BitVec.ofNat 32 (o.val + sum)

/-- R266, R267: in the cycle in which every participant of a barrier has arrived in the phase of its tile, at every tile with the
same descriptor, every participating tile learns when it will see the completion: after the last arrival and within the delay of
the scope; in that cycle the phase ends there, whatever the others have done since. Until then, and while a participant is
missing, nothing happens. -/
def Sys2Proof.barrierCompletes : Prop :=
  ∀ (s : State) (d k b last : Nat) (v : DWord),
    let x := (s.tile d k).bars.get b
    let tiles := s.barTiles d k v
    let bound (u : Nat) := if barScope v = 0 then 1 else if barScope v = 1 then 2 * ((s.car d u).h + (s.car d u).w) else 96
    let bar (u : Nat) := (s.tile d u).bars.get b
    let becomes (t : State) (y : Bar) : Prop := OnlyTile s t d k ∧ (t.tile d k).bars.get b = y ∧
      ∀ n, n ≠ b → (t.tile d k).bars.get n = (s.tile d k).bars.get n
    x.cfg = some v →
    (x.shows = none → last ≤ s.now →
      (∀ u ∈ tiles, u < 512 ∧ 0 < bound u ∧ (bar u).cfg = some v ∧ (bar u).shows = none ∧
        ∀ c, c < 4 → (barCtxm v).testBit c = true → ∃ a, a ≤ last ∧ (bar u).arr.find? c = some ((bar u).phase + 1, a)) →
      ∃ t, exec (.barrierComplete d k b) s = .next t ∧ t = { s with tiles := t.tiles } ∧
        (∀ n, (∀ u ∈ tiles, n ≠ tileKey d u) → t.tiles.get n = s.tiles.get n) ∧
        ∀ u ∈ tiles, ∃ n, t.tile d u = { s.tile d u with bars := (t.tile d u).bars } ∧
          (t.tile d u).bars.get b = { bar u with shows := some n } ∧
          (∀ m, m ≠ b → (t.tile d u).bars.get m = (s.tile d u).bars.get m) ∧ n ≤ last + bound u ∧
          ∀ w ∈ tiles, ∀ c, c < 4 → (barCtxm v).testBit c = true →
            ∀ p a, (bar w).arr.find? c = some (p, a) → a < n) ∧
    (∀ n, x.shows = some n →
      (n ≤ s.now → ∃ t, exec (.barrierComplete d k b) s = .next t ∧
        becomes t { x with phase := x.phase + 1, shows := none }) ∧
      (s.now < n → exec (.barrierComplete d k b) s = .next s)) ∧
    (x.shows = none → ∀ u ∈ tiles, ∀ c, c < 4 → (barCtxm v).testBit c = true →
      (bar u).arr.find? c = none → exec (.barrierComplete d k b) s = .next s)

/-- R262: while the matrix engine could start a command, a lease that no context holds goes to the first context that has asked,
in turn after the last holder; a holder whose turn is over passes it to another that has asked. -/
def Sys2Proof.leaseGoesRound : Prop :=
  ∀ (s : State) (d k i : Nat), (s.tile d k).runs = [] → s.replaying d k = false → s.recording d = false →
    let n := (s.car d k).nctx
    let ask (c : Nat) : Prop := (s.ctx d k c).lease = 1
    0 < n → n ≤ 4 → i < n →
    ((s.tile d k).holder = none →
      let first := ((s.tile d k).lastHolder.getD (n - 1)) + 1
      ask ((first + i) % n) → (∀ j, j < i → ¬ ask ((first + j) % n)) →
      ∃ t, exec (.leaseDecision d k) s = .next t ∧ (t.tile d k).holder = some ((first + i) % n) ∧
        (t.ctx d k ((first + i) % n)).lease = 2 ∧ (t.tile d k).started = 0 ∧ t.mem = s.mem) ∧
    (∀ h, (s.tile d k).holder = some h → h < n → (s.ctx d k h).lease = 2 → (s.car d k).lease ≤ (s.tile d k).started →
      ask ((h + 1 + i) % n) → (∀ j, j < i → ¬ ask ((h + 1 + j) % n)) →
      ∃ t, exec (.leaseDecision d k) s = .next t ∧ (t.tile d k).holder = some ((h + 1 + i) % n) ∧
        (t.ctx d k ((h + 1 + i) % n)).lease = 2 ∧ (t.ctx d k h).lease = 1)

/-- R52, R256, R262, R266, R302, R336, R340: what lands and what is decided in a cycle of a tile. -/
def Obligations.CyclesOfATile : Prop :=
  landingShowsNothing ∧ rowsArrive ∧ granulesFree ∧ semaphoresSettle ∧ barrierCompletes ∧ leaseGoesRound

/-! ## The engines (R221 to R239, R308 to R320, R345 to R351) -/

/-- A command that an engine may start: the first of its engine in the queue of a context that may start it, its header two
cycles old (R221, R226, R313). -/
def Sys2Proof.startable (s : State) (d k c : Nat) (cmd : Cmd) : Prop :=
  (s.ctx d k c).e.head? cmd.eng = some cmd ∧ (s.ctx d k c).mayGo cmd = true ∧ cmd.at' + 2 ≤ s.clock d k

/-- A run that has ended takes its effects, leaves the tile, and sets its tag once no other command names it (R314). -/
def Sys2Proof.tagAfter (s t : State) (d k : Nat) (g : Option Nat) : Prop :=
  match g with
  | none => (t.tile d k).tags = (s.tile d k).tags
  | some n => (t.tile d k).out.get n = (s.tile d k).out.get n - 1 ∧
      (t.tile d k).tags = if (s.tile d k).out.get n ≤ 1 then (s.tile d k).tags ||| BitVec.ofNat 64 (2 ^ n)
        else (s.tile d k).tags

/-- R221, R223: the mzero at the head of the lease holder's queue starts, where no other command runs: it leaves the queue, its
staging set is free again, and it will be done two cycles later. -/
def Sys2Proof.matrixStarts : Prop :=
  ∀ (s : State) (d k h : Nat) (cmd : Cmd) (f : MzeroF), h < 4 → cmd.eng = 0 → cmd.instr = .mzero f →
    (s.tile d k).holder = some h → (s.ctx d k h).lease = 2 → (s.tile d k).runs = [] → (s.tile d k).miss = none →
    (s.ctx d k h).hold = [] → startable s d k h cmd → s.replaying d k = false →
    ∃ t r, exec (.matrixCommandStart d k) s = .next t ∧ (t.tile d k).runs = [r] ∧ r.cmd = cmd ∧ r.ctx = h ∧
      r.start = s.clock d k ∧ r.busy = s.clock d k + 1 ∧ r.done = s.clock d k + 2 ∧
      (t.ctx d k h).e.queue = dropHead 0 (s.ctx d k h).e.queue ∧
      (t.ctx d k h).e.busy = (s.ctx d k h).e.busy &&& ~~~(setBit 0 cmd.set) ∧
      (t.tile d k).started = (s.tile d k).started + 1 ∧ t.mem = s.mem

/-- Width in bits of an element of an mma operand, products along k per cycle, and step unit, by FMT (R205). -/
def Sys2Proof.mmaShape (fmt : Nat) : Nat × Nat × Nat :=
  ([(8, 16, 16), (4, 64, 32), (6, 28, 32), (8, 16, 32), (8, 28, 28), (16, 5, 5)] : List (Nat × Nat × Nat)).getD fmt
    (32, 1, 1)
/-- Bytes of an element of an mdrain output, by OFMT (R218). -/
def Sys2Proof.drainWidth (f : MdrainF) : Nat := ([4, 8, 1, 1, 1, 2, 4, 4, 2, 2] : List Nat).getD f.ofmt.toNat 2
/-- Bytes of a memory row of mload and mstore, by XF (R216). -/
def Sys2Proof.blockRow (f : MlsF) : Nat := ([64, 128, 1024] : List Nat).getD f.xf.toNat 0
/-- The runs of bytes that a matrix command reads or writes outside the accumulator memory (R211, R216, R219, R220). -/
def Sys2Proof.operandRows (cmd : Cmd) : List (Nat × Nat) :=
  let l (n : Nat) : DWord := cmd.stg.getD n 0
  let rows (base str n : Nat) : List (Nat × Nat) := (upFrom 0 16).map fun i => (base + i * str, n)
  match cmd.instr with
  | .mma f =>
    let n := (fld (l 3) 20 0 * (mmaShape f.fmt.toNat).1 + 7) / 8
    rows (fld (l 0) 56 0) (fld (l 2) 31 0) n ++ rows (fld (l 1) 56 0) (fld (l 2) 63 32) n
  | .mload f => rows (fld (l 0) 56 0) (fld (l 2) 31 0) (blockRow f)
  | .mstore f => rows (fld (l 0) 56 0) (fld (l 2) 31 0) (blockRow f)
  | .mdrain f =>
    rows (fld (l 0) 56 0) (fld (l 2) 31 0) (16 * drainWidth f) ++ (if f.zc = true then [(fld (l 6) 56 0, 64)] else [])
      ++ if f.ofmt = 2 ∨ f.ofmt = 3 then [(fld (l 7) 56 0, 128)] else []
  | _ => []
/-- No soft error and no poison lies anywhere, and no write in flight to a tile's scratchpad has met an error (R447, R449). -/
def Sys2Proof.sound (s : State) (d k : Nat) : Prop :=
  s.upsets = [] ∧ s.poison = [] ∧ ∀ p ∈ (s.tile d k).pend, p.bad = false

/-- R221, R223: an mma, mload, mstore or mdrain at the head of the lease holder's queue, its operands in the own scratchpad,
starts where no other command runs: an mma of K positions is busy for ⌈K ÷ G⌉ cycles and has landed 16 later; mload is busy
for 16 and lands after 32, mdrain and mstore after 40; it has ⌈K ÷ U⌉ units of progress to go, or the 16 rows; VALID is
clear. That PROG is 0 then, and that what R223 gives as earliest times in free mode is exact, are the model's choices
(logs 106, 16). -/
def Sys2Proof.matrixBegins : Prop :=
  ∀ (s : State) (d k h : Nat) (cmd : Cmd), h < 4 → cmd.eng = 0 →
    (s.tile d k).holder = some h → (s.ctx d k h).lease = 2 → (s.tile d k).runs = [] → (s.tile d k).miss = none →
    (s.ctx d k h).hold = [] → startable s d k h cmd → s.replaying d k = false → cmd.prog = 0 → sound s d k →
    (∀ e ∈ operandRows cmd, e.1 + e.2 ≤ 0x60000) →
    let now := s.clock d k
    let starts (busy done units : Nat) : Prop := ∃ t r, exec (.matrixCommandStart d k) s = .next t ∧
      (t.tile d k).runs = [r] ∧ r.cmd = cmd ∧ r.ctx = h ∧ r.start = now ∧ r.busy = now + busy ∧ r.done = now + done ∧
      r.prog = units ∧ r.fresh = true ∧ r.eff = [] ∧ r.trap = none ∧
      (t.ctx d k h).e.queue = dropHead 0 (s.ctx d k h).e.queue ∧
      (t.ctx d k h).e.busy = (s.ctx d k h).e.busy &&& ~~~(setBit 0 cmd.set) ∧
      (t.ctx d k h).e.mvalid = false ∧ (t.ctx d k h).e.mprog = 0 ∧
      (t.tile d k).started = (s.tile d k).started + 1 ∧ t.mem = s.mem
    let K := fld (cmd.stg.getD 3 0) 20 0
    (∀ f, cmd.instr = .mma f →
      let sh := mmaShape f.fmt.toNat
      let n := (K + sh.2.1 - 1) / sh.2.1
      starts n (n + 16) ((K + sh.2.2 - 1) / sh.2.2)) ∧
    (∀ f : MlsF, f.xf.toNat ≤ 2 → (cmd.instr = .mload f → starts 16 32 16) ∧ (cmd.instr = .mstore f → starts 16 40 16)) ∧
    ∀ f : MdrainF, f.ofmt.toNat ≤ 9 → cmd.instr = .mdrain f → starts 16 40 16

/-- A started matrix command may read its operands: it is alone at its tile, nothing keeps it waiting or starts beside it, and
what it reads is sound and lies in the own scratchpad. -/
def Sys2Proof.mayRead (s : State) (d k : Nat) (r : Run) : Prop :=
  (s.tile d k).runs = [r] ∧ r.cmd.eng = 0 ∧ r.start + 1 ≤ s.clock d k ∧ r.cmd.prog = 0 ∧ r.trap = none ∧
  ((s.tile d k).holder = none ∨ s.clock d k < r.busy) ∧ (s.tile d k).miss = none ∧ (s.ctx d k r.ctx).hold = [] ∧
  sound s d k ∧ ∀ e ∈ operandRows r.cmd, e.1 + e.2 ≤ 0x60000
/-- It reads, and its effects are settled; none of them is there yet. -/
def Sys2Proof.settles (s : State) (d k : Nat) (r : Run) (E : List Eff) : Prop :=
  ∃ t, exec (.matrixCommandStart d k) s = .next t ∧ (t.tile d k).runs = [{ r with fresh := false, eff := E }] ∧
    t.mem = s.mem
/-- Bytes of the own scratchpad once every write of this cycle has performed (R303). -/
def Sys2Proof.seen (s : State) (d k a n : Nat) : List Byte := s.padBytes d k (s.clock d k) a n
/-- Element p of row i of an mma operand: the rows are packed runs of K elements, a stride apart (R136, R211). -/
def Sys2Proof.mmaElem (s : State) (d k bits K base str i p : Nat) : Nat :=
  leNat (seen s d k (base + i * str) ((K * bits + 7) / 8)) / 2 ^ (bits * p) % 2 ^ bits
/-- The elements (i, j) of an accumulator block, in the order of its bytes (R206). -/
def Sys2Proof.cells : List (Nat × Nat) := (upFrom 0 16).flatMap fun i => (upFrom 0 16).map fun j => (i, j)
/-- Accumulate (R212), with whether a clamp has changed the value. -/
def Sys2Proof.accStep (mode : Nat) (c : Int × Bool) (x : Int) : Int × Bool :=
  let y := c.1 + x
  let top : Int := if mode = 1 then 2 ^ 31 else 2 ^ 63
  if mode = 0 then ((y + 2 ^ 31) % 2 ^ 32 - 2 ^ 31, c.2)
  else if y < -top then (-top, true)
  else if top - 1 < y then (top - 1, true)
  else (y, c.2)

/-- R211, R212, R214: what an mma adds to its block. An integer one adds, step of 16 positions by step, the exact sum of the
products, and accumulates it by MODE, where a clamp sets MSAT and ST; with RS the row sums of A are added to MRS. A tapered
one adds every exact product to the quire, in ascending k: that order, of no consequence for a quire that stays in range, is
the model's choice (log 101), as is the cycle of the reads (log 7). With ZI the block starts from zero. -/
def Sys2Proof.mmaReads : Prop :=
  ∀ (s : State) (d k : Nat) (r : Run) (f : MmaF), r.cmd.instr = .mma f → mayRead s d k r → r.fresh = true →
    let l (n : Nat) : DWord := r.cmd.stg.getD n 0
    let K := fld (l 3) 20 0
    let sh := mmaShape f.fmt.toNat
    let A := mmaElem s d k sh.1 K (fld (l 0) 56 0) (fld (l 2) 31 0)
    let B := mmaElem s d k sh.1 K (fld (l 1) 56 0) (fld (l 2) 63 32)
    let acc := fld (l 4) 13 8
    0 < K → r.prog = (K + sh.2.2 - 1) / sh.2.2 →
    (f.fmt.toNat = 0 →
      let int (sg : Bool) (x : Nat) : Int := if sg = true ∧ 128 ≤ x then (x : Int) - 256 else x
      let old (i j : Nat) : Int :=
        if f.zi = true then 0 else (bytesD (s.load (accKey d k (acc * 2048 + 8 * (16 * i + j))) 8)).toInt
      let step (i j g : Nat) : Int :=
        ((upFrom (16 * g) (min 16 (K - 16 * g))).map fun p => int f.asg (A i p) * int f.bsg (B j p)).sum
      let c (e : Nat × Nat) : Int × Bool :=
        (upFrom 0 r.prog).foldl (fun a g => accStep f.mode.toNat a (step e.1 e.2 g)) (old e.1 e.2, false)
      let sums : List DWord := (upFrom 0 16).map fun i =>
        (s.ctx d k r.ctx).e.mrs.get i + BitVec.ofInt 64 ((upFrom 0 K).map fun p => int f.asg (A i p)).sum
      settles s d k r (.acc (acc * 2048) (cells.flatMap fun e => leBytes 8 ((c e).1 % 2 ^ 64).toNat)
        :: ((if cells.any fun e => (c e).2 then [.msat true, .flags fST] else [])
          ++ if f.rs = true then [.mrs sums] else []))) ∧
    (4 ≤ f.fmt.toNat →
      let old (i j : Nat) : Row :=
        if f.zi = true then 0 else bytesRow (s.load (accKey d k (acc * 2048 + 64 * (16 * i + j))) 64)
      let c (e : Nat × Nat) : Row × Flags := quireSum false (old e.1 e.2) ((upFrom 0 K).map fun p =>
        tapProd (decT sh.1 (fld (l 4) 1 0) (A e.1 p)) (decT sh.1 (fld (l 4) 3 2) (B e.2 p)))
      settles s d k r [.acc (acc * 2048) (cells.flatMap fun e => rowBytes (c e).1),
        .flags (orFlags (cells.map fun e => (c e).2))])

/-- R213, R214, R236: the first step of an MXINT mma, with an entry at the head of each scale queue, adds to each element of the
block the exact sum of 32 products times the two scales, rounded to a multiple of 2^−240 to nearest, or NaN where a scale is
0xFF; the two entries are popped, the flags follow as the command completes. The step's cycle is the model's choice
(log 102). -/
def Sys2Proof.mxSteps : Prop :=
  ∀ (s : State) (d k : Nat) (r : Run) (f : MmaF) (xa xb : BitVec 128) (la lb : List (BitVec 128)),
    r.cmd.instr = .mma f → mayRead s d k r → r.fresh = false →
    f.fmt.toNat = 1 ∨ f.fmt.toNat = 2 ∨ f.fmt.toNat = 3 →
    (s.tile d k).bufs = [] → r.rows = [] → r.bound = [] → 0 < r.prog →
    (s.ctx d k r.ctx).e.sqA = xa :: la → (s.ctx d k r.ctx).e.sqB = xb :: lb →
    let l (n : Nat) : DWord := r.cmd.stg.getD n 0
    let K := fld (l 3) 20 0
    let sh := mmaShape f.fmt.toNat
    r.prog = 1 ∨ s.clock d k < r.start + 1 + 32 / sh.2.1 →
    let A := mmaElem s d k sh.1 K (fld (l 0) 56 0) (fld (l 2) 31 0)
    let B := mmaElem s d k sh.1 K (fld (l 1) 56 0) (fld (l 2) 63 32)
    let acc := fld (l 4) 13 8
    let int (x : Nat) : Int := (BitVec.ofNat sh.1 x).toInt
    let scale (x : BitVec 128) (i : Nat) : Nat := x.toNat / 2 ^ (8 * i) % 256
    let old (i j : Nat) : Row :=
      if f.zi = true then 0 else bytesRow (s.load (accKey d k (acc * 2048 + 64 * (16 * i + j))) 64)
    let c (e : Nat × Nat) : Row × Flags :=
      let q := old e.1 e.2
      let x : Int := ((upFrom 0 (min 32 K)).map fun p => int (A e.1 p) * int (B e.2 p)).sum
      let sh' : Int := 14 + 2 * ((sh.1 : Int) - 2) - scale xa e.1 - scale xb e.2
      let m := nearest 0 (decide (x < 0)) x.natAbs sh'
      let u := exactAdd q (if x < 0 then -(m : Int) else m)
      if scale xa e.1 = 255 ∨ scale xb e.2 = 255 then
        (BitVec.ofNat 512 (2 ^ 511), if q = BitVec.ofNat 512 (2 ^ 511) then 0 else fNV)
      else (u.1, u.2 ||| if 0 < sh' ∧ x.natAbs % 2 ^ sh'.toNat ≠ 0 then fNX ||| fUF else 0)
    ∃ t r', exec (.matrixCommandStart d k) s = .next t ∧ (t.tile d k).runs = [r'] ∧
      r'.cmd = { r.cmd with prog := 1 } ∧ r'.prog = r.prog ∧ r'.trap = none ∧ r'.busy = r.busy ∧
      r'.done = max r.done (s.clock d k + 16) ∧ r'.eff = r.eff ++ [.flags (orFlags (cells.map fun e => (c e).2))] ∧
      MemBecomes s t (accKey d k (acc * 2048)) (cells.flatMap fun e => rowBytes (c e).1) ∧
      (t.ctx d k r.ctx).e.sqA = la ∧ (t.ctx d k r.ctx).e.sqB = lb

/-- The bytes that effects write to the own scratchpad, in order. -/
def Sys2Proof.ownWrites (E : List Eff) : List (Nat × Byte) :=
  E.flatMap fun e => match e with
    | .own a bs => atAddr a bs
    | _ => []
/-- The accumulator writes and the flags of effects, in order. -/
def Sys2Proof.accWrites (E : List Eff) : List (Nat × List Byte) :=
  E.filterMap fun e => match e with
    | .acc off bs => some (off, bs)
    | _ => none
/-- The flags of effects, in order. -/
def Sys2Proof.flagsOf (E : List Eff) : List Flags :=
  E.filterMap fun e => match e with
    | .flags x => some x
    | _ => none
/-- An effect of a matrix command whose operands lie in the own scratchpad. -/
def Sys2Proof.homeEff : Eff → Bool
  | .own _ _ | .acc _ _ | .flags _ | .mrs _ | .msat _ => true
  | _ => false

/-- R216: mload brings each memory row into its row of the block, S32 elements sign-extended; mstore takes each row of the
block to its memory row. The cycle of the reads is the model's choice (log 7). -/
def Sys2Proof.blockMoves : Prop :=
  ∀ (s : State) (d k : Nat) (r : Run) (f : MlsF), mayRead s d k r → r.fresh = true → r.prog = 16 →
    let l (n : Nat) : DWord := r.cmd.stg.getD n 0
    let acc := fld (l 4) 13 8
    let at' (i : Nat) : Nat := fld (l 0) 56 0 + i * fld (l 2) 31 0
    let row (i : Nat) : Nat := acc * 2048 + (if f.xf = 2 then 1024 else 128) * i
    (r.cmd.instr = .mload f → f.xf.toNat ≤ 2 →
      settles s d k r ((upFrom 0 16).map fun i => .acc (row i) (if f.xf = 0 then
          (upFrom 0 16).flatMap fun j =>
            leBytes 8 ((BitVec.ofNat 32 (leNat (seen s d k (at' i + 4 * j) 4))).signExtend 64).toNat
        else seen s d k (at' i) (blockRow f)))) ∧
    (r.cmd.instr = .mstore f → f.xf.toNat = 1 ∨ f.xf.toNat = 2 →
      ∃ E, settles s d k r E ∧ (∀ e ∈ E, ∃ a bs, e = .own a bs) ∧
        ownWrites E = (upFrom 0 16).flatMap fun i => atAddr (at' i) (s.load (accKey d k (row i)) (blockRow f)))

/-- R219: an exact integer into a range, with ST where the clamp changes it. -/
def Sys2Proof.clampTo (lo hi x : Int) : Int × Flags := if x < lo then (lo, fST) else if hi < x then (hi, fST) else (x, 0)

/-- R219, R220: what mdrain writes: row i holds 16 outputs, of an I-block the elements, with ZC corrected, clamped, shifted
with rounding and clamped, or rounded; of a Q-block the quires rounded; it sets their flags and with CLR zeroes the row. A
table with SH above 62 ends the command before any output. The cycle of the reads is the model's choice (log 7). -/
def Sys2Proof.drainReads : Prop :=
  ∀ (s : State) (d k : Nat) (r : Run) (f : MdrainF), r.cmd.instr = .mdrain f → f.ofmt.toNat ≤ 9 → mayRead s d k r →
    r.fresh = true → r.prog = 16 → (f.qs = true → 4 ≤ f.ofmt.toNat) →
    let l (n : Nat) : DWord := r.cmd.stg.getD n 0
    let acc := fld (l 4) 13 8
    let s32 (x : Nat) : Int := (BitVec.ofNat 32 x).toInt
    let table (j n : Nat) : Nat := leNat (seen s d k (fld (l 7) 56 0 + 8 * j + (if n = 1 then 4 else 0)) n)
    let requants : Prop := f.ofmt.toNat = 2 ∨ f.ofmt.toNat = 3
    let w := drainWidth f
    let fmt : Fmt := ([.t 8 (fld (l 4) 5 4), .t 16 (fld (l 4) 5 4), .t 32 (fld (l 4) 5 4), .f ff32, .f ff16, .f ffB16] :
      List Fmt).getD (f.ofmt.toNat - 4) (.f ff32)
    let v (i j : Nat) : Int :=
      let c := (bytesD (s.load (accKey d k (acc * 2048 + 8 * (16 * i + j))) 8)).toInt
      let za := s32 (fld (l 5) 31 0)
      let zb := s32 (fld (l 5) 63 32)
      if f.zc = true then c - zb * ((s.ctx d k r.ctx).e.mrs.get i).toInt
        - za * s32 (leNat (seen s d k (fld (l 6) 56 0 + 4 * j) 4)) + (fld (l 3) 20 0 : Int) * za * zb
      else c
    let code (x : Int × Flags) : Nat × Flags := ((x.1 % 2 ^ (8 * w)).toNat, x.2)
    let out (i j : Nat) : Nat × Flags :=
      if f.qs = true then
        quireRound fmt f.rm.toNat (bytesRow (s.load (accKey d k (acc * 2048 + 64 * (16 * i + j))) 64))
      else match f.ofmt.toNat with
        | 0 => code (clampTo (-(2 ^ 31)) (2 ^ 31 - 1) (v i j))
        | 1 => code (clampTo (-(2 ^ 63)) (2 ^ 63 - 1) (v i j))
        | 2 | 3 =>
          let p := v i j * s32 (table j 4)
          let n := 31 + table j 1
          let m := nearest 0 (decide (p < 0)) p.natAbs n
          let zo : Int := if f.ofmt.toNat = 2 then (BitVec.ofNat 8 (fld (l 8) 7 0)).toInt else fld (l 8) 7 0
          let u := clampTo (if f.ofmt.toNat = 2 then -128 else 0) (if f.ofmt.toNat = 2 then 127 else 255)
            ((if p < 0 then -(m : Int) else m) + zo)
          code (u.1, u.2 ||| if p.natAbs % 2 ^ n ≠ 0 then fNX else 0)
        | _ => fmt.round f.rm.toNat ⟨decide (v i j < 0), (v i j).natAbs, 0, false⟩
    (requants → (∃ j, j < 16 ∧ 62 < table j 1) →
      ∃ t, exec (.matrixCommandStart d k) s = .next t ∧ t.mem = s.mem ∧
        (t.tile d k).runs = [{ r with fresh := false, prog := 0, trap := some (r.cmd.trapC 0x0B), eff := [] }]) ∧
    ((requants → ∀ j, j < 16 → table j 1 ≤ 62) →
      ∃ E, settles s d k r E ∧ (∀ e ∈ E, (∃ a bs, e = .own a bs) ∨ (∃ x, e = .flags x) ∨ ∃ a bs, e = .acc a bs) ∧
        ownWrites E = ((upFrom 0 16).flatMap fun i => atAddr (fld (l 0) 56 0 + i * fld (l 2) 31 0)
          ((upFrom 0 16).flatMap fun j => leBytes w (out i j).1)) ∧
        flagsOf E = ((upFrom 0 16).map fun i => orFlags ((upFrom 0 16).map fun j => (out i j).2)) ∧
        accWrites E = if f.clr = true then (upFrom 0 16).map fun i =>
            (acc * 2048 + (if f.qs = true then 1024 else 128) * i, List.replicate (if f.qs = true then 1024 else 128) 0)
          else [])

/-- R223, R314: a matrix command whose cycle has come ends, unless a read is bound to a half of a buffer that it would reach:
its bytes are written, in order, its flags land, MRS and MSAT change, and its tag is set. Before that cycle nothing
happens. -/
def Sys2Proof.matrixCompletes : Prop :=
  ∀ (s : State) (d k : Nat) (r : Run),
    (s.tile d k).runs = [r] → r.cmd.eng = 0 → r.steps = false → r.fresh = false → r.trap = none →
    (r.eff.all homeEff = true → s.effHeld d k r.eff = false → r.done ≤ s.clock d k →
      ∃ t, exec (.matrixCommandComplete d k) s = .next t ∧ (t.tile d k).runs = [] ∧
        t.mem = (r.eff.foldl (fun (u : State) e => match e with
          | .own a bs => u.padStore d k a bs
          | .acc off bs => u.store (accKey d k off) bs
          | _ => u) s).mem ∧
        tagAfter s t d k (cmdTag r.cmd.instr) ∧
        (t.ctx d k r.ctx).r.fW = (s.ctx d k r.ctx).r.fW ++ (flagsOf r.eff).map (fun f => ⟨s.clock d k, f, 15⟩) ∧
        (t.ctx d k r.ctx).e.msat = r.eff.foldl (fun b e => match e with
          | .msat x => x
          | _ => b) (s.ctx d k r.ctx).e.msat ∧
        (∀ i, (t.ctx d k r.ctx).e.mrs.get i = r.eff.foldl (fun v e => match e with
          | .mrs l => l.getD i v
          | _ => v) ((s.ctx d k r.ctx).e.mrs.get i)) ∧
        ((s.ctx d k r.ctx).hold = [] → ∀ off bs, r.eff = [.acc off bs] →
          MemBecomes s t (accKey d k off) bs ∧ ∀ e n c, t.ctx e n c = s.ctx e n c)) ∧
    (s.clock d k < r.done → exec (.matrixCommandComplete d k) s = .next s)

/-- R211 to R225, R236, R314. -/
def Sys2Proof.matrixEngine : Prop :=
  matrixStarts ∧ matrixBegins ∧ mmaReads ∧ mxSteps ∧ blockMoves ∧ drainReads ∧ matrixCompletes

/-- R313: a row of a started copy, from the own scratchpad and with no descriptor in the way, is read in its cycle: what it will
write is what the scratchpad holds once every write of that cycle has performed. The cycle of the read, and that it stands
behind the writes of its cycle, are the model's choice (logs 93, 7). -/
def Sys2Proof.copyRowsRead : Prop :=
  ∀ (s : State) (d k : Nat) (r : Run) (f : CopyF) (j : CopyJob),
    (s.tile d k).runs = [r] → r.cmd.eng = 1 → r.cmd.instr = .copy f → f.sp = false → s.copyNext d k = none →
    r.jobs = [j] → j.data = none → r.reads = [] → (s.tile d k).bufs = [] → s.upsets = [] →
    let src := j.row.src + j.off
    0 < j.len → src % 64 + j.len ≤ 64 → src + j.len ≤ padSize → s.ownPoison d k src j.len = false →
    (j.rd ≤ s.clock d k → ∃ t, exec (.copyCommandStart d k) s = .next t ∧ t.mem = s.mem ∧
      (t.tile d k).runs =
        [{ r with jobs := [{ j with data := some (seen s d k src j.len) }] }]) ∧
    (s.clock d k < j.rd → ∃ t, exec (.copyCommandStart d k) s = .next t ∧ t.mem = s.mem ∧ (t.tile d k).runs = [r])

/-- R313, R314: the last row of a copy to the own scratchpad is written in its cycle, unless a read is bound to what it would
reach; the copy ends once its own cycle has come, and its tag is set. Before its cycle no row is written. -/
def Sys2Proof.copyCompletes : Prop :=
  ∀ (s : State) (d k : Nat) (r : Run) (f : CopyF) (j : CopyJob) (bs : List Byte),
    (s.tile d k).runs = [r] → r.cmd.eng = 1 → r.cmd.instr = .copy f → r.cmd.rsv = none → r.trap = none → r.lost = false →
    r.prog = 0 → r.eff = [] → r.jobs = [j] → j.data = some bs → bs.length = j.len → s.upsets = [] →
    let dst := j.row.dst + j.off
    0 < j.len → dst % 64 + j.len ≤ 64 → dst + j.len ≤ padSize → s.rowKept (s.who d k r.ctx) dst j.len = false →
    (j.wr ≤ s.clock d k → r.done ≤ s.clock d k →
      ∃ t, exec (.copyCommandComplete d k) s = .next t ∧ (t.tile d k).runs = [] ∧
        t.mem = (s.padStore d k dst bs).mem ∧ tagAfter s t d k (some f.tag.toNat) ∧
        ((s.ctx d k r.ctx).hold = [] → ∀ e n c, t.ctx e n c = s.ctx e n c)) ∧
    (j.wr ≤ s.clock d k → s.clock d k < r.done →
      ∃ t, exec (.copyCommandComplete d k) s = .next t ∧ (t.tile d k).runs = [{ r with jobs := [] }] ∧
        t.mem = (s.padStore d k dst bs).mem ∧ (t.tile d k).tags = (s.tile d k).tags) ∧
    (s.clock d k < j.wr →
      ∃ t, exec (.copyCommandComplete d k) s = .next t ∧ (t.tile d k).runs = [r] ∧ t.mem = s.mem ∧
        (t.tile d k).tags = (s.tile d k).tags)

/-- R308, R313: a copy of one row between two runs of the own scratchpad starts: it leaves the queue; destination row q, at each byte
from the source byte that it copies, will be written three cycles after the start and q more, and the tag may be set four
cycles after the start and one for each row. The cycles of the reads, and that these earliest times are exact in free mode, are
the model's choice (logs 93, 16). -/
def Sys2Proof.copyStarts : Prop :=
  ∀ (s : State) (d k c : Nat) (cmd : Cmd) (f : CopyF), cmd.instr = .copy f → cmd.eng = 1 → f.dim = 0 → f.sp = false →
    s.copyNext d k = some (c, cmd) → s.upsets = [] →
    let src := (cmd.stg.getD 0 0).toNat
    let dst := (cmd.stg.getD 1 0).toNat
    let n := fld (cmd.stg.getD 2 0) 31 0
    let now := s.clock d k
    0 < n → src + n ≤ padSize → dst + n ≤ padSize → (src + n ≤ dst ∨ dst + n ≤ src) →
    s.ownPoison d k src n = false → (s.tile d k).runs = [] →
    ∃ t r, exec (.copyCommandStart d k) s = .next t ∧ (t.tile d k).runs = [r] ∧ r.ctx = c ∧ r.start = now ∧ r.eff = [] ∧
      r.trap = none ∧
      (∀ q, q < r.jobs.length → (r.jobs.getD q default).data = none ∧ (r.jobs.getD q default).wr = now + 3 + q ∧
        (r.jobs.getD q default).rd < now + 3 + q) ∧
      (r.jobs.flatMap fun j => (upFrom 0 j.len).map fun i => (j.row.src + j.off + i, j.row.dst + j.off + i)) =
        (upFrom 0 n).map (fun i => (src + i, dst + i)) ∧
      r.done = now + r.jobs.length + 4 ∧ t.mem = s.mem ∧
      (t.ctx d k c).e.queue = dropHead 1 (s.ctx d k c).e.queue

/-- R319: bufset defines a descriptor as it starts, with its halves not exchanged, unless it is invalid; bufset.off disables it.
Both wait for the accesses bound to the halves of the old one and for the writes in flight to its ranges, bufset also for those
to the new one's. -/
def Sys2Proof.bufsetStarts : Prop :=
  ∀ (s : State) (d k c : Nat) (cmd : Cmd) (f : BufF), s.copyNext d k = some (c, cmd) →
    let n := f.buf.toNat
    let b : Buf := ⟨true, fld (cmd.stg.getD 10 0) 18 0, fld (cmd.stg.getD 11 0) 18 0, fld (cmd.stg.getD 12 0) 18 0, false⟩
    let old := (s.tile d k).bufs.get n
    (cmd.instr = .bufset f → s.bufKept d k n = false → s.bufBusy d k b = false →
      bufBad b n (s.tile d k).bufs = false →
      ∃ t, exec (.bufsetStart d k) s = .next t ∧ (t.tile d k).bufs.get n = b ∧
        (∀ j, j ≠ n → (t.tile d k).bufs.get j = (s.tile d k).bufs.get j) ∧ t.mem = s.mem) ∧
    (cmd.instr = .bufsetOff f → s.bufKept d k n = false →
      ∃ t, exec (.bufsetStart d k) s = .next t ∧ (t.tile d k).bufs.get n = { old with en := false } ∧
        (∀ j, j ≠ n → (t.tile d k).bufs.get j = (s.tile d k).bufs.get j) ∧ t.mem = s.mem) ∧
    (cmd.instr = .bufset f → s.bufBusy d k b = true → exec (.bufsetStart d k) s = .next s) ∧
    (old.en = true → s.bufBusy d k old = true ∨ s.boundTo d k n old.g = true → s.bufKept d k n = true) ∧
    (cmd.instr = .bufset f ∨ cmd.instr = .bufsetOff f → s.bufKept d k n = true → exec (.bufsetStart d k) s = .next s)

/-- R320: a publish that waits for nothing more exchanges the halves of its descriptor; its tag is set a cycle later. -/
def Sys2Proof.publishSwaps : Prop :=
  ∀ (s : State) (d k : Nat) (r : Run) (f : PubF), s.copyNext d k = none → (s.tile d k).runs = [r] →
    r.cmd.instr = .publish f → r.prog = 1 →
    let b := (s.tile d k).bufs.get f.buf.toNat
    (s.publishReady d k r.ctx r.cmd f = true →
      ∃ t, exec (.publishSwap d k) s = .next t ∧ OnlyTile s t d k ∧
        (t.tile d k).bufs.get f.buf.toNat = { b with g := !b.g } ∧
        (t.tile d k).runs = [{ r with prog := 0, done := s.clock d k + 1 }]) ∧
    (s.publishReady d k r.ctx r.cmd f = false → exec (.publishSwap d k) s = .next s)

/-- R308 to R320. -/
def Sys2Proof.copyEngine : Prop := copyStarts ∧ copyRowsRead ∧ copyCompletes ∧ bufsetStarts ∧ publishSwaps

/-- R226: a quant or dequant takes one cycle for 512 elements and four more, and its rows land 20 cycles later; an sqld of N
entries takes N cycles, its last entry landing three later; sqclr takes one. That these earliest times are exact in free mode is
the model's choice (log 16). -/
def Sys2Proof.quantStarts : Prop :=
  ∀ (s : State) (d k c : Nat) (cmd : Cmd), s.nextCmd d k 2 = some (c, cmd) → cmd.eng = 2 → cmd.at' + 2 ≤ s.clock d k →
    (s.tile d k).runs = [] →
    let g := qGeo cmd.stg
    let starts (busy done : Nat) (fresh : Bool) : Prop := ∃ t r, exec (.quantCommandStart d k) s = .next t ∧
      (t.tile d k).runs = [r] ∧
      r.cmd = cmd ∧ r.ctx = c ∧ r.start = s.clock d k ∧ r.busy = busy ∧ r.done = done ∧ t.mem = s.mem ∧
      r.fresh = fresh ∧ (t.ctx d k c).e.queue = dropHead 2 (s.ctx d k c).e.queue
    let busy := s.clock d k + (g.rows * g.cols + 511) / 512 + 4
    (∀ f, cmd.instr = .quant f ∨ cmd.instr = .dequant f → starts busy (busy + 20) true) ∧
    (∀ f, cmd.instr = .sqld f →
      starts (s.clock d k + f.nm1.toNat + 1) (s.clock d k + f.nm1.toNat + 4) false) ∧
    ∀ f, cmd.instr = .sqclr f → starts (s.clock d k + 1) (s.clock d k + 1) false

/-- The bit width, EMAX and format of the codes of a scaled block, by EF; the first three are MXINT (R227). -/
def Sys2Proof.blockShape (ef : Nat) : Nat × Int × Fmt :=
  ([(4, 0, .e8), (6, 0, .e8), (8, 0, .e8), (8, 15, .f ffE5M2), (8, 8, .f ffE4M3), (6, 4, .f ffE3M2), (6, 2, .f ffE2M3)] :
    List (Nat × Int × Fmt)).getD ef (4, 2, .f ffE2M1)
/-- R231: the code of a finite value in a block of scale X. -/
def Sys2Proof.blockCode (ef rm X : Nat) (v : Val) : Nat × Flags :=
  match v with
  | .fin neg m e =>
    let w := (blockShape ef).1
    let e' := e - ((X : Int) - 127)
    let sh : Int := -(e' + w - 2)
    let n := nearest rm neg m sh
    let top := 2 ^ (w - 1) - 1
    if ef < 3 then
      (((if neg then -(min n top : Int) else min n top) % 2 ^ w).toNat,
        (if 0 < sh ∧ m % 2 ^ sh.toNat ≠ 0 then fNX else 0) ||| if top < n then fST else 0)
    else (blockShape ef).2.2.round rm ⟨neg, m, e', false⟩
  | _ => (0, 0)
/-- floor(log2 |v|) of a finite value that is not zero. -/
def Sys2Proof.topOf : Val → Int
  | .fin _ m e => e + Nat.log2 m
  | _ => 0
/-- R231: a scale, 32 codes and flags are those of a block of values. -/
def Sys2Proof.isBlock (ef rm : Nat) (vs : List Val) (X : Nat) (codes : List Nat) (fl : Flags) : Prop :=
  codes.length = vs.length ∧
  ((∃ v ∈ vs, v.isNan = true ∨ v.isInf = true) → X = 0xFF ∧ (∀ c ∈ codes, c = 0) ∧ fl = fNV) ∧
  ((∀ v ∈ vs, v.isZero = true) → X = 0 ∧ (∀ c ∈ codes, c = 0) ∧ fl = 0) ∧
  ((∀ v ∈ vs, v.isNan = false ∧ v.isInf = false) →
    ∀ v ∈ vs, v.isZero = false → (∀ y ∈ vs, y.isZero = false → topOf y ≤ topOf v) →
      X = (min (max (topOf v - (blockShape ef).2.1 + 127) 0) 254).toNat ∧
      codes = vs.map (fun y => (blockCode ef rm X y).1) ∧ fl = orFlags (vs.map fun y => (blockCode ef rm X y).2))
/-- R137, R138, R227, R231: an element of a block, from its code and its scale, in a T or F format. -/
def Sys2Proof.unblock (ef rm X : Nat) (d : Fmt) (c : Nat) : Nat × Flags :=
  let w := (blockShape ef).1
  let bad : Nat × Flags := match d with
    | .t n _ => (2 ^ (n - 1), fNV)
    | .f ff => (ff.nanCode, fNV)
    | _ => (0, fNV)
  if X = 0xFF then bad
  else if ef < 3 then
    let x := (BitVec.ofNat w c).toInt
    d.round rm ⟨decide (x < 0), x.natAbs, (X : Int) - 127 - (w - 2), false⟩
  else match (blockShape ef).2.2.dec c with
    | .nan _ => bad
    | .fin neg m e => d.round rm ⟨neg, m, e + (X : Int) - 127, false⟩
    | .inf neg => match d with
      | .f ff => (ff.signBit neg + ff.infCode, 0)
      | _ => bad

/-- R228, R231: what a started quant or dequant settles in the cycle after its start, from the scratchpad as it stands behind
the writes of that cycle (the model's choice, log 7). quant: for each row its packed codes, for each block its scale.
dequant: for each row its packed elements. Both their flags. -/
def Sys2Proof.quantReads : Prop :=
  ∀ (s : State) (d k : Nat) (r : Run) (f : QuantF), f.f1.toNat < 8 → 6 ≤ f.f2.toNat → f.f2.toNat ≤ 11 →
    (s.tile d k).runs = [r] → r.cmd.eng = 2 → r.fresh = true → r.start + 1 ≤ s.clock d k → s.nextCmd d k 2 = none →
    sound s d k →
    let g := qGeo r.cmd.stg
    let ef := f.f1.toNat
    let fmt := tyFmt f.f2.toNat g.es
    let w := (blockShape ef).1
    let codeAt (bits i c : Nat) : Nat :=
      leNat (seen s d k (g.src + i * g.sstr) (g.cols * bits / 8)) / 2 ^ (bits * c) % 2 ^ bits
    let scale (i b : Nat) : Nat := g.sca + i / 16 * g.gstr + 16 * b + i % 16
    let settled (E : List Eff) : Prop := ∃ t, exec (.quantCommandStart d k) s = .next t ∧
      (t.tile d k).runs = [{ r with fresh := false, eff := E }] ∧ t.mem = s.mem
    g.cols % 32 = 0 →
    (r.cmd.instr = .quant f → ∃ E, settled E ∧ E.length = 1 + g.rows * (1 + g.cols / 32) ∧
      ∃ (X : Nat → Nat → Nat) (codes : Nat → Nat → List Nat) (fl : Nat → Nat → Flags),
        .flags (orFlags ((upFrom 0 g.rows).flatMap fun i => (upFrom 0 (g.cols / 32)).map fun b => fl i b)) ∈ E ∧
        ∀ i, i < g.rows →
          (∀ b, b < g.cols / 32 →
            isBlock ef f.rm.toNat ((upFrom (32 * b) 32).map fun c => fmt.dec (codeAt fmt.bits i c)) (X i b) (codes i b)
              (fl i b) ∧
            .own (scale i b) [BitVec.ofNat 8 (X i b)] ∈ E) ∧
          ∃ bs, .own (g.dst + i * g.dstr) bs ∈ E ∧ bs.length = g.cols * w / 8 ∧
            ∀ c, c < g.cols → leNat bs / 2 ^ (w * c) % 2 ^ w = (codes i (c / 32)).getD (c % 32) 0 % 2 ^ w) ∧
    (r.cmd.instr = .dequant f →
      let out (i c : Nat) : Nat × Flags :=
        unblock ef f.rm.toNat (leNat (seen s d k (scale i (c / 32)) 1)) fmt (codeAt w i c)
      ∃ E, settled E ∧ E.length = 1 + g.rows ∧
        .flags (orFlags ((upFrom 0 g.rows).flatMap fun i => (upFrom 0 g.cols).map fun c => (out i c).2)) ∈ E ∧
        ∀ i, i < g.rows → ∃ bs, .own (g.dst + i * g.dstr) bs ∈ E ∧ bs.length = g.cols * fmt.bits / 8 ∧
          ∀ c, c < g.cols → leNat bs / 2 ^ (fmt.bits * c) % 2 ^ fmt.bits = (out i c).1 % 2 ^ fmt.bits)

/-- R226, R314: a quant or dequant whose cycle has come ends, unless a read is bound to a half of a buffer that it would reach:
its bytes are written, in order, its flags land, and its tag is set. -/
def Sys2Proof.quantCompletes : Prop :=
  ∀ (s : State) (d k : Nat) (r : Run) (f : QuantF), (s.tile d k).runs = [r] → r.cmd.eng = 2 →
    r.cmd.instr = .quant f ∨ r.cmd.instr = .dequant f → r.trap = none → r.eff.all homeEff = true →
    s.effHeld d k r.eff = false → accWrites r.eff = [] →
    (r.done ≤ s.clock d k → ∃ t, exec (.quantCommandComplete d k) s = .next t ∧ (t.tile d k).runs = [] ∧
      t.mem = (r.eff.foldl (fun (u : State) e => match e with
        | .own a bs => u.padStore d k a bs
        | _ => u) s).mem ∧
      tagAfter s t d k (some f.tag.toNat) ∧
      (t.ctx d k r.ctx).r.fW = (s.ctx d k r.ctx).r.fW ++ (flagsOf r.eff).map fun f => ⟨s.clock d k, f, 15⟩) ∧
    (s.clock d k < r.done → exec (.quantCommandComplete d k) s = .next s)

/-- R235: an sqclr that ends empties the scale queues that it names. -/
def Sys2Proof.sqclrCompletes : Prop :=
  ∀ (s : State) (d k : Nat) (r : Run) (f : SqclrF), (s.tile d k).runs = [r] → r.cmd.eng = 2 → r.cmd.instr = .sqclr f →
    r.eff = [] → r.trap = none → r.done ≤ s.clock d k →
    ∃ t, exec (.quantCommandComplete d k) s = .next t ∧ (t.tile d k).runs = [] ∧ t.mem = s.mem ∧
      (t.ctx d k r.ctx).e.sqA = (if f.ca = true then [] else (s.ctx d k r.ctx).e.sqA) ∧
      (t.ctx d k r.ctx).e.sqB = if f.cb = true then [] else (s.ctx d k r.ctx).e.sqB

/-- R234: an sqld pushes one entry of 16 bytes a cycle, while its queue has a slot. That it reads the entry in that cycle, behind
the cycle's writes, is the model's choice (log 7). -/
def Sys2Proof.sqldPushes : Prop :=
  ∀ (s : State) (d k : Nat) (r : Run) (f : SqldF), (s.tile d k).runs = [r] → r.cmd.eng = 2 → r.cmd.instr = .sqld f →
    r.cmd.prog < r.prog → s.clock d k = r.start + r.cmd.prog + 4 → (s.tile d k).bufs = [] →
    let e := (s.ctx d k r.ctx).e
    let a := fld (r.cmd.stg.getD 0 0) 18 0 + 16 * r.cmd.prog
    let v := BitVec.ofNat 128 (leNat (seen s d k a 16))
    a + 16 ≤ 0x60000 → (if f.qsel = true then e.sqB else e.sqA).length < 64 → s.ownPoison d k a 16 = false → s.upsets = [] →
    ∃ t, exec (.sqldEntryPush d k) s = .next t ∧ t.mem = s.mem ∧
      (t.tile d k).runs = [{ r with cmd := { r.cmd with prog := r.cmd.prog + 1 } }] ∧
      (t.ctx d k r.ctx).e.sqA = (if f.qsel = true then e.sqA else e.sqA ++ [v]) ∧
      (t.ctx d k r.ctx).e.sqB = if f.qsel = true then e.sqB ++ [v] else e.sqB

/-- R226 to R238. -/
def Sys2Proof.quantEngine : Prop := quantStarts ∧ quantReads ∧ quantCompletes ∧ sqclrCompletes ∧ sqldPushes

/-- R345: an xcfg that starts gives its context the parameters of its staging registers. -/
def Sys2Proof.xcfgStarts : Prop :=
  ∀ (s : State) (d k c : Nat) (cmd : Cmd) (f : XcfgF), s.nextCmd d k 3 = some (c, cmd) → cmd.eng = 3 →
    cmd.instr = .xcfg f → cmd.at' + 2 ≤ s.clock d k → (s.tile d k).runs = [] → (s.tile d k).window = [] →
    ∃ t, exec (.scatterCommandStart d k) s = .next t ∧ (t.ctx d k c).e.xcfg = some (cmd.hdr, cmd.stg) ∧
      (t.ctx d k c).e.queue = dropHead 3 (s.ctx d k c).e.queue ∧ (t.tile d k).runs.length = 1 ∧ t.mem = s.mem

/-- R348: a window entry for the own scratchpad that has gone 64 cycles without a merge, and to whose target no read is bound, is
combined into it; a younger one stays. -/
def Sys2Proof.entryTimesOut : Prop :=
  ∀ (s : State) (d k : Nat) (e : XEnt), (s.tile d k).window = [e] → s.replaying d k = false → s.recording d = false →
    (e.last + 64 ≤ s.now → e.va < padSize →
      let n := xSize (hXop e.hdr)
      s.hiddenHeld d k e.va n = false →
      let old := leNat (s.padBytes d k (s.clock d k) e.va n)
      ∃ t, exec (.scatterEntryTimeout d k) s = .next t ∧ (t.tile d k).window = [] ∧
        t.mem = (s.padStore d k e.va (leBytes n (combineWord (hXop e.hdr) (hVt e.hdr) old e.val).1)).mem) ∧
    (s.now < e.last + 64 → (s.ctx d k e.ctx).evict = false → (s.lead d (s.car d k).leadTile e.ctx).exitPh ≠ 2 →
      (s.tile d k).runs = [] → exec (.scatterEntryTimeout d k) s = .next s)

/-- R348: two words under XOP, values of type VT; .fadd rounds to nearest (R352). -/
def Sys2Proof.merged (xop vt a b : Nat) : Nat × Flags :=
  let i (x : Nat) : Int := if vt = 0 then (BitVec.ofNat 32 x).toInt else x
  match xop with
  | 0 => ((a + b) % 2 ^ 32, 0)
  | 1 => (if i a < i b then a else b, 0)
  | 2 => (if i a < i b then b else a, 0)
  | 3 => (a &&& b, 0)
  | 4 => (a ||| b, 0)
  | 5 => (a ^^^ b, 0)
  | _ => (Fmt.f ff32).deliver 0 (addV ((Fmt.f ff32).dec a) ((Fmt.f ff32).dec b))
/-- R348: a pair's value merged into an entry; under .qadd that is a quire sum. -/
def Sys2Proof.mergedEntry (h : Syl) (a v : Nat) : Nat × Flags :=
  if hXop h = 7 then
    let x : Val := if hVt h = 0 then (Fmt.f ff32).dec v else decT 32 (hEs h) v
    let r := quireSum (hVt h == 0) (BitVec.ofNat 512 a) [x]
    (r.1.toNat, r.2)
  else merged (hXop h) (hVt h) a v

/-- The next command of the scatter-accumulate engine may start: it is first, nothing runs, and its pairs, those of one row, lie
below LIMIT and in the own scratchpad, which holds no error. -/
def Sys2Proof.pairsReady (s : State) (d k c : Nat) (cmd : Cmd) (f : XpF) : Prop :=
  s.nextCmd d k 3 = some (c, cmd) ∧ cmd.eng = 3 ∧ cmd.at' + 2 ≤ s.clock d k ∧ (s.tile d k).runs = [] ∧
  s.replaying d k = false ∧ sound s d k ∧
  let x := (s.ctx d k c).e.xpar
  ∀ e ∈ xPairs f cmd, e.1 < 16 ∧ e.2.1 < fld (x.2.getD 1 0) 31 0 ∧
    fld (x.2.getD 0 0) 56 0 + (if hXop x.1 = 7 then 64 else 4) * e.2.1 < 0x60000

/-- R348: an xpush of pairs of one row, no two of one index, finds the window empty: each pair makes an entry of its own, in
order, its value as it is or under .qadd in a quire. A pair whose index has an entry already is merged into it. The engine is
busy for a cycle for each row; nothing is applied to memory. -/
def Sys2Proof.xpushStarts : Prop :=
  ∀ (s : State) (d k c : Nat) (cmd : Cmd) (f : XpF), cmd.instr = .xpush f → pairsReady s d k c cmd f →
    let x := (s.ctx d k c).e.xpar
    let h := x.1
    let starts (w : List XEnt) : Prop := ∃ t r, exec (.scatterCommandStart d k) s = .next t ∧ (t.tile d k).window = w ∧
      (t.tile d k).runs = [r] ∧ r.cmd = { cmd with prog := (xPairs f cmd).length } ∧ r.prog = (xPairs f cmd).length ∧
      r.busy = s.clock d k + f.rm1.toNat + 1 ∧ r.done = r.busy ∧
      (t.ctx d k c).e.queue = dropHead 3 (s.ctx d k c).e.queue ∧ t.mem = s.mem
    ((s.tile d k).window = [] → (xPairs f cmd).Pairwise (fun a b => a.2.1 ≠ b.2.1) →
      starts ((xPairs f cmd).map fun e =>
        ⟨c, e.2.1, h, fld (x.2.getD 0 0) 56 0, fld (x.2.getD 3 0) 15 12,
          if hXop h = 7 then (mergedEntry h 0 e.2.2).1 else e.2.2, false, s.now, 1, cmd.ord, none⟩)) ∧
    ∀ (e : XEnt) (n v : Nat), (s.tile d k).window = [e] → e.ctx = c → e.grp = false → xPairs f cmd = [(n, e.index, v)] →
      starts [{ e with val := (mergedEntry h e.val v).1, last := s.now, pairs := e.pairs + 1 }]

/-- R350: an xfetch of one pair of the own scratchpad, where the window holds nothing of its context: the element's value before
its update goes to RET + 4e, and the update is applied. -/
def Sys2Proof.xfetchStarts : Prop :=
  ∀ (s : State) (d k c : Nat) (cmd : Cmd) (f : XpF) (e i v : Nat), cmd.instr = .xfetch f → pairsReady s d k c cmd f →
    xPairs f cmd = [(e, i, v)] → (∀ w ∈ (s.tile d k).window, w.ctx ≠ c) →
    let x := (s.ctx d k c).e.xpar
    let va := fld (x.2.getD 0 0) 56 0 + 4 * i
    let ret := fld (x.2.getD 2 0) 18 0 + 4 * e
    hXop x.1 ≠ 7 → s.hiddenHeld d k va 4 = false → s.hiddenHeld d k ret 4 = false →
    let old := leNat (seen s d k va 4)
    ∃ t r, exec (.scatterCommandStart d k) s = .next t ∧ (t.tile d k).runs = [r] ∧ r.cmd = { cmd with prog := 1 } ∧
      r.prog = 1 ∧ r.busy = s.clock d k + f.rm1.toNat + 1 ∧
      t.mem = ((s.padStore d k va (leBytes 4 (merged (hXop x.1) (hVt x.1) old v).1)).padStore d k ret (leBytes 4 old)).mem ∧
      (t.ctx d k c).e.queue = dropHead 3 (s.ctx d k c).e.queue ∧ (t.tile d k).window = (s.tile d k).window

/-- R350, R351: an xflush whose context has no window entry and no update packet left and none lost with a broken stream, and so an
xfetch whose values are all written, end; semaphore SEM gains 1. Where one was lost neither ends. -/
def Sys2Proof.scatterCompletes : Prop :=
  ∀ (s : State) (d k : Nat) (r : Run), (s.tile d k).runs = [r] → r.cmd.eng = 3 → r.eff = [] → r.trap = none →
    r.done ≤ s.clock d k → (s.tile d k).window = [] → (s.tile d k).retx = [] → (s.ctx d k r.ctx).mayStart = true →
    let sem := fld ((s.ctx d k r.ctx).e.xpar.2.getD 3 0) 11 6
    ((∃ e ∈ (s.ctx d k r.ctx).streams, e.2.lost = true) ∨ r.lost = true ∨ r.cmd.ord < (s.ctx d k r.ctx).e.lostTo →
      (r.cmd.instr = .xflush → exec (.xflushComplete d k) s = .next s) ∧
      ∀ f, r.cmd.instr = .xfetch f → exec (.xfetchComplete d k) s = .next s) ∧
    ((∀ e ∈ (s.ctx d k r.ctx).streams, e.2.lost = false) → r.lost = false → (s.ctx d k r.ctx).e.lostTo ≤ r.cmd.ord →
    (r.cmd.instr = .xflush → ∃ t, exec (.xflushComplete d k) s = .next t ∧ OnlyTile s t d k ∧
      t.tile d k = { s.tile d k with runs := [], semQ := (s.tile d k).semQ ++ [⟨s.now, sem, none, 1, false⟩] }) ∧
    ∀ f, r.cmd.instr = .xfetch f → r.prog ≤ r.cmd.prog → ∃ t, exec (.xfetchComplete d k) s = .next t ∧ OnlyTile s t d k ∧
      t.tile d k = { s.tile d k with runs := [], semQ := (s.tile d k).semQ ++ [⟨s.now, sem, none, 1, false⟩] })

/-- R345 to R351. -/
def Sys2Proof.scatterEngine : Prop := xcfgStarts ∧ xpushStarts ∧ xfetchStarts ∧ entryTimesOut ∧ scatterCompletes

/-! ## Packets (R324 to R338, R352, R454) -/

/-- A flit that has arrived. -/
def Sys2Proof.arrived (s : State) (p : Nat) (f : Flit) : Prop :=
  ∃ x, s.flitOf p = some x ∧ x.flit = f
/-- The flits under way, without one. -/
def Sys2Proof.without (s : State) (p : Nat) : List InFlight := s.net.filter fun x => x.id != p
/-- A store for HBM4 of this module, from a die of it whose incarnation the receiver knows, in free mode. -/
def Sys2Proof.plainStore (s : State) (q : Pkt) : Prop :=
  q.dst.module = s.modnum ∧ q.dst.kind = 1 ∧ q.peer = false ∧ q.kind = .store ∧ q.cl = false ∧
    q.len = q.data.length ∧ q.addr + q.len ≤ hbmEnd ∧ q.src.module = s.modnum ∧
    s.knownInc (some q.dst.die) q.src.dieKey = some q.inc ∧ s.recording q.dst.die = false
/-- The tracker at a packet's endpoint: nothing held, and an entry of the packet's binding that expects a number. -/
def Sys2Proof.expects (s : State) (q : Pkt) (n : Nat) : Prop :=
  (s.tracker q.dst.key).reorder = [] ∧ (s.tracker q.dst.key).entry? q.src = some ⟨q.src, q.epoch, n, false⟩

/-- R324, R329, R330: a packet that is the next of its binding commits: its bytes are written at the endpoint, the entry expects
the next number, and an acknowledgement goes back. One that has committed already, 1 to 1,024 numbers back, writes nothing, is
counted, and is acknowledged again. -/
def Sys2Proof.packetCommits : Prop :=
  ∀ (s : State) (p : Nat) (q : Pkt) (n : Nat), arrived s p (.pkt q) → plainStore s q →
    (s.car q.src.die q.src.tile).mode = 0 → expects s q n → n < 4096 → q.seq < 4096 →
    (q.seq = n → ∃ t, exec (.packetArrival p) s = .next t ∧ MemBecomes s t (dieKey q.dst.die q.addr) q.data ∧
      (t.tracker q.dst.key).entry? q.src = some ⟨q.src, q.epoch, (n + 1) % 4096, false⟩ ∧
      t.net = without s p ++ [⟨s.flitNo, s.now + s.backLat q, s.now, .ack q.src q.epoch q.seq q.inc⟩]) ∧
    (3072 ≤ (q.seq + 4096 - n) % 4096 → ∃ t, exec (.packetArrival p) s = .next t ∧ t.mem = s.mem ∧
      (t.tracker q.dst.key).entry? q.src = some ⟨q.src, q.epoch, n, false⟩ ∧
      t.ctl q.dst.die 0x58 = s.ctl q.dst.die 0x58 + 1 ∧
      t.net = without s p ++ [⟨s.flitNo, s.now + s.backLat q, s.now, .ack q.src q.epoch ((n + 4095) % 4096) q.inc⟩])

/-- R330: a packet up to 1,023 numbers ahead is held in the reorder buffer: nothing is written. -/
def Sys2Proof.packetHeld : Prop :=
  ∀ (s : State) (p : Nat) (q : Pkt) (n : Nat), arrived s p (.pkt q) → plainStore s q →
    (s.car q.src.die q.src.tile).mode = 0 → expects s q n → n < 4096 →
    1 ≤ (q.seq + 4096 - n) % 4096 → (q.seq + 4096 - n) % 4096 ≤ 1023 →
    ∃ t, exec (.packetArrival p) s = .next t ∧ t.mem = s.mem ∧ (t.tracker q.dst.key).reorder = [q] ∧ t.net = without s p

/-- R330, R331: a refused packet is sent again when it comes back, if its binding still waits for it; attempts 2 to 8 of a packet
follow 2,048 × 2^(a − 1) cycles after attempt a. -/
def Sys2Proof.packetsAgain : Prop :=
  ∀ (s : State) (d k p : Nat) (q : Pkt), q.src.die = d → q.src.tile = k →
    (arrived s p (.refused q) → q ∈ (s.tile d k).retx → ∃ t x, exec (.packetRefusedResend p) s = .next t ∧
      t.net = without s p ++ [x] ∧ x.flit = .pkt q ∧ x.sent = s.now ∧ t.mem = s.mem ∧ t.tiles = s.tiles) ∧
    (s.timedTile d k = false → (s.tile d k).retx = [q] → 1 ≤ q.tries → q.tries ≤ 7 →
      (q.sent + 2048 * 2 ^ (q.tries - 1) ≤ s.now → ∃ t x, exec (.packetRetransmit d k) s = .next t ∧
        t.net = s.net ++ [x] ∧ x.flit = .pkt { q with tries := q.tries + 1, sent := s.now } ∧
        (t.tile d k).retx = [{ q with tries := q.tries + 1, sent := s.now }] ∧ t.mem = s.mem) ∧
      (s.now < q.sent + 2048 * 2 ^ (q.tries - 1) → exec (.packetRetransmit d k) s = .next s))

/-- R331: a packet whose attempt 8 stays unacknowledged for 2,048 × 2^7 cycles breaks its stream: the packet goes, and the context
takes stream broken (0x63) with the stream and the lowest unacknowledged number. -/
def Sys2Proof.streamBreaks : Prop :=
  ∀ (s : State) (d k : Nat) (q : Pkt), q.src.die = d → q.src.tile = k → q.src.ctx < 4 → (s.tile d k).retx = [q] →
    q.tries = 8 → q.sent + 2048 * 2 ^ 7 ≤ s.now → (s.ctx d k q.src.ctx).st = .ready → (s.ctx d k q.src.ctx).t.cur = none →
    (s.strm d k q.src.ctx q.src.stm).epoch = q.epoch → (s.strm d k q.src.ctx q.src.stm).bound.isSome = true →
    ∃ t, exec (.streamBrokenTimeout d k) s = .next t ∧ (t.strm d k q.src.ctx q.src.stm).broken = true ∧
      (t.tile d k).retx = [] ∧ t.mem = s.mem ∧
      ∃ r, (t.ctx d k q.src.ctx).t.cur = some r ∧ r.info.cause = 0x63 ∧ r.info.kind = 5 ∧
        r.info.status = q.src.stm + 16 * q.seq

/-- R331: the destination of a binding that its source has broken breaks its entry too, and counts it. -/
def Sys2Proof.destinationLearns : Prop :=
  ∀ (s : State) (ep d k c n : Nat) (e : TEntry), (s.tracker ep).entry? (s.source d k c n) = some e → e.broken = false →
    (s.tracker ep).reorder = [] → e.epoch = (s.strm d k c n).epoch →
    ((s.strm d k c n).broken = true → ∃ t, exec (.destinationLearnsBreak ep d k c n) s = .next t ∧
      (t.tracker ep).entry? (s.source d k c n) = some { e with broken := true } ∧ t.mem = s.mem) ∧
    ((s.strm d k c n).broken = false → exec (.destinationLearnsBreak ep d k c n) s = .next s)

/-- R331, R333: an acknowledgement of the source's present incarnation removes what it covers from the retransmit buffer; one of
an older incarnation, and an answer of an older one that a packet has failed, are counted and do nothing. -/
def Sys2Proof.acknowledged : Prop :=
  (∀ (s : State) (p : Nat) (src : Source) (epoch seq kind inc : Nat), arrived s p (.fault src epoch seq kind inc) →
    src.module = s.modnum → inc ≠ (s.die src.die).inc → ∃ t, exec (.ackReceived p) s = .next t ∧ t.tiles = s.tiles ∧
      t.ctxs = s.ctxs ∧ t.net = without s p ∧ t.ctl src.die 0x60 = s.ctl src.die 0x60 + 1) ∧
  ∀ (s : State) (p : Nat) (src : Source) (epoch seq inc : Nat), arrived s p (.ack src epoch seq inc) →
    src.module = s.modnum →
    (inc = (s.die src.die).inc → ∃ t, exec (.ackReceived p) s = .next t ∧ t.net = without s p ∧ t.mem = s.mem ∧
      (t.tile src.die src.tile).retx = (s.tile src.die src.tile).retx.filter fun q => !q.ackedBy src epoch seq) ∧
    (inc ≠ (s.die src.die).inc → ∃ t, exec (.ackReceived p) s = .next t ∧ t.tiles = s.tiles ∧
      t.ctl src.die 0x60 = s.ctl src.die 0x60 + 1)

/-- R329: the value of an rld lands in its register when the response comes, and the context waits for it no longer. -/
def Sys2Proof.loadAnswered : Prop :=
  ∀ (s : State) (p : Nat) (src : Source) (epoch seq inc reg : Nat) (bs : List Byte),
    arrived s p (.resp src epoch seq inc reg bs) → src.module = s.modnum → inc = (s.die src.die).inc → src.ctx < 4 →
    let x := s.ctx src.die src.tile src.ctx
    rldId src.stm epoch seq ∈ x.rld → reg ≠ 0 →
    ∃ t, exec (.rldResponse p) s = .next t ∧ t.mem = s.mem ∧
      (t.ctx src.die src.tile src.ctx).rld = x.rld.filter (· != rldId src.stm epoch seq) ∧
      ∀ u, s.clock src.die src.tile ≤ u → 0 < u → Quiet x.r.sW reg u →
        (t.ctx src.die src.tile src.ctx).r.readS u reg = BitVec.ofNat 64 (leNat bs)

/-- R333: a receiver that learns a newer incarnation of a source die frees every entry, held packet and retired record of it. -/
def Sys2Proof.incarnationLearned : Prop :=
  ∀ (s : State) (d src old : Nat) (v : BitVec 8), s.knownInc (some d) src = some old →
    (old = v.toNat → exec (.incarnationChange d src v) s = .next s) ∧
    (1 ≤ epochAhead v.toNat old → epochAhead v.toNat old ≤ 127 → s.bindingsTo d src = [] →
      ∃ t, exec (.incarnationChange d src v) s = .next t ∧ (t.die d).incOf.get src = v.toNat ∧ t.mem = s.mem ∧
        ∀ e ∈ t.trackers, trackerOf (some d) e.1 = true → ∀ x ∈ e.2.entries, x.src.dieKey ≠ src)

/-- R337, R338: a packet outside a timetable that has waited 2^14 cycles in a port is discarded and counted; a retired record goes
after 2^20. -/
def Sys2Proof.packetsExpire : Prop :=
  (∀ (s : State) (p : Nat) (x : InFlight) (q : Pkt), s.net.find? (fun x => x.id == p) = some x → x.flit = .pkt q →
    q.src.module = s.modnum → s.byTable q.src = false →
    (x.sent + 16384 ≤ s.now → ∃ t, exec (.portPacketExpiry p) s = .next t ∧ t.net = without s p ∧
      t.ctl q.src.die 0x60 = s.ctl q.src.die 0x60 + 1 ∧ t.mem = s.mem) ∧
    (s.now < x.sent + 16384 → exec (.portPacketExpiry p) s = .next s)) ∧
  ∀ (s : State) (ep : Nat), ∃ t, exec (.retiredRecordExpiry ep) s = .next t ∧ t = { s with trackers := t.trackers } ∧
    (t.tracker ep).retired = (s.tracker ep).retired.filter (fun r => s.now < r.cycle + 1048576) ∧
    (t.tracker ep).entries = (s.tracker ep).entries

/-- R273, R279, R352: a packet of a timetabled tile departs in the cycle of its table's entry, into the edge buffer of its
receiver, with the cycle in which it is delivered. -/
def Sys2Proof.timedPacketDeparts : Prop :=
  ∀ (s : State) (d k asid now n : Nat) (tt : Timetable) (q : Pkt), s.timedTile d k = true → s.domainRuns d = true →
    (s.tile d k).retx = [q] → q.tries = 0 → s.ttOf d = some (asid, tt) → s.sinceStart d = some now → tt.rsd ≠ 0 →
    s.depNext d asid tt k q.src.stm 0 listMax = some (n, now) → s.crossPorts q = none →
    ∃ t, exec (.timedDeparture d k) s = .next t ∧ t.mem = s.mem ∧
      t.net = s.net ++ [⟨s.flitNo, s.ttc d + s.writeLat true d k q.place, s.now,
        .timed { q with tries := 1, sent := s.now }⟩] ∧
      (t.tile d k).retx = [{ q with tries := 1, sent := s.now }] ∧
      (t.die d).tt = some { tt with depUsed := n :: tt.depUsed }

/-- R279: a timed packet waits for its receiver's TTC, and then commits. -/
def Sys2Proof.timedPacketDelivered : Prop :=
  ∀ (s : State) (p n : Nat) (x : InFlight) (q : Pkt), s.net.find? (fun x => x.id == p) = some x → x.flit = .timed q →
    plainStore s q → (s.car q.src.die q.src.tile).mode = 1 → s.tracking q.dst.die = true →
    (s.ttc q.dst.die < x.arrive → exec (.timedDelivery p) s = .next s) ∧
    (x.arrive ≤ s.ttc q.dst.die → (s.die q.dst.die).freeze = none → expects s q n → n < 4096 → q.seq = n →
      ∃ t, exec (.timedDelivery p) s = .next t ∧ MemBecomes s t (dieKey q.dst.die q.addr) q.data ∧
        (t.tracker q.dst.key).entry? q.src = some ⟨q.src, q.epoch, (n + 1) % 4096, false⟩)

/-- R324, R329, R330: packets at their endpoint. -/
def Obligations.PacketsAtTheEndpoint : Prop := packetCommits ∧ packetHeld ∧ timedPacketDelivered
/-- R331 to R333, R337, R338: packets at their source; what the two ends learn of each other. -/
def Obligations.PacketsAtTheSource : Prop :=
  packetsAgain ∧ streamBreaks ∧ destinationLearns ∧ acknowledged ∧ loadAnswered ∧ incarnationLearned ∧ packetsExpire ∧
  timedPacketDeparts

/-! ## The dispatcher, timetables, hauls, walks (R246, R249, R271 to R281, R283, R293, R296, R390, R392) -/

/-- R246, R249: where the one waybill of a die waits in a queue, its dependences met, and a position is free for its shape, the
dispatcher places its next caravan at the first such position: every tile of it is then occupied by the new caravan, whose
contexts clear. -/
def Sys2Proof.caravanPlaced : Prop :=
  ∀ (s : State) (d q : Nat) (e : QEnt) (w : Wb) (p : Nat × Nat), q < 16 →
    let x := s.die d
    x.queues = [(q, [e])] → x.wbs.find? e.no = some w → w.no = e.no → w.placed < wNcar w.img →
    (∀ k, k < 4 → s.depMet d w.img k = true) → wMode w.img ≠ 1 → (wHaul w.img = 0 ∨ 0 < w.placed) → x.tt = none → x.res = none →
    s.firstFit d e.no w.img = some p → s.mayPlace d = true →
    ∃ t, exec (.dispatchCycle d) s = .next t ∧
      let car := (t.die d).cars.get x.carNo
      (t.die d).carNo = x.carNo + 1 ∧ (t.die d).lastPlace = some s.now ∧ ((t.die d).wbs.get e.no).placed = w.placed + 1 ∧
      car.row = p.1 ∧ car.col = p.2 ∧ car.idx = w.placed ∧ car.asid = wAsid w.img ∧ car.nctx = wNctx w.img ∧
      ∀ k ∈ posTiles (2 ^ wLh w.img) (2 ^ wLw w.img) p, (t.tile d k).occ = some x.carNo ∧
        ∀ c, c < wNctx w.img → (t.ctx d k c).st = .clearing ∧ (t.ctx d k c).wid =
          BitVec.ofNat 64 (workId w.img w.placed (k / 32 - p.1) (k % 32 - p.2) c)

/-- R249: when the ready cycle of a placed caravan has come, its contexts may issue at every tile, from the entry segment; before
it nothing happens. -/
def Sys2Proof.contextsReady : Prop :=
  ∀ (s : State) (d k : Nat),
    let car := (s.die d).cars.get k
    0 < car.nctx → car.nctx ≤ 4 → (∀ c, c < car.nctx → (s.ctx d car.leadTile c).st = .clearing) →
    (car.readyAt ≤ s.now → (s.die d).freeze = none → ∃ t, exec (.contextReady d k) s = .next t ∧ t.mem = s.mem ∧
      (t.tile d car.leadTile).cur = 0 ∧
      ∀ c, c < car.nctx → (t.lead d car.leadTile c).flow.pos = ⟨wEntry ((s.die d).wbs.get car.wb).img, 0, 0⟩ ∧
        ∀ u ∈ car.tiles, (t.ctx d u c).st = .ready) ∧
    (s.now < car.readyAt → exec (.contextReady d k) s = .next s)

/-- R121, R245: a context whose EXIT has waited for its commands, its window and its packets ends at every tile of its caravan; with
the last context of the caravan its tiles are free. -/
def Sys2Proof.contextEnds : Prop :=
  ∀ (s : State) (d l c k : Nat), c < 4 → (s.tile d l).occ = some k → (s.ctx d l c).st = .ready →
    (s.lead d l c).exitPh = 3 → (s.lead d l c).re = none → s.drained d l c = true → s.trappers d l c = [] →
    s.packetsLeft d l c = false →
    let car := s.car d l
    ((car.done.length + 1 ≠ car.nctx → ∃ t, exec (.exitComplete d l c) s = .next t ∧ t.mem = s.mem ∧
        ∀ u ∈ car.tiles, (t.ctx d u c).st = .ended ∧ (t.ctx d u c).gran = [] ∧ (t.ctx d u c).banks = 0 ∧
          (t.ctx d u c).parks = 0 ∧ (t.ctx d u c).lease = 0) ∧
      (car.done.length + 1 = car.nctx → ∃ t, exec (.exitComplete d l c) s = .next t ∧
        ∀ u ∈ car.tiles, (t.tile d u).occ = none))

/-- R246, R249, R121, R245: caravans come and go. -/
def Obligations.CaravansComeAndGo : Prop := caravanPlaced ∧ contextsReady ∧ contextEnds

/-- R274, R280: a domain of one die that has armed, and, where it is pod-timed, that every other package has armed, starts 64 cycles
ahead of the latest TTC: its own, or one that it knows of another package; at S its caravans are placed; until it has started,
system software may withdraw its waybill. -/
def Sys2Proof.domainStarts : Prop :=
  ∀ (s : State) (d : Nat) (tt : Timetable), (s.die d).tt = some tt →
    (d < 4 → tt.phase = 1 → tt.domain = 2 ^ d → s.armedWith tt.key = [d] →
      ((tt.pod = true → ∀ e ∈ s.coll.pod, e.2.key = some tt.key) →
        ∃ t n, exec (.timetableStart d) s = .next t ∧ OnlyDie s t d ∧
          (t.die d).tt = some { tt with phase := 2, start := n + 64 } ∧ s.ttc d ≤ n ∧ (tt.pod = false → n = s.ttc d) ∧
          (tt.pod = true → ∀ e ∈ s.coll.pod, e.2.ttc ≤ n)) ∧
      (tt.pod = true → (∃ e ∈ s.coll.pod, e.2.key ≠ some tt.key) → exec (.timetableStart d) s = .next s)) ∧
    (tt.phase = 2 → tt.start ≤ s.ttc d → ∃ t, exec (.timetablePlacement d) s = .next t ∧
      (t.die d).tt = some { tt with phase := 3 } ∧
      (t.die d).carNo = (s.die d).carNo + wNcar ((s.die d).wbs.get tt.entNo).img) ∧
    (tt.phase = 2 → s.ttc d < tt.start → exec (.timetablePlacement d) s = .next s) ∧
    (tt.phase ≤ 1 → ∃ t, exec (.waybillWithdrawal d) s = .next t ∧ OnlyDie s t d ∧ (t.die d).tt = none ∧
      (t.die d).wbs.find? tt.entNo = none ∧ ∀ e ∈ (t.die d).queues.get tt.queue, e.no ≠ tt.entNo)

/-- R278: a die of a running domain that cannot act in a cycle freezes, with the kind of what keeps it; it goes on in the first
cycle without a cause. -/
def Sys2Proof.diesFreeze : Prop :=
  ∀ (s : State) (d : Nat),
    (s.tracking d = true → (s.die d).freeze = none → ∀ k, s.freezeCause d = some k →
      ∃ t, exec (.dieFreeze d) s = .next t ∧ OnlyDie s t d ∧ t.die d = { s.die d with freeze := some (k, s.now) }) ∧
    (s.freezeCause d = none → exec (.dieFreeze d) s = .next s) ∧
    ((s.die d).freeze.isSome = true → s.freezeCause d = none → s.upsets = [] →
      ∃ t, exec (.freezeEnd d) s = .next t ∧ OnlyDie s t d ∧ t.die d = { s.die d with freeze := none })

/-- R279, R280: each cycle a die shows its TTC to the one other die of its domain, which learns it two exchanges later; it freezes
where the TTC that it has learned is more than 8 behind its own, and in a pod-timed domain also where that of another package is
more than 24 behind. -/
def Sys2Proof.ttcExchanged : Prop :=
  ∀ (s : State) (d e : Nat), e < 4 → s.partners d = [e] → s.tracking d = true → (s.die d).freeze = none →
    let m := (s.die d).ttcOf
    ∃ t, exec (.ttcExchange d) s = .next t ∧ OnlyDie s t d ∧
      (t.die d).ttcOf.find? (4 + e) = some (s.ttc e) ∧
      (∀ v, m.find? (4 + e) = some v → (t.die d).ttcOf.find? (8 + e) = some v) ∧
      (∀ v, m.find? (8 + e) = some v → (t.die d).ttcOf.find? e = some v ∧
        ((s.die d).tt.map (·.pod) ≠ some true →
          (t.die d).freeze = if v + 8 < s.ttc d then some (10, s.now) else none)) ∧
      ((s.die d).tt.map (·.pod) = some true → (∃ p ∈ s.coll.pod, p.2.ttc + 24 < s.ttc d) →
        (t.die d).freeze = some (10, s.now))

/-- R281: a context that has not ended LEN cycles after its domain's start takes timetable overrun (0x87), and its domain is
aborted. -/
def Sys2Proof.timetableOverruns : Prop :=
  ∀ (s : State) (d l c now : Nat) (tt : Timetable), c < 4 → (s.die d).tt = some tt → s.sinceStart d = some now →
    (tt.len ≤ now → s.timedTile d l = true → (s.ctx d l c).st = .ready → (s.ctx d l c).t.cur = none →
      (s.ctx d l c).t.stuck = false → d < 4 →
      tt.domain.testBit d = true →
      ∃ t, exec (.timetableOverrun d l c) s = .next t ∧ (∃ r, (t.ctx d l c).t.cur = some r ∧ r.info.cause = 0x87) ∧
        (t.die d).tt = some { tt with phase := 4 } ∧ t.mem = s.mem) ∧
    (now < tt.len → exec (.timetableOverrun d l c) s = .next s)

/-- R274, R278, R279, R281: the life of a domain. That S of a pod-timed domain is the latest TTC known plus 64 (logs 59, 97)
and the form of an abort (log 97) are the model's choices. -/
def Obligations.TimetabledDomains : Prop := domainStarts ∧ diesFreeze ∧ ttcExchanged ∧ timetableOverruns

/-- R283 to R285, R385: a matrix operand's miss, of which the page is in the die's TLB or which has a walker, ends in a later cycle
than it began: with a translation the tile goes on, and its micro-TLB has the page; with a fault the miss handler is entered,
where it is enabled and fewer than four entries were made for the access, and else the fault is declined. -/
def Sys2Proof.walkEnds : Prop :=
  ∀ (s : State) (d k : Nat) (m : Miss), (s.tile d k).miss = some m → m.shadow = false → m.declined = false →
    m.since < s.now → m.sf = none → (s.tile d k).gen = none → (s.tile d k).pipeB = none →
    let asid := (s.car d k).asid
    (s.tlbHas d asid (m.va / 4096) = true ∨ s.hasWalker d k m.since = true) →
    let r := (s.reach d asid (if m.write = true then .write else .read) m.va).2
    let handled : Prop := (s.ctl d 0x50).getLsbD 63 = true ∧ m.entries < 4
    (∀ p, r = .ok p → ∃ t, exec (.pageWalkComplete d k) s = .next t ∧ (t.tile d k).miss = none ∧
      (asid, m.va / 4096) ∈ (t.tile d k).micro ∧ t.mem = s.mem) ∧
    ∀ f, r = .error f →
      (¬ handled → ∃ t, exec (.pageWalkComplete d k) s = .next t ∧
        (t.tile d k).miss = some { m with kind := f.kind, status := f.status, declined := true } ∧ t.mem = s.mem) ∧
      (handled → ∃ t, exec (.pageWalkComplete d k) s = .next t ∧ t.mem = s.mem ∧
        (t.tile d k).miss = some { m with kind := f.kind, status := f.status, entries := m.entries + 1, shadow := true } ∧
        (t.ctx d k 4).st = .ready ∧
        (t.lead d k 4).flow.pos = ⟨fld (s.ctl d 0x50) 52 0 * 16, 0, 0⟩)

/-- R385: the translation that a tile's general stream has outstanding, of a page in the TLB or with a walker, ends in a later cycle
than it began: nothing of the stream is outstanding then, and where it was found the micro-TLB has the page. -/
def Sys2Proof.generalWalkEnds : Prop :=
  ∀ (s : State) (d k stream asid page since : Nat), (s.tile d k).miss = none →
    (s.tile d k).gen = some (stream, asid, page, since) → since < s.now → (s.tile d k).pipeB = none →
    (s.tlbHas d asid page = true ∨ s.hasWalker d k since = true) →
    ∃ t, exec (.pageWalkComplete d k) s = .next t ∧ (t.tile d k).gen = none ∧ t.mem = s.mem ∧
      (stream, asid, page) ∈ (t.tile d k).piped ∧
      ∀ r, (s.translate d asid (page * 4096)).2 = .ok r → (asid, page) ∈ (t.tile d k).micro

/-- R293, R296: a haul group whose cycle has come is published in its slot, or, where an entry of it fails, its list stops: HAULST
names the list and the entry. -/
def Sys2Proof.haulGroups : Prop :=
  ∀ (s : State) (d k : Nat) (h : Haul), s.haulReady d = some (h, k) → (h.slots.get k).rehaul = false →
    (∀ u n, s.haulCopy d h k = (u, .ok n) → (∀ g ∈ (s.die d).hauls, ∀ e ∈ g.slots, e.2.rehaul = false) →
      ∃ t, exec (.haulGroupPublish d) s = .next t ∧ t.mem = u.mem ∧
      ∃ g ∈ (t.die d).hauls, g.wb = h.wb ∧ (g.slots.get k).st = 2) ∧
    (∀ u n, s.haulCopy d h k = (u, .error n) → ∃ t, exec (.haulListFail d) s = .next t ∧ t.mem = u.mem ∧
      t.ctl d 0x48 = BitVec.ofNat 64 (2 ^ 63 + h.wb % 2 ^ 32 * 2 ^ 24 + n % 2 ^ 24) ∧
      ∀ g ∈ (t.die d).hauls, g.wb = h.wb → g.failed = true)

/-- R390, R392: an invalidation is over once no access that used what it dropped is under way; a scrubbed tile belongs to the ASID
of its caravan, or, with none, to that of the domain that its die has armed. -/
def Sys2Proof.invalidationsAndScrubs : Prop :=
  (∀ (s : State) (d c : Nat), (s.die d).inv = some c →
    (s.invBusy d c = false → ∃ t, exec (.invalidationComplete d) s = .next t ∧ OnlyDie s t d ∧ (t.die d).inv = none ∧
      (t.ctl d 0xA8).getLsbD 63 = false) ∧
    (s.invBusy d c = true → exec (.invalidationComplete d) s = .next s)) ∧
  ∀ (s : State) (d k : Nat), 0 < (s.tile d k).scrubAt →
    (∀ asid, ((∃ n, (s.tile d k).occ = some n ∧ asid = ((s.die d).cars.get n).asid) ∨
        (s.tile d k).occ = none ∧ ∃ tt, (s.die d).tt = some tt ∧ asid = wAsid ((s.die d).wbs.get tt.entNo).img) →
      (s.tile d k).scrubAt ≤ s.now → ∃ t, exec (.scrubComplete d k) s = .next t ∧ OnlyTile s t d k ∧
        t.tile d k = { s.tile d k with scrubAt := 0, lasid := some asid }) ∧
    (s.now < (s.tile d k).scrubAt → exec (.scrubComplete d k) s = .next s)

/-- R283, R285, R293, R296, R390, R392. That a walk with a walker ends in the cycle after it began (log 91), that a tile is
zeroed as its scrub starts (log 60), and when a haul group is copied (log 70) are the model's choices. -/
def Obligations.WalksHaulsScrubs : Prop := walkEnds ∧ generalWalkEnds ∧ haulGroups ∧ invalidationsAndScrubs

/-! ## Stops, handlers, saves (R286 to R289, R298, R420 to R426, R437 to R445, R464) -/

/-- R298: a context that has been held for 2^20 cycles, and whose hold still stands, traps the held bundle with hold watchdog (0xA1)
and the kind of the hold. -/
def Sys2Proof.watchdogTraps : Prop :=
  ∀ (s : State) (d k c n since : Nat), c < 4 → (s.die d).freeze = none → (s.tile d k).miss = none →
    (s.ctx d k c).st = .ready → (s.ctx d k c).t.cur = none → (s.ctx d k c).holds.head? = some n →
    (s.ctx d k c).hold.find? heldKey = some since → n < 16 →
    (since + 1048576 ≤ s.now → s.stillHeld d k c n = true → ∃ t, exec (.holdWatchdogExpiry d k c) s = .next t ∧
      t.mem = s.mem ∧ ∃ r, (t.ctx d k c).t.cur = some r ∧ r.info.cause = 0xA1 ∧ r.info.status = n ∧
        r.info.eng = holdEng n) ∧
    (s.now < since + 1048576 → exec (.holdWatchdogExpiry d k c) s = .next s)

/-- R286: a context that has been the current one for its quantum yields after its next bundle, where another could issue. -/
def Sys2Proof.quantumEnds : Prop :=
  ∀ (s : State) (d l : Nat),
    let q := fld (s.ctl d 0) 19 0 * 1024
    let x := s.tile d l
    let y := s.lead d l x.cur
    (q ≠ 0 → x.occ.isSome = true → (s.car d l).timed = false → s.replaying d l = false → x.curAt + q ≤ s.now →
      ((s.turnOrder d l x.cur ((s.car d l).nctx - 1)).any fun c => (s.tryIssue d l c).2 == .used) = true →
      y.flow.after = 0 → ∃ t, exec (.quantumExpiry d l) s = .next t ∧ OnlyCtx s t d l x.cur ∧
        (t.lead d l x.cur).flow = { y.flow with after := 6 }) ∧
    (s.now < x.curAt + q → exec (.quantumExpiry d l) s = .next s)

/-- R288, R419, R420: a stop that is asked for takes effect outside a delay window; a trap signal that has reached the lead ends issue,
at once where its cause withholds a bundle, and outside a delay window for any other. -/
def Sys2Proof.issueStops : Prop :=
  ∀ (s : State) (d l c : Nat),
    let y := s.lead d l c
    (∀ i, y.stop = some i → (s.ctx d l c).st = .ready → y.halted = false →
      (y.inWindow = false → ∃ t, exec (.preemptionStop d l c) s = .next t ∧ OnlyCtx s t d l c ∧
        t.lead d l c = { y with halted := true }) ∧
      (y.inWindow = true → exec (.preemptionStop d l c) s = .next s)) ∧
    (y.re = none → y.inWindow = y.flow.pend.isSome) ∧
    ((s.car d l).timed = false →
      ((∃ e ∈ y.sigs, e.1 ≤ s.now) → s.drained d l c = false →
        (y.halted = true ∨ y.inWindow = false ∨ ∃ e ∈ y.sigs, e.1 ≤ s.now ∧ ∃ r, (s.ctx d e.2 c).t.cur = some r ∧ r.info.kind ≤ 1) →
        ∃ t, exec (.trapSignalArrival d l c) s = .next t ∧ OnlyCtx s t d l c ∧
          t.lead d l c = { y with halted := true, sigs := y.sigs.filter fun e => s.now < e.1 }) ∧
      (y.halted = false → y.inWindow = true →
        (∀ e ∈ y.sigs, (s.ctx d e.2 c).t.stuck = false ∧
          ∃ r, (s.ctx d e.2 c).t.cur = some r ∧ (r.info.kind = 2 ∨ r.info.kind = 5)) →
        exec (.trapSignalArrival d l c) s = .next s))

/-- R424, R425: a context whose issue has stopped, and whose causes are all delegated, enters its handler: every tile is in handler
mode, and the lead goes on at the segment of TVEC; what was interrupted is kept. -/
def Sys2Proof.handlerEntered : Prop :=
  ∀ (s : State) (d l c : Nat) (i : TrapInfo), c < 4 → s.quiet d l c = true → s.stopCause d l c = some i →
    s.toHandler d l c i = true → ((∃ e ∈ s.stopRecs d l c, e.2.info.kind = 2) → s.unfinished d l c = false) →
    ∃ t, exec (.handlerEntry d l c) s = .next t ∧
      (∀ k ∈ (s.car d l).tiles, (t.ctx d k c).t.hm = true ∧ (t.ctx d k c).t.cur = none) ∧
      (t.lead d l c).flow.pos = ⟨fld (s.ctx d l c).t.tvec 62 10 * 16, 0, 0⟩ ∧ (t.lead d l c).halted = false ∧
      (t.lead d l c).saved = some ⟨(s.lead d l c).hist, (s.lead d l c).flow, (s.lead d l c).no, (s.lead d l c).exitPh⟩ ∧
      t.mem = s.mem

/-- R464: a replay whose source names what cannot occur diverges, once RPTR has passed over the used entries and those that
impose nothing: DIV is set. -/
def Sys2Proof.replayDiverges : Prop :=
  ∀ (s : State) (d : Nat), s.replayed d ≠ [] → (s.ctl d 0x430).toNat < (s.ctl d 0x428).toNat →
    (s.ctl d 0x418).getLsbD 61 = false →
    let u := s.rnext d
    let r := (u.ctl d 0x430).toNat
    (r < (u.ctl d 0x428).toNat → (u.entryEnded d r = true ∨ u.entryLate d r = true) →
      ∃ t, exec (.replayDivergence d) s = .next t ∧ (t.ctl d 0x418).getLsbD 61 = true ∧ t.mem = s.mem) ∧
    ((u.ctl d 0x428).toNat ≤ r ∨ u.entryEnded d r = false ∧ u.entryLate d r = false →
      exec (.replayDivergence d) s = .next u)

/-- R286, R288, R298, R420, R425, R464. That the watchdog names the first of several kinds of hold (log 22) and where the
2^20 cycles of a replay's wait begin (log 53) are the model's choices. -/
def Obligations.StopsAndHandlers : Prop :=
  watchdogTraps ∧ quantumEnds ∧ issueStops ∧ handlerEntered ∧ replayDiverges

/-- R438, R442: a save that has ended has written its blocks, each where the area has it, and nothing else; the context that waits
goes on. -/
def Sys2Proof.saveEnds : Prop :=
  ∀ (s : State) (d l c : Nat) (o : SaveOp), s.saveDue d false = some o → s.poison = [] → s.upsets = [] →
    o.dry = false → o.waiter = some (l, c) → l < 512 → o.img.length = 256 * o.keys.length →
    o.keys.Pairwise (fun a b => a + 256 ≤ b ∨ b + 256 ≤ a) →
    ∃ t, exec (.saveComplete d) s = .next t ∧ (t.lead d l c).sysRes = some none ∧ o ∉ (t.die d).saves ∧
      (∀ i, i < o.keys.length → t.mem.readN (o.keys.getD i 0) 256 = (o.img.drop (256 * i)).take 256) ∧
      ∀ a, (∀ k ∈ o.keys, a < k ∨ k + 256 ≤ a) → t.mem.read a = s.mem.read a

/-- R443, R444: a load whose block fails its check leaves its target damaged at every tile, and memory but that of the tiles'
accumulators as it was; one whose blocks are good gives each tile the registers of its section: here a caravan of one tile, no
stream of the target being bound. -/
def Sys2Proof.loadEnds : Prop :=
  ∀ (s : State) (d : Nat) (o : SaveOp), s.saveDue d true = some o → o.ctx < 4 → o.dry = false → s.upsets = [] →
    (∀ n, s.firstBad o.keys = some n → ∃ t, exec (.loadComplete d) s = .next t ∧
      (∀ a, a < 6 * region → t.mem.read a = s.mem.read a) ∧
      ∀ k ∈ (s.car d o.lead).tiles, (t.ctx d k o.ctx).st = .damaged) ∧
    (s.firstBad o.keys = none → (s.car d o.lead).tiles = [o.lead] → (s.ctx d o.lead o.ctx).streams = [] → ∃ t, exec (.loadComplete d) s = .next t ∧
      let blocks := o.keys.map fun k => s.load k 256
      let n := sectionBlocks (nbits (sd8 (streamBytes (blocks.take 10)) 0x10) 31 0)
      let x := streamBytes ((blocks.drop 10).take n)
      (∀ u i, 0 < i → i < 64 → (t.ctx d o.lead o.ctx).r.readS u i = BitVec.ofNat 64 (sd8 x (8 * i))) ∧
      (t.ctx d o.lead o.ctx).r.fsr = BitVec.ofNat 8 (sd8 x 0x218) ∧
      (t.lead d o.lead o.ctx).no = min (sd8 (streamBytes (blocks.take 10)) 0x80) 128)

/-- R436, R437, R445: a context command of the control window for a stopped context resumes it, ends it, or begins to save it; one
whose descriptor names none ends with context command invalid (0x97). -/
def Sys2Proof.commandsOfTheWindow : Prop :=
  ∀ (s : State) (d l c : Nat) (desc : BitVec 11), s.pf d = true → (s.ctl d 0x320).getLsbD 63 = false →
    let v : DWord := desc.setWidth 64
    (s.target d v none = .ok (l, c) → (s.ctx d l c).st = .stopped →
      (((s.die d).wbs.get (s.car d l).wb).aborted = false → ∃ t, exec (.ccmdResume d desc) s = .next t ∧
        (∀ k ∈ (s.car d l).tiles, (t.ctx d k c).st = .ready) ∧ (t.ctl d 0x320).getLsbD 63 = false ∧
        t.ctl d 0x330 = 0xFF00000000000000) ∧
      (∃ t, exec (.ccmdEnd d desc) s = .next t ∧ (t.lead d l c).exitPh = 2 ∧ (t.lead d l c).halted = true ∧
        (∀ k ∈ (s.car d l).tiles, (t.ctx d k c).st = .ready ∧ (t.ctx d k c).gran = []) ∧
        (t.ctl d 0x320).getLsbD 63 = false ∧ t.ctl d 0x330 = 0xFF00000000000000) ∧
      (let x := s.ctx d l c
       let a := (s.ctl d 0x328).toNat
       let n := 10 + (s.car d l).tiles.length * sectionBlocks (sectionLen x.vgmask x.banks.toNat x.parks.toNat)
       a % 256 = 0 → a + 256 * n ≤ hbmEnd → fld (s.ctl d 0xB0) 3 0 = 2 →
        ∃ t o, exec (.ccmdSave d desc) s = .next t ∧ (t.die d).saves = (s.die d).saves ++ [o] ∧ o.load = false ∧
          o.lead = l ∧ o.ctx = c ∧ o.keys = (upFrom 0 n).map (fun i => dieKey d (a + 256 * i)) ∧
          (t.ctl d 0x320).getLsbD 63 = true ∧ t.mem = s.mem) ∧
      (let a := (s.ctl d 0x328).toNat
       let b := s.load (dieKey d a) 256
       let n := 10 + (s.car d l).tiles.length * sectionBlocks (nbits (sd8 b 0x10) 31 0)
       a % 256 = 0 → a + 256 * n ≤ hbmEnd → (s.car d l).timed = false → s.poison = [] → s.upsets = [] → s.areaBad d l c b = false →
        (∀ k ∈ (s.car d l).tiles, s.areaFits d k c b = true) →
        ∃ t o, exec (.ccmdLoad d desc) s = .next t ∧ (t.die d).saves = (s.die d).saves ++ [o] ∧ o.load = true ∧
          o.lead = l ∧ o.ctx = c ∧ (t.ctl d 0x320).getLsbD 63 = true ∧ t.mem = s.mem)) ∧
    ∀ e, s.target d v none = .error e →
      ∀ i ∈ [Instr.ccmdResume d desc, .ccmdEnd d desc, .ccmdSave d desc, .ccmdLoad d desc],
        ∃ t, exec i s = .next t ∧ (t.ctl d 0x320).getLsbD 63 = false ∧ t.ctl d 0x330 = 0x9700000000000000 ∧
          t.ctxs = s.ctxs ∧ t.mem = s.mem

/-- R287: a pre-emption request that names a caravan of one live context asks its lead to stop it, and is busy until it has; one
that names none ends at once with result 3. -/
def Sys2Proof.preemptionAsked : Prop :=
  ∀ (s : State) (d : Nat) (v : DWord), s.pf d = true → (s.ctl d 0x10).getLsbD 63 = false → s.preqTimed d v = false →
    (∀ car, s.preqCars d v = [car] → car.nctx = 1 → (s.ctx d car.leadTile 0).st = .ready →
      (s.lead d car.leadTile 0).stop = none → ∃ t, exec (.preqWrite d v) s = .next t ∧
        (∃ x, (t.lead d car.leadTile 0).stop = some x ∧ x.info.cause = 0x89 ∧ x.info.kind = 4) ∧
        (t.die d).preq = [(car.leadTile, 0)] ∧ t.ctl d 0x10 = 0x8000000000000000 ∧ t.mem = s.mem) ∧
    (s.preqCars d v = [] → ∃ t, exec (.preqWrite d v) s = .next t ∧ OnlyDie s t d ∧ t.ctl d 0x10 = 0x6000000000000000)

/-- R287, R436 to R445. That GO reads 0 and CCAUSE is set at once where OP resumes or ends a context, though its streams may
still have to close (R437, R445), is the model's choice (log 71). -/
def Obligations.SavesAndRequests : Prop := saveEnds ∧ loadEnds ∧ commandsOfTheWindow ∧ preemptionAsked

/-! ## Links, reduction, the host, the package (R11, R243, R333, R390, R398 to R411, R445 to R458) -/

/-- R447, R448, R452, R408: a retry is counted, and with it a correction of the link's die; 16 in a row bring the link down, with
the event; an external port that has trained is up at its level. -/
def Sys2Proof.linksComeAndGo : Prop :=
  ∀ (s : State) (link : Nat),
    (∃ t, exec (.linkRetry link) s = .next t ∧ t.coll.linkRetry.get link = s.coll.linkRetry.get link + 1 ∧
      t.ctl ((linkDie link).getD 0) 0x440 = s.ctl ((linkDie link).getD 0) 0x440 + 1 ∧ t.mem = s.mem) ∧
    (16 ≤ s.coll.linkRetry.get link → link ∉ s.coll.linkDown → ∃ t, exec (.linkDown link) s = .next t ∧
      link ∈ t.coll.linkDown ∧ (t.coll.mgmt.get 0x20).getLsbD 15 = true ∧ t.mem = s.mem ∧
      (link < 36 → (t.coll.mgmt.get (0x200 + 8 * link)).getLsbD 55 = false)) ∧
    (s.coll.linkRetry.get link < 16 → exec (.linkDown link) s = .next s) ∧
    (link < 36 → s.coll.trained.get link = 1 → fld (s.coll.mgmt.get (0x200 + 8 * link)) 59 55 = 0 →
      ∀ level, level = 1 ∨ level = 2 → ∃ t, exec (.linkTrainingComplete link level) s = .next t ∧
        s.portRole link = t.portRole link ∧ t.portLevel link = level ∧ t.portUsable link = true ∧
        link ∉ t.coll.linkDown ∧ t.mem = s.mem)

/-- R407: a port that is told to train is untrained, under the role that its register asks for. -/
def Sys2Proof.portTrains : Prop :=
  ∀ (s : State) (p : Nat), s.pf4 = true → p < 36 → ∃ t, exec (.portTrain p) s = .next t ∧ t.portLevel p = 0 ∧
    t.portRole p = fld (s.coll.mgmt.get (0x200 + 8 * p)) 63 62 ∧ t.dies = s.dies ∧ t.mem = s.mem

/-- R403: the partials of a child module of which the round has none are added to those of the round, for integers modulo 2^64, and
the child is counted; the round goes on while round markers are missing. -/
def Sys2Proof.partialsArrive : Prop :=
  ∀ (s : State) (port g : Nat) (parts : List Nat), s.rgOk g = true → port ∈ s.rgChildren g →
    s.carriesPartials port = true → s.rgType g = 2 → (s.coll.rounds.get g).sent = false →
    port ∉ (s.coll.rounds.get g).children →
    (s.coll.rounds.get g).markers < fld (s.rg g 0) 47 40 →
    ∃ t, exec (.reductionPartialArrival port g parts) s = .next t ∧ t.mem = s.mem ∧
      (t.coll.rounds.get g).children = (s.coll.rounds.get g).children ++ [port] ∧
      ∀ e, e < parts.length → e < s.rgElems g → (t.coll.rounds.get g).parts.get e =
        ((s.coll.rounds.get g).parts.get e + parts.getD e 0) % 2 ^ 64

/-- R398, R403: the results of a round that this module has sent are written on its one die and handed to the children over the ports
that carry reduction values, and the next round begins. -/
def Sys2Proof.resultsArrive : Prop :=
  ∀ (s : State) (g d : Nat) (results : List Nat), s.rgOk g = true → (s.coll.rounds.get g).sent = true →
    s.carriesPartials (s.rgParent g) = true → d < 4 → fld (s.rg g 3) 19 16 = 2 ^ d →
    (s.coll.nextRounds.get g).markers < fld (s.rg g 0) 47 40 →
    let l := results.take (s.rgElems g)
    ∃ t, exec (.reductionResultArrival g results) s = .next t ∧
      MemBecomes s t (dieKey d (fld (s.rg g 2) 51 0)) (l.flatMap fun v => leBytes (s.rgBytes g) v) ∧
      t.coll.rounds.get g = s.coll.nextRounds.get g ∧
      t.coll.kout = s.coll.kout ++ ((s.rgChildren g).filter fun p => s.carriesPartials p).map fun p => (p, g, l)

/-- R398, R403, R407, R408, R447, R452. That the retries of an external port are counted at die 0 (log 73), that partials
and results for ports not at level 2 are lost (log 98), and that the results of a round are written on every die in one step
(log 58) are the model's choices. -/
def Obligations.LinksAndReduction : Prop := linksComeAndGo ∧ portTrains ∧ partialsArrive ∧ resultsArrive

/-- R243, R406: a doorbell appends the staging image to its queue, with the next entry number, while the queue holds fewer than 32;
then it is refused. -/
def Sys2Proof.doorbellRings : Prop :=
  ∀ (s : State) (d q : Nat), s.pf d = true → q < 16 →
    let x := s.die d
    ((x.queues.get q).length < 32 → ∃ t, exec (.doorbell d q) s = .next t ∧ OnlyDie s t d ∧
      (t.die d).queues.get q = x.queues.get q ++ [⟨x.entNo, (x.qwin.get q).image⟩] ∧ (t.die d).entNo = x.entNo + 1 ∧
      ((t.die d).qwin.get q).lastent = x.entNo ∧ ∀ n, n ≠ q → (t.die d).queues.get n = x.queues.get n) ∧
    (32 ≤ (x.queues.get q).length → ∃ t, exec (.doorbell d q) s = .next t ∧ OnlyDie s t d ∧
      (t.die d).queues = x.queues ∧ ((t.die d).qwin.get q).refused = true)

/-- R390, R405: INVCMD, written while GO is 0, drops what it names from the shared TLB, and what the TLB has lost from the micro-TLBs
of the die; GO stays 1 until the invalidation is complete. While GO is 1 INVCMD does nothing. -/
def Sys2Proof.invalidations : Prop :=
  ∀ (s : State) (d : Nat) (asid : BitVec 16), s.pf d = true →
    let all := [Instr.invcmdPage d asid, .invcmdAsid d asid, .invcmdAll d, .invcmdSourceRanges d]
    ((s.ctl d 0xA8).getLsbD 63 = true → ∀ i ∈ all, exec i s = .next s) ∧
    ((s.ctl d 0xA8).getLsbD 63 = false →
      (∀ i ∈ all, ∃ t, exec i s = .next t ∧ t = { s with dies := t.dies, tiles := t.tiles } ∧
        (∀ x, x ≠ d → t.dies.get x = s.dies.get x) ∧ (t.die d).inv = some s.now ∧ (t.ctl d 0xA8).getLsbD 63 = true) ∧
      (∀ i ∈ [Instr.invcmdPage d asid, .invcmdAsid d asid, .invcmdAll d], ∃ t, exec i s = .next t ∧
        ∀ k, k < 512 → ∀ x ∈ (t.tile d k).micro, x ∈ (s.tile d k).micro ∧
          ∃ y ∈ (t.die d).tlb, y.asid = x.1 ∧ y.page = x.2) ∧
      (∃ t, exec (.invcmdAll d) s = .next t ∧ (t.die d).tlb = []) ∧
      (∃ t, exec (.invcmdSourceRanges d) s = .next t ∧ (t.die d).tlb = (s.die d).tlb) ∧
      (∃ t, exec (.invcmdAsid d asid) s = .next t ∧
        (t.die d).tlb = (s.die d).tlb.filter fun e => e.asid != asid.toNat) ∧
      ∃ t, exec (.invcmdPage d asid) s = .next t ∧ (t.die d).tlb = (s.die d).tlb.filter fun e =>
        !(e.asid == asid.toNat && e.covers (fld (s.ctl d 0xA0) 56 12 * 4096)))

/-- R11, R299, R404 to R406, R455, R458: registers that the host writes: aligned, of an enabled function; only the writable bits of a
register change; what it reads afterwards is left for the host, 0 for a write-only register. -/
def Sys2Proof.registersWritten : Prop :=
  ∀ (s : State) (d : Nat) (v : DWord), s.pf d = true →
    let onlyDie (t : State) : Prop := t = { s with dies := t.dies, hostOut := t.hostOut } ∧
      ∀ x, x ≠ d → t.dies.get x = s.dies.get x
    (∃ t, exec (.registerWrite (.control d) 0 v) s = .next t ∧ onlyDie t ∧
      t.ctl d 0 = (s.ctl d 0 &&& ~~~0xFFFFF) ||| (v &&& 0xFFFFF) ∧ (∀ n, n ≠ 0 → t.ctl d n = s.ctl d n) ∧
      t.hostOut = leBytes 8 (t.ctl d 0).toNat) ∧
    (∀ i, i < 64 → ∃ t, exec (.registerWrite (.control d) (0x100 + 8 * i) v) s = .next t ∧ onlyDie t ∧
      (t.die d).ccnt.get i = v.setWidth 32 ∧ (∀ n, n ≠ i → (t.die d).ccnt.get n = (s.die d).ccnt.get n) ∧
      t.hostOut = leBytes 8 (fld v 31 0)) ∧
    (∀ q i, q < 16 → i < 32 → ∃ t, exec (.registerWrite (.queue d) (4096 * q + 8 * i) v) s = .next t ∧ onlyDie t ∧
      t.hostOut = leBytes 8 0) ∧
    (∀ q, q < 16 → ((s.die d).queues.get q).length < 64 →
      ∃ t, exec (.registerWrite (.queue d) (4096 * q + 0x108) v) s = .next t ∧ onlyDie t ∧
        leNat t.hostOut % 64 = ((s.die d).queues.get q).length) ∧
    (∀ w off, off % 8 ≠ 0 → exec (.registerWrite w off v) s = .next s) ∧
    (∃ t, exec (.jtailWrite d v) s = .next t ∧ OnlyDie s t d ∧ t.ctl d 0x410 = v ∧ (t.ctl d 0x418).getLsbD 63 = false) ∧
    ∀ k n h, k < 16 → n < 2 ^ 32 → h ∈ (s.die d).hauls → h.wb % 2 ^ 32 = n → h.failed = false →
      (h.slots.get k).st = 2 → (s.ctl d 0x460).getLsbD 63 = false →
      ∃ t, exec (.rehaul d k n) s = .next t ∧ OnlyDie s t d ∧ (t.ctl d 0x460).getLsbD 63 = true ∧
        ∃ g ∈ (t.die d).hauls, (g.slots.get k).rehaul = true

/-- R404: the host reads and writes a die's HBM4 through BAR4, and LPDDR6 through the load window. -/
def Sys2Proof.hostReachesMemory : Prop :=
  ∀ (s : State) (bs : List Byte) (n : Nat), s.poison = [] → s.upsets = [] → bs ≠ [] →
    (∀ d a, s.pf d = true → a + bs.length ≤ hbmEnd → a + n ≤ hbmEnd →
      (∃ t, exec (.hostMemoryAccess d a 0 bs) s = .next t ∧ MemBecomes s t (dieKey d a) bs ∧ t = { s with mem := t.mem }) ∧
      ∃ t, exec (.hostMemoryAccess d a n []) s = .next t ∧ t.hostOut = s.mem.readN (dieKey d a) n ∧ t.mem = s.mem) ∧
    ∀ off, s.pf4 = true → 0x80000 ≤ off → off + bs.length ≤ 0x100000 → off + n ≤ 0x100000 →
      let a := fld (s.coll.mgmt.get 0x30) 39 19 * 0x80000 + (off - 0x80000)
      (∃ t, exec (.loadWindowAccess off 0 bs) s = .next t ∧ MemBecomes s t (tierKey a) bs) ∧
      ∃ t, exec (.loadWindowAccess off n []) s = .next t ∧ t.hostOut = s.mem.readN (tierKey a) n ∧ t.mem = s.mem

/-- R409, R410: in recovery the host writes an image, which is kept until both its signatures verify; the report of an attestation
holds PHYSMAP and the nonce of its request. -/
def Sys2Proof.firmwareAndReport : Prop :=
  ∀ (s : State) (off : Nat) (bs : List Byte) (nonce : BitVec 256),
    (s.bootState = 3 → bs ≠ [] → off + bs.length ≤ 0x80000 →
      let old := s.coll.image ++ List.replicate (off - s.coll.image.length) (0 : Byte)
      let img := old.take off ++ bs ++ old.drop (off + bs.length)
      let ok := Config.imageVerifies 0 img && Config.imageVerifies 1 img
      (ok = false → ∃ t, exec (.provisioningWrite off bs) s = .next t ∧ t = { s with coll := { s.coll with image := img } }) ∧
      (ok = true → ∃ t, exec (.provisioningWrite off bs) s = .next t ∧ t.coll.flash = img ∧ t.bootState = 4)) ∧
    (s.pf4 = true → ∃ t, exec (.attestationRequest nonce) s = .next t ∧ t.coll.report = t.hostOut ∧
      t.hostOut.length = 30288 ∧ (t.hostOut.drop 24).take 8 = leBytes 8 (s.coll.mgmt.get 8).toNat ∧
      (t.hostOut.drop 80).take 32 = leBytes 32 nonce.toNat ∧ t.mem = s.mem ∧ t.dies = s.dies)

/-- R11, R243, R390, R404 to R410, R455, R458. What is left for the host after a write (logs 78, 79), that a misaligned
write is ignored (log 78), boot within the step of a provisioning write (log 72) and the layout of an attestation report
(log 98) are the model's choices. -/
def Obligations.HostAccesses : Prop :=
  doorbellRings ∧ invalidations ∧ registersWritten ∧ hostReachesMemory ∧ firmwareAndReport

/-- R333, R411, R454, R456: power-on, a module reset and a die reset. Each die's TTC is then 0, its tiles hold no caravan and its
queues no waybill; host memory stays; the die's incarnation advances modulo 256. -/
def Sys2Proof.resets : Prop :=
  ∀ (s : State),
    (s.power = false → ∃ t, exec .powerOn s = .next t ∧ t.power = true ∧ t.frozen = false ∧ t.tiles = [] ∧ t.ctxs = [] ∧
      t.net = [] ∧ ∀ d, d < 4 → (t.die d).ttc = 0 ∧ (t.die d).queues = [] ∧ (t.die d).inc = s.powerInc d) ∧
    (s.power = true → ∃ t, exec .moduleReset s = .next t ∧ t.power = true ∧ t.frozen = false ∧ t.tiles = [] ∧
      t.ctxs = [] ∧ t.net = [] ∧ t.coll.flash = s.coll.flash ∧
      (∀ a, t.mem.read a = if 5 * region ≤ a ∧ a < 6 * region then s.mem.read a else 0) ∧
      ∀ d, d < 4 → (t.die d).ttc = 0 ∧ (t.die d).queues = [] ∧ (t.die d).inc = ((s.die d).inc + 1) % 256 ∧
        t.ctl d 0 = 0x100) ∧
    (s.power = true → ∃ t, exec .mainPowerOff s = .next t ∧ t.power = false ∧ t.tiles = [] ∧
      ∀ d, d < 4 → t.coll.boardInc.get d = (s.die d).inc) ∧
    ∀ d, d < 4 → s.power = true → ∃ t, exec (.dieReset d) s = .next t ∧ t.mem = s.mem ∧
      (t.die d).inc = ((s.die d).inc + 1) % 256 ∧ (t.die d).queues = [] ∧ (t.die d).tt = none ∧
      (∀ e, (t.die e).ttc = 0) ∧ ∀ k c, k < 512 → c < 8 → t.ctx d k c = default ∧ t.tile d k = default

/-- R456, R457: a freeze stops every clock and keeps logical die 0's TTC; the debug port then reads a context's state out,
FRZTTC and 64 bytes of HBM4 or LPDDR6; which tile numbers stand for those segments is the model's choice (log 79). -/
def Sys2Proof.freezesAndReadOut : Prop :=
  ∀ (s : State),
    (s.power = true → s.frozen = false → ∃ t, exec .freezePin s = .next t ∧ t.frozen = true ∧
      t.coll.mgmt.get 0x808 = BitVec.ofNat 64 (s.ttc 0) ∧ t.tiles = s.tiles ∧ t.ctxs = s.ctxs ∧ t.mem = s.mem) ∧
    (s.pf4 = true → s.frozen = false → ∃ t, exec .frzWrite s = .next t ∧ t.frozen = true ∧
      t.coll.mgmt.get 0x808 = BitVec.ofNat 64 (s.ttc 0)) ∧
    (s.power = true → ∀ d k c, (k = 512 → ∃ t, exec (.debugPortRead d k c) s = .next t ∧
        t = { s with hostOut := leBytes 8 (s.coll.mgmt.get 0x808).toNat }) ∧
      (∀ base, (k = 513 ∧ base = dieKey d (64 * c)) ∨ (k = 514 ∧ base = tierKey (64 * c)) →
        (∀ i, i < 64 → s.poisoned (base + i) 1 = false) →
        ∃ t, exec (.debugPortRead d k c) s = .next t ∧ t = { s with hostOut := t.hostOut, freeCtr := t.freeCtr } ∧
          t.hostOut = s.mem.readN base 64) ∧
      (k < 512 → ∃ t, exec (.debugPortRead d k c) s = .next t ∧ t = { s with hostOut := t.hostOut } ∧
        ∀ n, n < 64 → leNat ((t.hostOut.drop (8 * n)).take 8) =
          ((s.ctx d k c).r.readS (s.clock d k + 2 ^ 32) n).toNat))

/-- R333, R411, R454, R456, R457. What the read-out leaves for the host (log 79), memory that reads 0 after a module reset
(log 1) and what a die reset leaves (log 74) are the model's choices. -/
def Obligations.ResetsAndFreezes : Prop := resets ∧ freezesAndReadOut

/-! ## Reset, a step, memory, decoding -/

/-- R53, R88, R270, R299, R411: what reset leaves: TTC 0, empty queues, QUANTUM 0x100, no caravan, no poison, every link up.
Memory that reads 0 (log 1) and registers of contexts that have never started (log 2) are the model's choices: the spec
gives no value for them. -/
def Obligations.ResetValues : Prop :=
  State.reset.power = true ∧ State.reset.frozen = false ∧ State.reset.tiles = [] ∧ State.reset.ctxs = [] ∧
  State.reset.mem = [] ∧ MemOk State.reset ∧ State.reset.poison = [] ∧ State.reset.net = [] ∧ State.reset.trackers = [] ∧
  State.reset.coll.linkDown = [] ∧
  (∀ d, (State.reset.die d).ttc = 0 ∧ (State.reset.die d).queues = [] ∧ (State.reset.die d).ccnt = [] ∧
    (State.reset.die d).tt = none ∧ (State.reset.die d).inv = none) ∧
  (∀ d, d < 4 → State.reset.ctl d 0 = 0x100) ∧
  (∀ d k, (State.reset.tile d k).occ = none ∧ (State.reset.tile d k).tags = 0 ∧ (State.reset.tile d k).runs = []) ∧
  ∀ d k c u n, (State.reset.ctx d k c).st = .absent ∧ (State.reset.ctx d k c).r.readS u n = 0 ∧
    (State.reset.ctx d k c).r.readFsr u = 0

/-- A step takes the next row of the agenda: where nothing keeps it waiting, step is exec of that row on the state without
it; a row that finds its die standing still is passed over; an empty agenda lets a cycle pass. No step stops. That a step is
one row of an agenda, the order of the rows (log 5) and that a row first asks whether its condition holds (log 12) are the
model's choices. -/
def Obligations.StepRunsTheAgenda : Prop :=
  (∀ (s : State) (i : Instr) (rest : List Instr), s.agenda = i :: rest →
    ({ s with agenda := rest }.waits i = false → step s = exec i { s with agenda := rest }) ∧
    ({ s with agenda := rest }.waits i = true → step s = .next { s with agenda := rest })) ∧
  (∀ (s : State), s.agenda = [] → s.power = true → s.frozen = false →
    ∃ t, step s = .next t ∧ t.now = s.now + 1) ∧
  (∀ (s : State), s.agenda = [] → s.power = false ∨ s.frozen = true → step s = .next s) ∧
  ∀ (s : State), ∃ t, step s = .next t

/-- R45 to R48, R65: a position whose syllables decode to a bundle is found to hold that bundle. -/
def Sys2Proof.positionHoldsBundle : Prop :=
  ∀ (h : Half) (p : Pos) (chk : Bool) (off n : Nat) (ws : List Syl) (b : Bundle),
    (h.fail = none → h.recRead = true → recBad h.record = false) → h.look p.idx = .found off ws → p.ioff = 0 → p.idx < 64 →
    decodeBundle ws = (n, .ok b) → hdrLast (ws.headD 0) = lastWanted h off (bundleLen ws) →
    ∃ hdrs, readBundle h p chk = .bundle b hdrs (bodyAddr h.addr off)

/-- R22, R64, R250: the current context of a free-mode caravan, whose position holds a bundle with slots that passes the checks,
issues it in the lead's step: the bundle's attempt at the lead is what runs, and then the bundle enters the history and the
position moves on. -/
def Sys2Proof.leadRunsDecoded : Prop :=
  ∀ (s s' : State) (d l c a : Nat) (b : Bundle) (hdrs : List (Slot × Syl)), c < 4 →
    let x := s.ctx d l c
    let y := x.lead
    (s.tile d l).miss = none → (s.tile d l).occ.isSome = true → (s.car d l).leadTile = l →
    (s.die d).freeze = none → (s.car d l).mode = 0 → (s.tile d l).cur = c →
    (∀ e, (s.ctx d l e).lead.flow.after = 0) → x.st = .ready → y.halted = false → y.stop = none → y.exitPh = 0 →
    s.histFull d l c = false → x.stopIn = [] → x.rld = [] → y.re = none → y.cur.has y.flow.pos.seg = true →
    readBundle y.cur y.flow.pos y.flow.chk = .bundle b hdrs a → b.slots ≠ [] → ¬ y.flow.pre < preNeed b.slots →
    s.upsets = [] → (y.flow.chk = true → y.flow.pos.bit63 = false) →
    s.staticTrap d l c b.slots = none → s.slotBusy d l c b.slots = none → s.mayReserve d l (resvOf b.slots) = true →
    let iss0 := s.nextIssued d l c a b.slots hdrs []
    let iss := { iss0 with
      dec := ((b.slots.find? fun e => e.1 == .b).map fun e => decideB e.2 (s.aim d l c iss0)).getD default }
    (s.aim d l c iss).runBundle iss = (s', .done) → s.waits (.leadIssueCycle d l) = false →
    step { s with agenda := .leadIssueCycle d l :: s.agenda } = .next
      (((((s'.issued d l c iss).prefetch d l c).stepFlow d l c b.idle (b.slots.any fun e => isTransfer e.2)).unhold
        d l c 7).unhold d l c 6)

/-- A bundle of one slot other than B, whose remote addresses have their translations and whose stores no bound half delays, runs
the meaning of its instruction, aimed at that slot; exec of the instruction is the end of the same attempt. -/
def Sys2Proof.bundleRunsItsInstruction : Prop :=
  (∀ (s : State) (i : Instr), i.slotClass.isSome = true → exec i s = finish s (slotSem i s)) ∧
  ∀ (s s' : State) (b : Issued) (p : Slot) (i : Instr), b.slots = [(p, i)] → p ≠ .b →
    (∀ va ∈ s.remoteVas b.slots, s.streamHas (s.who s.focus.die s.focus.tile s.focus.ctx) 0 va = true) →
    let n := s.lastOf b.slots
    let s0 := if n = 0 then s else s.modF fun c => { c with acc := max c.acc (s.t + n) }
    let s1 := { s0 with focus := { s0.focus with slot := p, hdr := hdrOf b.hdrs p } }
    slotSem i s1 = .ok s' → s0.storeHeld (s'.underWay i s1) = none →
    s.runBundle b = (((s'.underWay i s1).closeBundle b.no).modFT fun x => x.unpipe 0, .done)

/-- R22, R45 to R48, R64, R65, R250. -/
def Obligations.StepRunsTheDecodedBundle : Prop := positionHoldsBundle ∧ leadRunsDecoded ∧ bundleRunsItsInstruction

/-- Memory keeps its canonical form under every named operation that writes it: keyed bytes, a tile's scratchpad, the writes of a
cycle, a journal entry, a record, the start of a scrub; and a write is what a read of its bytes finds. -/
def Obligations.MemoryOperations : Prop :=
  ∀ (s : State) (k : Nat) (bs : List Byte), MemBecomes s (s.store k bs) k bs ∧
    (MemOk s → MemOk (s.store k bs) ∧ (∀ d k x bs, MemOk (s.padStore d k x bs)) ∧ (∀ d k, MemOk (s.performPad d k)) ∧
      (∀ d e, MemOk (s.jput d e)) ∧ (∀ d l, MemOk (s.ringWrite d l)) ∧ (∀ d k, MemOk (s.scrub d k)) ∧
      (∀ d k c l, MemOk (s.applyEffs d k c l)) ∧ ∀ p bs, MemOk (s.pktWrite p bs))

/-- Every step keeps the memory in its canonical form. -/
def Obligations.EveryStepKeepsMemoryCanonical : Prop :=
  ∀ (s t : State), MemOk s → step s = .next t → MemOk t

/-- The instruction that the syllables of one slot stand for. -/
def Sys2Proof.decodesTo (k : SlotClass) (ws : List Syl) (i : Instr) : Prop := decodeSlot k ws = .ok i

/-- R45 to R49, R75, R78, R81 to R87: words written out from the encodings: a scalar add, a load with a literal, a branch on a
predicate, a trap, a fence, a vector add, commands of the engines; the bundle of R49's example with such words. -/
def Obligations.WordsDecode : Prop :=
  decodesTo .s [0x000C1080] (.add ⟨3, 1, 2, 0, false, none⟩) ∧
  decodesTo .s [0x01046000, 0xFFFFF830] (.add ⟨1, 6, 0, 0, false, some 0x7FFFFC18⟩) ∧
  decodesTo .s [0x61144600, 0x00000080] (.ld ⟨5, 4, 3, 0, false, some 0x40⟩) ∧
  decodesTo .s [0x50304350] (.cmp ⟨3, 1, 3, 5, false, none⟩) ∧
  decodesTo .s [0x98047800] (.rdstg ⟨1, 0, 7, true, 0, false, none⟩) ∧
  decodesTo .v [0x00820040, 0x01003000] (.vadd ⟨0x82, 0, 4, false, false, false, 1, 0, 3, 0, false, 0, 0, false, false, false⟩) ∧
  decodesTo .m [0x023A0000] (.mzero ⟨7, false, true, false, false⟩) ∧
  decodesTo .b [0x02000300] (.brc 1 true) ∧ decodesTo .b [0x7000000A] (.trap 5) ∧ decodesTo .b [0x58000004] (.fence 2) ∧
  decodeSlot .s [0x54000002] = .error .reserved ∧ decodeSlot .s [0x36000000] = .error .opcode ∧
  decodeBundle [0x95200000, 0x01046000, 0xFFFFF830, 0x00820040, 0x01003000, 0x023A0000, 0x7000000B] =
    (7, .ok ⟨[(.s0, .add ⟨1, 6, 0, 0, false, some 0x7FFFFC18⟩),
      (.v0, .vadd ⟨0x82, 0, 4, false, false, false, 1, 0, 3, 0, false, 0, 0, false, false, false⟩),
      (.m, .mzero ⟨7, false, true, false, false⟩), (.b, .trap 5)], 2, false⟩)

/-- Decoding undoes encoding, for every well-formed instruction of every slot class and every value of its operands; and what
decodes encodes to the same syllables, but for their stop bits. -/
def Obligations.InstructionsRoundTrip : Prop :=
  (∀ (k : SlotClass) (i : Instr), i.slotClass = some k → i.wf = true → decodeSlot k (encode i) = .ok i) ∧
  ∀ (k : SlotClass) (w : Syl) (ws : List Syl) (i : Instr), (w :: ws).length = slotLen k w →
    decodeSlot k (w :: ws) = .ok i → i.wf = true ∧ i.slotClass = some k ∧
      encode i = (w :: ws).map fun v => v &&& 0xFFFFFFFE

/-- Decoding undoes encoding for whole bundles, whatever follows them: slots in their order, each with a well-formed instruction
of its class. -/
def Obligations.BundlesRoundTrip : Prop :=
  ∀ (slots : List (Slot × Instr)) (idle : BitVec 4) (last : Bool) (rest : List Syl),
    (slots.map (·.1)).Sublist Slot.all → (∀ e ∈ slots, e.2.slotClass = some e.1.cls ∧ e.2.wf = true) →
    decodeBundle (encodeBundle slots idle last ++ rest) =
      ((encodeBundle slots idle last).length, .ok ⟨slots, idle.toNat, last⟩)

/-! ## The statements that join several of the above -/

/-- Integer and immediate instructions write their result and nothing else. -/
def Obligations.IntegerAndImmediateResults : Prop :=
  integerResults ∧ immediateResults

/-- sel, cmp, pset and plog. -/
def Obligations.SelectCompareAndPredicates : Prop :=
  selectResult ∧ compareResult ∧ predicateLogic

/-- A guarded-off instruction changes nothing; s0 reads 0 and p0 reads 1. -/
def Obligations.GuardsAndConstantRegisters : Prop :=
  guardedOff ∧ constantRegisters

/-- Aligned ld and st inside the scratchpad. -/
def Obligations.ScalarLoadAndStore : Prop :=
  scalarLoad ∧ scalarStore

/-- Scalar and vector accesses that trap, and with which cause. The order of the checks where several of them fail, such as
the misaligned access before the one outside the scratchpad, is the model's choice (log 86). -/
def Obligations.AccessTraps : Prop :=
  scalarAccessTraps ∧ vectorAccessTraps

/-- F32 and F64 arithmetic is rounded once; NaN operands. -/
def Obligations.FloatResults : Prop :=
  floatArithmetic ∧ floatNaN

/-- fmin, fmax and fcmp on numbers, zeros and NaNs. -/
def Obligations.FloatMinMaxAndCompare : Prop :=
  floatMinMax ∧ floatCompare

/-- fclass, fcvt and fchk. -/
def Obligations.FloatClassConvertAndCheck : Prop :=
  floatClassConvert ∧ flagCheck

/-- movsys reads, movctl reads and writes, and a write to preds. -/
def Obligations.SystemAndControlRegisters : Prop :=
  systemRegisters ∧ controlRegisters ∧ predicateWrites

/-- What each vector source delivers, where it stops, and last use. -/
def Obligations.VectorSources : Prop :=
  vectorSourceForms ∧ vectorSourceStops ∧ lastUse

/-- Integer and bitwise vector instructions. -/
def Obligations.VectorIntegersAndBits : Prop :=
  vectorIntegers ∧ vectorBits

/-- Vector arithmetic and functions on T and F types: exact, then rounded once. -/
def Obligations.VectorReals : Prop :=
  vectorRealArithmetic ∧ vectorSigns ∧ exactResults ∧ roundedOnce ∧ roundedTapered ∧ specialOperands

/-- vsplat, vext, vins and vcrc. -/
def Obligations.SplatExtractInsertAndChecksum : Prop :=
  splatExtractInsert ∧ checksum

/-- vld, vst, vgather, vscatter, gset and greset. -/
def Obligations.VectorMemoryAndPorts : Prop :=
  vectorLoadStore ∧ gatherScatter ∧ portParameters

/-- Reductions, scans and vtopk. -/
def Obligations.ReductionsAndTopK : Prop :=
  reductions ∧ topK

/-- The quire instructions and their chains. That qadd, qsub and qdot add the elements in ascending order, where R203 allows
any, is the model's choice (log 101). -/
def Obligations.QuireInstructions : Prop :=
  quireMoves ∧ quireChains

/-- Matrix and copy commands enter their queues. -/
def Obligations.MatrixAndCopyCommands : Prop :=
  matrixCommands ∧ copyCommands

/-- Quantisation and scatter-accumulate commands enter their queues. -/
def Obligations.QuantAndScatterCommands : Prop :=
  quantCommands ∧ scatterCommands

/-- Control transfers at the lead and at followers, and where they trap. That cause 0x04 is recorded with ENG 0 is the
model's choice (log 49). -/
def Obligations.Transfers : Prop :=
  transfersAtTheLead ∧ transferStops

/-- loop, loop.rot, loopw, yield and exit. That exit looks at the scale queues once the commands of earlier bundles have
ended, before it waits for those of its own, is the model's choice (log 54). -/
def Obligations.LoopsYieldExit : Prop :=
  loops ∧ yieldExit

/-- allot, shrink, mlease and mrelease. -/
def Obligations.FileAllotmentAndLease : Prop :=
  mainFileAllotment ∧ matrixLease

/-- waitany, waitall, ffr, tagclr, semw, semsig and semset complete with their results. -/
def Obligations.TagsAndSemaphores : Prop :=
  tags ∧ semaphores

/-- fence and sclose. -/
def Obligations.FencesAndStreamClose : Prop :=
  fences ∧ streamClose

/-- rst, rstf and rld send their packets, or trap. -/
def Obligations.RemoteAccesses : Prop :=
  remoteSends ∧ remoteAccessTraps

/-- launch, ttstart, hadv, jmark and jflush. That jflush completes at once (logs 26, 55), that a launch or ttstart that runs
alone reads its image as it then stands (log 30), and the commands that hadv counts (log 99) are the model's choices. -/
def Obligations.LaunchesHaulsAndMarks : Prop :=
  launches ∧ haulAdvance ∧ journalMarks

/-- tlbinv, tlbinva, tlbinva.all, rngset and rngclr complete and drop translations. Which translations rngset and rngclr
drop (log 46) and what the instructions wait for (log 45) are the model's choices. -/
def Obligations.IsolationInstructions : Prop :=
  translationInvalidation ∧ rangeInstructions

/-- trap, eret, eret.ctx, ctxsave and ctxload complete with their effects. -/
def Obligations.TrapsAndContextCommands : Prop :=
  trapAndReturn ∧ contextCommands

/-- Commands of the matrix and copy engines start and complete. The cycle in which a copy row is read (log 93), that an
engine reads behind the writes of its cycle and when it reads (log 7), earliest times taken as exact in free mode (log 16),
the step cycles of an MXINT mma (log 102), PROG 0 after a restart (log 106) and the order of tapered terms (log 101) are the
model's choices. -/
def Obligations.MatrixAndCopyEngines : Prop :=
  matrixEngine ∧ copyEngine

/-- Commands of the quantisation and scatter-accumulate engines. The times of R226 taken as exact in free mode (log 16), and
the cycles in which a quant, a dequant and an sqld entry are read, behind the writes of those cycles (log 7), are the
model's choices. -/
def Obligations.QuantAndScatterEngines : Prop :=
  quantEngine ∧ scatterEngine
end

