-- ==== Sys2Proof/Laws/PerInstr.lean ====
section
/-! SUPPORT. Facts about every constructor of Instr. -/

namespace Sys2Proof.Laws

end Sys2Proof.Laws
end

