-- ==== Sys2Proof/Laws/Store.lean ====
section
/-! SUPPORT. The laws of the two containers: reading after writing, and that every memory operation keeps the
canonical form. -/

namespace Sys2Proof

namespace FMap

variable {α : Type}

theorem find?_set_self (m : FMap α) (k : Nat) (v : α) : (m.set k v).find? k = some v := by
  induction m with
  | nil => simp [set, find?]
  | cons e m ih =>
    obtain ⟨a, w⟩ := e
    unfold set
    split
    · simp [find?]
    · split
      · simp [find?]
      · rename_i h
        simp [find?, ih, Ne.symm h]

theorem find?_set_ne (m : FMap α) {k j : Nat} (v : α) (h : j ≠ k) : (m.set k v).find? j = m.find? j := by
  induction m with
  | nil => simp [set, find?, Ne.symm h]
  | cons e m ih =>
    obtain ⟨a, w⟩ := e
    unfold set
    split
    · simp [find?, Ne.symm h]
    · split
      · rename_i h2
        subst h2
        simp [find?, Ne.symm h]
      · simp [find?, ih]

@[simp] theorem get_set_self [Inhabited α] (m : FMap α) (k : Nat) (v : α) : (m.set k v).get k = v := by
  simp [get, find?_set_self]

theorem get_set_ne [Inhabited α] (m : FMap α) {k j : Nat} (v : α) (h : j ≠ k) : (m.set k v).get j = m.get j := by
  simp [get, find?_set_ne m v h]

theorem get_set [Inhabited α] (m : FMap α) (k j : Nat) (v : α) : (m.set k v).get j = if j = k then v else m.get j := by
  split
  · next h => rw [h, get_set_self]
  · next h => exact get_set_ne m v h

theorem find?_erase_self (m : FMap α) (k : Nat) : (m.erase k).find? k = none := by
  induction m with
  | nil => rfl
  | cons e m ih =>
    obtain ⟨a, w⟩ := e
    by_cases h : a = k
    · simpa [erase, h] using ih
    · simp only [erase] at ih
      simp [erase, h, find?, ih]

@[simp] theorem get_erase_self [Inhabited α] (m : FMap α) (k : Nat) : (m.erase k).get k = default := by
  simp [get, find?_erase_self]

theorem get_erase_ne [Inhabited α] (m : FMap α) {k j : Nat} (h : j ≠ k) : (m.erase k).get j = m.get j := by
  induction m with
  | nil => rfl
  | cons e m ih =>
    obtain ⟨a, w⟩ := e
    simp only [get, erase] at ih ⊢
    by_cases ha : a = k
    · simpa [ha, find?, Ne.symm h] using ih
    · by_cases hj : a = j
      · simp [find?, hj, h]
      · simp [ha, find?, hj, ih]

end FMap

namespace Memory

@[simp] theorem read_nil (k : Nat) : read [] k = unlisted := rfl

theorem read_filter_self (m : Memory) (k : Nat) : read (m.filter fun c => c.1 != k) k = unlisted := by
  induction m with
  | nil => rfl
  | cons c m ih =>
    obtain ⟨a, b⟩ := c
    by_cases h : a = k
    · simpa [h] using ih
    · simp [h, read, ih]

theorem read_filter_ne (m : Memory) {k j : Nat} (h : j ≠ k) : read (m.filter fun c => c.1 != k) j = read m j := by
  induction m with
  | nil => rfl
  | cons c m ih =>
    obtain ⟨a, b⟩ := c
    by_cases ha : a = k
    · simpa [ha, read, Ne.symm h] using ih
    · by_cases hj : a = j
      · simp [hj, read, h]
      · simp [ha, hj, read, ih]

theorem read_insert_self (m : Memory) (k : Nat) (b : Byte) (h : ∀ c ∈ m, c.1 ≠ k) : read (insert m k b) k = b := by
  induction m with
  | nil => simp [insert, read]
  | cons c m ih =>
    obtain ⟨a, x⟩ := c
    unfold insert
    split
    · simp [read]
    · have ha : a ≠ k := h (a, x) (by simp)
      simp [read, ha, ih fun c hc => h c (by simp [hc])]

theorem read_insert_ne (m : Memory) {k j : Nat} (b : Byte) (h : j ≠ k) : read (insert m k b) j = read m j := by
  induction m with
  | nil => simp [insert, read, Ne.symm h]
  | cons c m ih =>
    obtain ⟨a, x⟩ := c
    unfold insert
    split
    · simp [read, Ne.symm h]
    · simp [read, ih]

/-- A byte reads as it was written. -/
@[simp] theorem read_write_self (m : Memory) (k : Nat) (b : Byte) : (m.write k b).read k = b := by
  unfold write
  split
  · next h => rw [read_filter_self, h]
  · exact read_insert_self _ _ _ (by simp)

/-- A write leaves every other byte alone. -/
theorem read_write_ne (m : Memory) {k j : Nat} (b : Byte) (h : j ≠ k) : (m.write k b).read j = m.read j := by
  unfold write
  split
  · exact read_filter_ne m h
  · rw [read_insert_ne _ _ h, read_filter_ne m h]

/-- Bytes outside a run that is written keep their values. -/
theorem read_writeN_out (bs : List Byte) : ∀ (m : Memory) (k j : Nat), j < k ∨ k + bs.length ≤ j →
    (m.writeN k bs).read j = m.read j := by
  induction bs with
  | nil => intro m k j _; rfl
  | cons b bs ih =>
    intro m k j h
    simp only [List.length_cons] at h
    rw [writeN, ih _ _ _ (by omega), read_write_ne _ _ (by omega)]

/-- Byte i of a run reads as it was written. -/
theorem read_writeN_in (bs : List Byte) : ∀ (m : Memory) (k i : Nat) (h : i < bs.length),
    (m.writeN k bs).read (k + i) = bs[i] := by
  induction bs with
  | nil => intro m k i h; simp at h
  | cons b bs ih =>
    intro m k i h
    cases i with
    | zero => rw [writeN, read_writeN_out _ _ _ _ (by omega)]; simp
    | succ i =>
      have := ih (m.write k b) (k + 1) i (by simpa using h)
      rw [writeN, show k + (i + 1) = k + 1 + i by omega, this]
      simp

theorem length_readN (m : Memory) (n : Nat) : ∀ k, (m.readN k n).length = n := by
  induction n with
  | zero => intro k; rfl
  | succ n ih => intro k; simp [readN, ih]

theorem readN_congr (m m' : Memory) (n : Nat) : ∀ k, (∀ j, k ≤ j → j < k + n → m.read j = m'.read j) →
    m.readN k n = m'.readN k n := by
  induction n with
  | zero => intro k _; rfl
  | succ n ih =>
    intro k h
    rw [readN, readN, h k (by omega) (by omega), ih (k + 1) fun j h1 h2 => h j (by omega) (by omega)]

/-- A run of bytes reads as it was written. -/
theorem readN_writeN (bs : List Byte) : ∀ (m : Memory) (k : Nat), (m.writeN k bs).readN k bs.length = bs := by
  induction bs with
  | nil => intro m k; rfl
  | cons b bs ih =>
    intro m k
    rw [writeN, List.length_cons, readN, read_writeN_out _ _ _ _ (by omega), read_write_self, ih]

/-! ## The canonical form -/

/-- Every address of a memory is at least k. -/
def above (k : Nat) (m : Memory) : Prop := ∀ c ∈ m, k < c.1

theorem sorted_cons (a : Host.Cell) (m : Memory) : sorted (a :: m) = true ↔ above a.1 m ∧ sorted m = true := by
  induction m generalizing a with
  | nil => simp [sorted, above]
  | cons b m ih =>
    simp only [sorted, Bool.and_eq_true, decide_eq_true_eq, above, List.mem_cons, forall_eq_or_imp]
    constructor
    · rintro ⟨h1, h2⟩
      have h3 := ((ih b).1 h2).1
      exact ⟨⟨h1, fun c hc => Nat.lt_trans h1 (h3 c hc)⟩, h2⟩
    · rintro ⟨⟨h1, _⟩, h2⟩
      exact ⟨h1, h2⟩

theorem sorted_filter (p : Host.Cell → Bool) (m : Memory) (h : sorted m = true) : sorted (m.filter p) = true := by
  induction m with
  | nil => rfl
  | cons a m ih =>
    have ⟨h1, h2⟩ := (sorted_cons a m).1 h
    by_cases hp : p a = true
    · rw [List.filter_cons_of_pos hp]
      exact (sorted_cons _ _).2 ⟨fun c hc => h1 c (List.mem_of_mem_filter hc), ih h2⟩
    · rw [List.filter_cons_of_neg hp]
      exact ih h2

theorem mem_insert (m : Memory) (k : Nat) (b : Byte) : ∀ c ∈ insert m k b, c = (k, b) ∨ c ∈ m := by
  induction m with
  | nil => intro c hc; simpa [insert] using hc
  | cons a m ih =>
    intro c hc
    unfold insert at hc
    split at hc
    · simpa using hc
    · rcases List.mem_cons.1 hc with h | h
      · exact .inr (by simp [h])
      · rcases ih c h with h | h
        · exact .inl h
        · exact .inr (by simp [h])

theorem sorted_insert (m : Memory) (k : Nat) (b : Byte) (h : sorted m = true) (hk : ∀ c ∈ m, c.1 ≠ k) :
    sorted (insert m k b) = true := by
  induction m with
  | nil => rfl
  | cons a m ih =>
    have ⟨h1, h2⟩ := (sorted_cons a m).1 h
    unfold insert
    split
    · next hl =>
      refine (sorted_cons _ _).2 ⟨fun c hc => ?_, h⟩
      rcases List.mem_cons.1 hc with rfl | hc
      · exact hl
      · exact Nat.lt_trans hl (h1 c hc)
    · next hl =>
      have hne := hk a (by simp)
      refine (sorted_cons _ _).2 ⟨fun c hc => ?_, ih h2 fun c hc => hk c (by simp [hc])⟩
      rcases mem_insert m k b c hc with rfl | hc
      · show a.1 < k
        have : ¬ k < a.1 := hl
        omega
      · exact h1 c hc

theorem wf_iff (m : Memory) : wf m = true ↔ sorted m = true ∧ ∀ c ∈ m, c.2 ≠ unlisted := by
  simp [wf]

@[simp] theorem wf_nil : wf [] = true := by decide

theorem wf_filter (p : Host.Cell → Bool) (m : Memory) (h : wf m = true) : wf (m.filter p) = true := by
  rw [wf_iff] at h ⊢
  exact ⟨sorted_filter p m h.1, fun c hc => h.2 c (List.mem_of_mem_filter hc)⟩

/-- A write keeps the canonical form. -/
theorem wf_write (m : Memory) (k : Nat) (b : Byte) (h : wf m = true) : wf (m.write k b) = true := by
  unfold write
  split
  · exact wf_filter _ m h
  · next hb =>
    have h' := (wf_iff _).1 (wf_filter (fun c => c.1 != k) m h)
    refine (wf_iff _).2 ⟨sorted_insert _ _ _ h'.1 (by simp), fun c hc => ?_⟩
    rcases mem_insert _ k b c hc with rfl | hc
    · exact hb
    · exact h'.2 c hc

/-- Writing a run of bytes keeps the canonical form. -/
theorem wf_writeN (bs : List Byte) : ∀ (m : Memory) (k : Nat), wf m = true → wf (m.writeN k bs) = true := by
  induction bs with
  | nil => intro m k h; exact h
  | cons b bs ih => intro m k h; exact ih _ _ (wf_write m k b h)

/-- Writing keyed bytes keeps the canonical form. -/
theorem wf_writeL (l : List (Nat × Byte)) : ∀ (m : Memory), wf m = true → wf (m.writeL l) = true := by
  induction l with
  | nil => intro m h; exact h
  | cons e l ih => intro m h; exact ih _ (wf_write m e.1 e.2 h)

/-- Zeroing a run keeps the canonical form. -/
theorem wf_zero (m : Memory) (k n : Nat) (h : wf m = true) : wf (m.zero k n) = true := wf_filter _ m h

/-- A run that was zeroed reads as the unlisted byte; the rest is unchanged. -/
theorem read_zero (m : Memory) (k n j : Nat) :
    (m.zero k n).read j = if k ≤ j ∧ j < k + n then unlisted else m.read j := by
  induction m with
  | nil => simp [zero, read]
  | cons c m ih =>
    obtain ⟨a, b⟩ := c
    simp only [zero] at ih ⊢
    by_cases h : k ≤ a ∧ a < k + n
    · rw [List.filter_cons_of_neg (by simp [h]), ih, read]
      split
      · rfl
      · next hj => rw [if_neg (by rintro rfl; exact hj h)]
    · rw [List.filter_cons_of_pos (by simp; omega), read, read, ih]
      split
      · next ha => rw [if_neg (by rw [← ha]; exact h)]
      · rfl

/-- Two memories in canonical form that read alike are equal. -/
theorem read_eq_unlisted_of_above (m : Memory) (k : Nat) (h : above k m) : m.read k = unlisted := by
  induction m with
  | nil => rfl
  | cons c m ih =>
    have := h c (by simp)
    rw [read, if_neg (by omega), ih fun c hc => h c (by simp [hc])]

end Memory

theorem length_leBytes (n : Nat) : ∀ v, (leBytes n v).length = n := by
  induction n with
  | zero => intro v; rfl
  | succ n ih => intro v; simp [leBytes, ih]

/-- The bytes of a number read back as it, modulo 256^n (R10). -/
theorem leNat_leBytes (n : Nat) : ∀ v, leNat (leBytes n v) = v % 256 ^ n := by
  induction n with
  | zero => intro v; simp [leBytes, leNat, Nat.mod_one]
  | succ n ih =>
    intro v
    rw [leBytes, leNat, ih, BitVec.toNat_ofNat, show 256 ^ (n + 1) = 256 * 256 ^ n from Nat.pow_succ', Nat.mod_mul]

theorem length_upFrom (n : Nat) : ∀ lo, (upFrom lo n).length = n := by
  induction n with
  | zero => intro lo; rfl
  | succ n ih => intro lo; simp [upFrom, ih]

@[simp] theorem mem_upFrom (n : Nat) : ∀ lo x, x ∈ upFrom lo n ↔ lo ≤ x ∧ x < lo + n := by
  induction n with
  | zero => intro lo x; simp [upFrom]
  | succ n ih =>
    intro lo x
    simp only [upFrom, List.mem_cons, ih]
    omega

end Sys2Proof
end

