-- ==== Sys2Proof/Laws/State.lean ====
section
/-! SUPPORT. One lemma per field of State per update, and what a place holds after an update. -/

namespace Sys2Proof.Machine

/-! ## State.setDie -/

@[simp] theorem State.setDie_power (s : State) (d : Nat) (v : Die) : (s.setDie d v).power = s.power := rfl
@[simp] theorem State.setDie_frozen (s : State) (d : Nat) (v : Die) : (s.setDie d v).frozen = s.frozen := rfl
@[simp] theorem State.setDie_now (s : State) (d : Nat) (v : Die) : (s.setDie d v).now = s.now := rfl
@[simp] theorem State.setDie_agenda (s : State) (d : Nat) (v : Die) : (s.setDie d v).agenda = s.agenda := rfl
@[simp] theorem State.setDie_focus (s : State) (d : Nat) (v : Die) : (s.setDie d v).focus = s.focus := rfl
@[simp] theorem State.setDie_freeCtr (s : State) (d : Nat) (v : Die) : (s.setDie d v).freeCtr = s.freeCtr := rfl
@[simp] theorem State.setDie_flitNo (s : State) (d : Nat) (v : Die) : (s.setDie d v).flitNo = s.flitNo := rfl
@[simp] theorem State.setDie_mem (s : State) (d : Nat) (v : Die) : (s.setDie d v).mem = s.mem := rfl
@[simp] theorem State.setDie_poison (s : State) (d : Nat) (v : Die) : (s.setDie d v).poison = s.poison := rfl
@[simp] theorem State.setDie_upsets (s : State) (d : Nat) (v : Die) : (s.setDie d v).upsets = s.upsets := rfl
@[simp] theorem State.setDie_lates (s : State) (d : Nat) (v : Die) : (s.setDie d v).lates = s.lates := rfl
@[simp] theorem State.setDie_ctxs (s : State) (d : Nat) (v : Die) : (s.setDie d v).ctxs = s.ctxs := rfl
@[simp] theorem State.setDie_tiles (s : State) (d : Nat) (v : Die) : (s.setDie d v).tiles = s.tiles := rfl
@[simp] theorem State.setDie_trackers (s : State) (d : Nat) (v : Die) : (s.setDie d v).trackers = s.trackers := rfl
@[simp] theorem State.setDie_net (s : State) (d : Nat) (v : Die) : (s.setDie d v).net = s.net := rfl
@[simp] theorem State.setDie_coll (s : State) (d : Nat) (v : Die) : (s.setDie d v).coll = s.coll := rfl
@[simp] theorem State.setDie_hostOut (s : State) (d : Nat) (v : Die) : (s.setDie d v).hostOut = s.hostOut := rfl
@[simp] theorem State.setDie_msix (s : State) (d : Nat) (v : Die) : (s.setDie d v).msix = s.msix := rfl

/-! ## State.setTile -/

@[simp] theorem State.setTile_power (s : State) (d t : Nat) (v : Tile) : (s.setTile d t v).power = s.power := rfl
@[simp] theorem State.setTile_frozen (s : State) (d t : Nat) (v : Tile) : (s.setTile d t v).frozen = s.frozen := rfl
@[simp] theorem State.setTile_now (s : State) (d t : Nat) (v : Tile) : (s.setTile d t v).now = s.now := rfl
@[simp] theorem State.setTile_agenda (s : State) (d t : Nat) (v : Tile) : (s.setTile d t v).agenda = s.agenda := rfl
@[simp] theorem State.setTile_focus (s : State) (d t : Nat) (v : Tile) : (s.setTile d t v).focus = s.focus := rfl
@[simp] theorem State.setTile_freeCtr (s : State) (d t : Nat) (v : Tile) : (s.setTile d t v).freeCtr = s.freeCtr := rfl
@[simp] theorem State.setTile_flitNo (s : State) (d t : Nat) (v : Tile) : (s.setTile d t v).flitNo = s.flitNo := rfl
@[simp] theorem State.setTile_mem (s : State) (d t : Nat) (v : Tile) : (s.setTile d t v).mem = s.mem := rfl
@[simp] theorem State.setTile_poison (s : State) (d t : Nat) (v : Tile) : (s.setTile d t v).poison = s.poison := rfl
@[simp] theorem State.setTile_upsets (s : State) (d t : Nat) (v : Tile) : (s.setTile d t v).upsets = s.upsets := rfl
@[simp] theorem State.setTile_lates (s : State) (d t : Nat) (v : Tile) : (s.setTile d t v).lates = s.lates := rfl
@[simp] theorem State.setTile_ctxs (s : State) (d t : Nat) (v : Tile) : (s.setTile d t v).ctxs = s.ctxs := rfl
@[simp] theorem State.setTile_dies (s : State) (d t : Nat) (v : Tile) : (s.setTile d t v).dies = s.dies := rfl
@[simp] theorem State.setTile_trackers (s : State) (d t : Nat) (v : Tile) : (s.setTile d t v).trackers = s.trackers := rfl
@[simp] theorem State.setTile_net (s : State) (d t : Nat) (v : Tile) : (s.setTile d t v).net = s.net := rfl
@[simp] theorem State.setTile_coll (s : State) (d t : Nat) (v : Tile) : (s.setTile d t v).coll = s.coll := rfl
@[simp] theorem State.setTile_hostOut (s : State) (d t : Nat) (v : Tile) : (s.setTile d t v).hostOut = s.hostOut := rfl
@[simp] theorem State.setTile_msix (s : State) (d t : Nat) (v : Tile) : (s.setTile d t v).msix = s.msix := rfl

/-! ## State.setCtx -/

@[simp] theorem State.setCtx_power (s : State) (d t c : Nat) (v : Ctx) : (s.setCtx d t c v).power = s.power := rfl
@[simp] theorem State.setCtx_frozen (s : State) (d t c : Nat) (v : Ctx) : (s.setCtx d t c v).frozen = s.frozen := rfl
@[simp] theorem State.setCtx_now (s : State) (d t c : Nat) (v : Ctx) : (s.setCtx d t c v).now = s.now := rfl
@[simp] theorem State.setCtx_agenda (s : State) (d t c : Nat) (v : Ctx) : (s.setCtx d t c v).agenda = s.agenda := rfl
@[simp] theorem State.setCtx_focus (s : State) (d t c : Nat) (v : Ctx) : (s.setCtx d t c v).focus = s.focus := rfl
@[simp] theorem State.setCtx_freeCtr (s : State) (d t c : Nat) (v : Ctx) : (s.setCtx d t c v).freeCtr = s.freeCtr := rfl
@[simp] theorem State.setCtx_flitNo (s : State) (d t c : Nat) (v : Ctx) : (s.setCtx d t c v).flitNo = s.flitNo := rfl
@[simp] theorem State.setCtx_mem (s : State) (d t c : Nat) (v : Ctx) : (s.setCtx d t c v).mem = s.mem := rfl
@[simp] theorem State.setCtx_poison (s : State) (d t c : Nat) (v : Ctx) : (s.setCtx d t c v).poison = s.poison := rfl
@[simp] theorem State.setCtx_upsets (s : State) (d t c : Nat) (v : Ctx) : (s.setCtx d t c v).upsets = s.upsets := rfl
@[simp] theorem State.setCtx_lates (s : State) (d t c : Nat) (v : Ctx) : (s.setCtx d t c v).lates = s.lates := rfl
@[simp] theorem State.setCtx_tiles (s : State) (d t c : Nat) (v : Ctx) : (s.setCtx d t c v).tiles = s.tiles := rfl
@[simp] theorem State.setCtx_dies (s : State) (d t c : Nat) (v : Ctx) : (s.setCtx d t c v).dies = s.dies := rfl
@[simp] theorem State.setCtx_trackers (s : State) (d t c : Nat) (v : Ctx) : (s.setCtx d t c v).trackers = s.trackers := rfl
@[simp] theorem State.setCtx_net (s : State) (d t c : Nat) (v : Ctx) : (s.setCtx d t c v).net = s.net := rfl
@[simp] theorem State.setCtx_coll (s : State) (d t c : Nat) (v : Ctx) : (s.setCtx d t c v).coll = s.coll := rfl
@[simp] theorem State.setCtx_hostOut (s : State) (d t c : Nat) (v : Ctx) : (s.setCtx d t c v).hostOut = s.hostOut := rfl
@[simp] theorem State.setCtx_msix (s : State) (d t c : Nat) (v : Ctx) : (s.setCtx d t c v).msix = s.msix := rfl

/-! ## State.modDie -/

@[simp] theorem State.modDie_power (s : State) (d : Nat) (f : Die → Die) : (s.modDie d f).power = s.power := rfl
@[simp] theorem State.modDie_frozen (s : State) (d : Nat) (f : Die → Die) : (s.modDie d f).frozen = s.frozen := rfl
@[simp] theorem State.modDie_now (s : State) (d : Nat) (f : Die → Die) : (s.modDie d f).now = s.now := rfl
@[simp] theorem State.modDie_agenda (s : State) (d : Nat) (f : Die → Die) : (s.modDie d f).agenda = s.agenda := rfl
@[simp] theorem State.modDie_focus (s : State) (d : Nat) (f : Die → Die) : (s.modDie d f).focus = s.focus := rfl
@[simp] theorem State.modDie_freeCtr (s : State) (d : Nat) (f : Die → Die) : (s.modDie d f).freeCtr = s.freeCtr := rfl
@[simp] theorem State.modDie_flitNo (s : State) (d : Nat) (f : Die → Die) : (s.modDie d f).flitNo = s.flitNo := rfl
@[simp] theorem State.modDie_mem (s : State) (d : Nat) (f : Die → Die) : (s.modDie d f).mem = s.mem := rfl
@[simp] theorem State.modDie_poison (s : State) (d : Nat) (f : Die → Die) : (s.modDie d f).poison = s.poison := rfl
@[simp] theorem State.modDie_upsets (s : State) (d : Nat) (f : Die → Die) : (s.modDie d f).upsets = s.upsets := rfl
@[simp] theorem State.modDie_lates (s : State) (d : Nat) (f : Die → Die) : (s.modDie d f).lates = s.lates := rfl
@[simp] theorem State.modDie_ctxs (s : State) (d : Nat) (f : Die → Die) : (s.modDie d f).ctxs = s.ctxs := rfl
@[simp] theorem State.modDie_tiles (s : State) (d : Nat) (f : Die → Die) : (s.modDie d f).tiles = s.tiles := rfl
@[simp] theorem State.modDie_trackers (s : State) (d : Nat) (f : Die → Die) : (s.modDie d f).trackers = s.trackers := rfl
@[simp] theorem State.modDie_net (s : State) (d : Nat) (f : Die → Die) : (s.modDie d f).net = s.net := rfl
@[simp] theorem State.modDie_coll (s : State) (d : Nat) (f : Die → Die) : (s.modDie d f).coll = s.coll := rfl
@[simp] theorem State.modDie_hostOut (s : State) (d : Nat) (f : Die → Die) : (s.modDie d f).hostOut = s.hostOut := rfl
@[simp] theorem State.modDie_msix (s : State) (d : Nat) (f : Die → Die) : (s.modDie d f).msix = s.msix := rfl

/-! ## State.modTile -/

@[simp] theorem State.modTile_power (s : State) (d t : Nat) (f : Tile → Tile) : (s.modTile d t f).power = s.power := rfl
@[simp] theorem State.modTile_frozen (s : State) (d t : Nat) (f : Tile → Tile) : (s.modTile d t f).frozen = s.frozen := rfl
@[simp] theorem State.modTile_now (s : State) (d t : Nat) (f : Tile → Tile) : (s.modTile d t f).now = s.now := rfl
@[simp] theorem State.modTile_agenda (s : State) (d t : Nat) (f : Tile → Tile) : (s.modTile d t f).agenda = s.agenda := rfl
@[simp] theorem State.modTile_focus (s : State) (d t : Nat) (f : Tile → Tile) : (s.modTile d t f).focus = s.focus := rfl
@[simp] theorem State.modTile_freeCtr (s : State) (d t : Nat) (f : Tile → Tile) : (s.modTile d t f).freeCtr = s.freeCtr := rfl
@[simp] theorem State.modTile_flitNo (s : State) (d t : Nat) (f : Tile → Tile) : (s.modTile d t f).flitNo = s.flitNo := rfl
@[simp] theorem State.modTile_mem (s : State) (d t : Nat) (f : Tile → Tile) : (s.modTile d t f).mem = s.mem := rfl
@[simp] theorem State.modTile_poison (s : State) (d t : Nat) (f : Tile → Tile) : (s.modTile d t f).poison = s.poison := rfl
@[simp] theorem State.modTile_upsets (s : State) (d t : Nat) (f : Tile → Tile) : (s.modTile d t f).upsets = s.upsets := rfl
@[simp] theorem State.modTile_lates (s : State) (d t : Nat) (f : Tile → Tile) : (s.modTile d t f).lates = s.lates := rfl
@[simp] theorem State.modTile_ctxs (s : State) (d t : Nat) (f : Tile → Tile) : (s.modTile d t f).ctxs = s.ctxs := rfl
@[simp] theorem State.modTile_dies (s : State) (d t : Nat) (f : Tile → Tile) : (s.modTile d t f).dies = s.dies := rfl
@[simp] theorem State.modTile_trackers (s : State) (d t : Nat) (f : Tile → Tile) : (s.modTile d t f).trackers = s.trackers := rfl
@[simp] theorem State.modTile_net (s : State) (d t : Nat) (f : Tile → Tile) : (s.modTile d t f).net = s.net := rfl
@[simp] theorem State.modTile_coll (s : State) (d t : Nat) (f : Tile → Tile) : (s.modTile d t f).coll = s.coll := rfl
@[simp] theorem State.modTile_hostOut (s : State) (d t : Nat) (f : Tile → Tile) : (s.modTile d t f).hostOut = s.hostOut := rfl
@[simp] theorem State.modTile_msix (s : State) (d t : Nat) (f : Tile → Tile) : (s.modTile d t f).msix = s.msix := rfl

/-! ## State.modCtx -/

@[simp] theorem State.modCtx_power (s : State) (d t c : Nat) (f : Ctx → Ctx) : (s.modCtx d t c f).power = s.power := rfl
@[simp] theorem State.modCtx_frozen (s : State) (d t c : Nat) (f : Ctx → Ctx) : (s.modCtx d t c f).frozen = s.frozen := rfl
@[simp] theorem State.modCtx_now (s : State) (d t c : Nat) (f : Ctx → Ctx) : (s.modCtx d t c f).now = s.now := rfl
@[simp] theorem State.modCtx_agenda (s : State) (d t c : Nat) (f : Ctx → Ctx) : (s.modCtx d t c f).agenda = s.agenda := rfl
@[simp] theorem State.modCtx_focus (s : State) (d t c : Nat) (f : Ctx → Ctx) : (s.modCtx d t c f).focus = s.focus := rfl
@[simp] theorem State.modCtx_freeCtr (s : State) (d t c : Nat) (f : Ctx → Ctx) : (s.modCtx d t c f).freeCtr = s.freeCtr := rfl
@[simp] theorem State.modCtx_flitNo (s : State) (d t c : Nat) (f : Ctx → Ctx) : (s.modCtx d t c f).flitNo = s.flitNo := rfl
@[simp] theorem State.modCtx_mem (s : State) (d t c : Nat) (f : Ctx → Ctx) : (s.modCtx d t c f).mem = s.mem := rfl
@[simp] theorem State.modCtx_poison (s : State) (d t c : Nat) (f : Ctx → Ctx) : (s.modCtx d t c f).poison = s.poison := rfl
@[simp] theorem State.modCtx_upsets (s : State) (d t c : Nat) (f : Ctx → Ctx) : (s.modCtx d t c f).upsets = s.upsets := rfl
@[simp] theorem State.modCtx_lates (s : State) (d t c : Nat) (f : Ctx → Ctx) : (s.modCtx d t c f).lates = s.lates := rfl
@[simp] theorem State.modCtx_tiles (s : State) (d t c : Nat) (f : Ctx → Ctx) : (s.modCtx d t c f).tiles = s.tiles := rfl
@[simp] theorem State.modCtx_dies (s : State) (d t c : Nat) (f : Ctx → Ctx) : (s.modCtx d t c f).dies = s.dies := rfl
@[simp] theorem State.modCtx_trackers (s : State) (d t c : Nat) (f : Ctx → Ctx) : (s.modCtx d t c f).trackers = s.trackers := rfl
@[simp] theorem State.modCtx_net (s : State) (d t c : Nat) (f : Ctx → Ctx) : (s.modCtx d t c f).net = s.net := rfl
@[simp] theorem State.modCtx_coll (s : State) (d t c : Nat) (f : Ctx → Ctx) : (s.modCtx d t c f).coll = s.coll := rfl
@[simp] theorem State.modCtx_hostOut (s : State) (d t c : Nat) (f : Ctx → Ctx) : (s.modCtx d t c f).hostOut = s.hostOut := rfl
@[simp] theorem State.modCtx_msix (s : State) (d t c : Nat) (f : Ctx → Ctx) : (s.modCtx d t c f).msix = s.msix := rfl

/-! ## State.modF -/

@[simp] theorem State.modF_power (s : State) (f : Ctx → Ctx) : (s.modF f).power = s.power := rfl
@[simp] theorem State.modF_frozen (s : State) (f : Ctx → Ctx) : (s.modF f).frozen = s.frozen := rfl
@[simp] theorem State.modF_now (s : State) (f : Ctx → Ctx) : (s.modF f).now = s.now := rfl
@[simp] theorem State.modF_agenda (s : State) (f : Ctx → Ctx) : (s.modF f).agenda = s.agenda := rfl
@[simp] theorem State.modF_focus (s : State) (f : Ctx → Ctx) : (s.modF f).focus = s.focus := rfl
@[simp] theorem State.modF_freeCtr (s : State) (f : Ctx → Ctx) : (s.modF f).freeCtr = s.freeCtr := rfl
@[simp] theorem State.modF_flitNo (s : State) (f : Ctx → Ctx) : (s.modF f).flitNo = s.flitNo := rfl
@[simp] theorem State.modF_mem (s : State) (f : Ctx → Ctx) : (s.modF f).mem = s.mem := rfl
@[simp] theorem State.modF_poison (s : State) (f : Ctx → Ctx) : (s.modF f).poison = s.poison := rfl
@[simp] theorem State.modF_upsets (s : State) (f : Ctx → Ctx) : (s.modF f).upsets = s.upsets := rfl
@[simp] theorem State.modF_lates (s : State) (f : Ctx → Ctx) : (s.modF f).lates = s.lates := rfl
@[simp] theorem State.modF_tiles (s : State) (f : Ctx → Ctx) : (s.modF f).tiles = s.tiles := rfl
@[simp] theorem State.modF_dies (s : State) (f : Ctx → Ctx) : (s.modF f).dies = s.dies := rfl
@[simp] theorem State.modF_trackers (s : State) (f : Ctx → Ctx) : (s.modF f).trackers = s.trackers := rfl
@[simp] theorem State.modF_net (s : State) (f : Ctx → Ctx) : (s.modF f).net = s.net := rfl
@[simp] theorem State.modF_coll (s : State) (f : Ctx → Ctx) : (s.modF f).coll = s.coll := rfl
@[simp] theorem State.modF_hostOut (s : State) (f : Ctx → Ctx) : (s.modF f).hostOut = s.hostOut := rfl
@[simp] theorem State.modF_msix (s : State) (f : Ctx → Ctx) : (s.modF f).msix = s.msix := rfl

/-! ## State.modFT -/

@[simp] theorem State.modFT_power (s : State) (f : Tile → Tile) : (s.modFT f).power = s.power := rfl
@[simp] theorem State.modFT_frozen (s : State) (f : Tile → Tile) : (s.modFT f).frozen = s.frozen := rfl
@[simp] theorem State.modFT_now (s : State) (f : Tile → Tile) : (s.modFT f).now = s.now := rfl
@[simp] theorem State.modFT_agenda (s : State) (f : Tile → Tile) : (s.modFT f).agenda = s.agenda := rfl
@[simp] theorem State.modFT_focus (s : State) (f : Tile → Tile) : (s.modFT f).focus = s.focus := rfl
@[simp] theorem State.modFT_freeCtr (s : State) (f : Tile → Tile) : (s.modFT f).freeCtr = s.freeCtr := rfl
@[simp] theorem State.modFT_flitNo (s : State) (f : Tile → Tile) : (s.modFT f).flitNo = s.flitNo := rfl
@[simp] theorem State.modFT_mem (s : State) (f : Tile → Tile) : (s.modFT f).mem = s.mem := rfl
@[simp] theorem State.modFT_poison (s : State) (f : Tile → Tile) : (s.modFT f).poison = s.poison := rfl
@[simp] theorem State.modFT_upsets (s : State) (f : Tile → Tile) : (s.modFT f).upsets = s.upsets := rfl
@[simp] theorem State.modFT_lates (s : State) (f : Tile → Tile) : (s.modFT f).lates = s.lates := rfl
@[simp] theorem State.modFT_ctxs (s : State) (f : Tile → Tile) : (s.modFT f).ctxs = s.ctxs := rfl
@[simp] theorem State.modFT_dies (s : State) (f : Tile → Tile) : (s.modFT f).dies = s.dies := rfl
@[simp] theorem State.modFT_trackers (s : State) (f : Tile → Tile) : (s.modFT f).trackers = s.trackers := rfl
@[simp] theorem State.modFT_net (s : State) (f : Tile → Tile) : (s.modFT f).net = s.net := rfl
@[simp] theorem State.modFT_coll (s : State) (f : Tile → Tile) : (s.modFT f).coll = s.coll := rfl
@[simp] theorem State.modFT_hostOut (s : State) (f : Tile → Tile) : (s.modFT f).hostOut = s.hostOut := rfl
@[simp] theorem State.modFT_msix (s : State) (f : Tile → Tile) : (s.modFT f).msix = s.msix := rfl

/-! ## State.modR -/

@[simp] theorem State.modR_power (s : State) (f : Regs → Regs) : (s.modR f).power = s.power := rfl
@[simp] theorem State.modR_frozen (s : State) (f : Regs → Regs) : (s.modR f).frozen = s.frozen := rfl
@[simp] theorem State.modR_now (s : State) (f : Regs → Regs) : (s.modR f).now = s.now := rfl
@[simp] theorem State.modR_agenda (s : State) (f : Regs → Regs) : (s.modR f).agenda = s.agenda := rfl
@[simp] theorem State.modR_focus (s : State) (f : Regs → Regs) : (s.modR f).focus = s.focus := rfl
@[simp] theorem State.modR_freeCtr (s : State) (f : Regs → Regs) : (s.modR f).freeCtr = s.freeCtr := rfl
@[simp] theorem State.modR_flitNo (s : State) (f : Regs → Regs) : (s.modR f).flitNo = s.flitNo := rfl
@[simp] theorem State.modR_mem (s : State) (f : Regs → Regs) : (s.modR f).mem = s.mem := rfl
@[simp] theorem State.modR_poison (s : State) (f : Regs → Regs) : (s.modR f).poison = s.poison := rfl
@[simp] theorem State.modR_upsets (s : State) (f : Regs → Regs) : (s.modR f).upsets = s.upsets := rfl
@[simp] theorem State.modR_lates (s : State) (f : Regs → Regs) : (s.modR f).lates = s.lates := rfl
@[simp] theorem State.modR_tiles (s : State) (f : Regs → Regs) : (s.modR f).tiles = s.tiles := rfl
@[simp] theorem State.modR_dies (s : State) (f : Regs → Regs) : (s.modR f).dies = s.dies := rfl
@[simp] theorem State.modR_trackers (s : State) (f : Regs → Regs) : (s.modR f).trackers = s.trackers := rfl
@[simp] theorem State.modR_net (s : State) (f : Regs → Regs) : (s.modR f).net = s.net := rfl
@[simp] theorem State.modR_coll (s : State) (f : Regs → Regs) : (s.modR f).coll = s.coll := rfl
@[simp] theorem State.modR_hostOut (s : State) (f : Regs → Regs) : (s.modR f).hostOut = s.hostOut := rfl
@[simp] theorem State.modR_msix (s : State) (f : Regs → Regs) : (s.modR f).msix = s.msix := rfl

/-! ## State.modE -/

@[simp] theorem State.modE_power (s : State) (f : EngSt → EngSt) : (s.modE f).power = s.power := rfl
@[simp] theorem State.modE_frozen (s : State) (f : EngSt → EngSt) : (s.modE f).frozen = s.frozen := rfl
@[simp] theorem State.modE_now (s : State) (f : EngSt → EngSt) : (s.modE f).now = s.now := rfl
@[simp] theorem State.modE_agenda (s : State) (f : EngSt → EngSt) : (s.modE f).agenda = s.agenda := rfl
@[simp] theorem State.modE_focus (s : State) (f : EngSt → EngSt) : (s.modE f).focus = s.focus := rfl
@[simp] theorem State.modE_freeCtr (s : State) (f : EngSt → EngSt) : (s.modE f).freeCtr = s.freeCtr := rfl
@[simp] theorem State.modE_flitNo (s : State) (f : EngSt → EngSt) : (s.modE f).flitNo = s.flitNo := rfl
@[simp] theorem State.modE_mem (s : State) (f : EngSt → EngSt) : (s.modE f).mem = s.mem := rfl
@[simp] theorem State.modE_poison (s : State) (f : EngSt → EngSt) : (s.modE f).poison = s.poison := rfl
@[simp] theorem State.modE_upsets (s : State) (f : EngSt → EngSt) : (s.modE f).upsets = s.upsets := rfl
@[simp] theorem State.modE_lates (s : State) (f : EngSt → EngSt) : (s.modE f).lates = s.lates := rfl
@[simp] theorem State.modE_tiles (s : State) (f : EngSt → EngSt) : (s.modE f).tiles = s.tiles := rfl
@[simp] theorem State.modE_dies (s : State) (f : EngSt → EngSt) : (s.modE f).dies = s.dies := rfl
@[simp] theorem State.modE_trackers (s : State) (f : EngSt → EngSt) : (s.modE f).trackers = s.trackers := rfl
@[simp] theorem State.modE_net (s : State) (f : EngSt → EngSt) : (s.modE f).net = s.net := rfl
@[simp] theorem State.modE_coll (s : State) (f : EngSt → EngSt) : (s.modE f).coll = s.coll := rfl
@[simp] theorem State.modE_hostOut (s : State) (f : EngSt → EngSt) : (s.modE f).hostOut = s.hostOut := rfl
@[simp] theorem State.modE_msix (s : State) (f : EngSt → EngSt) : (s.modE f).msix = s.msix := rfl

/-! ## State.bump -/

@[simp] theorem State.bump_power (s : State) : (s.bump).power = s.power := rfl
@[simp] theorem State.bump_frozen (s : State) : (s.bump).frozen = s.frozen := rfl
@[simp] theorem State.bump_now (s : State) : (s.bump).now = s.now := rfl
@[simp] theorem State.bump_agenda (s : State) : (s.bump).agenda = s.agenda := rfl
@[simp] theorem State.bump_focus (s : State) : (s.bump).focus = s.focus := rfl
@[simp] theorem State.bump_flitNo (s : State) : (s.bump).flitNo = s.flitNo := rfl
@[simp] theorem State.bump_mem (s : State) : (s.bump).mem = s.mem := rfl
@[simp] theorem State.bump_poison (s : State) : (s.bump).poison = s.poison := rfl
@[simp] theorem State.bump_upsets (s : State) : (s.bump).upsets = s.upsets := rfl
@[simp] theorem State.bump_lates (s : State) : (s.bump).lates = s.lates := rfl
@[simp] theorem State.bump_ctxs (s : State) : (s.bump).ctxs = s.ctxs := rfl
@[simp] theorem State.bump_tiles (s : State) : (s.bump).tiles = s.tiles := rfl
@[simp] theorem State.bump_dies (s : State) : (s.bump).dies = s.dies := rfl
@[simp] theorem State.bump_trackers (s : State) : (s.bump).trackers = s.trackers := rfl
@[simp] theorem State.bump_net (s : State) : (s.bump).net = s.net := rfl
@[simp] theorem State.bump_coll (s : State) : (s.bump).coll = s.coll := rfl
@[simp] theorem State.bump_hostOut (s : State) : (s.bump).hostOut = s.hostOut := rfl
@[simp] theorem State.bump_msix (s : State) : (s.bump).msix = s.msix := rfl

/-! ## State.store -/

@[simp] theorem State.store_power (s : State) (k : Nat) (bs : List Byte) : (s.store k bs).power = s.power := rfl
@[simp] theorem State.store_frozen (s : State) (k : Nat) (bs : List Byte) : (s.store k bs).frozen = s.frozen := rfl
@[simp] theorem State.store_now (s : State) (k : Nat) (bs : List Byte) : (s.store k bs).now = s.now := rfl
@[simp] theorem State.store_agenda (s : State) (k : Nat) (bs : List Byte) : (s.store k bs).agenda = s.agenda := rfl
@[simp] theorem State.store_focus (s : State) (k : Nat) (bs : List Byte) : (s.store k bs).focus = s.focus := rfl
@[simp] theorem State.store_freeCtr (s : State) (k : Nat) (bs : List Byte) : (s.store k bs).freeCtr = s.freeCtr := rfl
@[simp] theorem State.store_flitNo (s : State) (k : Nat) (bs : List Byte) : (s.store k bs).flitNo = s.flitNo := rfl
@[simp] theorem State.store_lates (s : State) (k : Nat) (bs : List Byte) : (s.store k bs).lates = s.lates := rfl
@[simp] theorem State.store_ctxs (s : State) (k : Nat) (bs : List Byte) : (s.store k bs).ctxs = s.ctxs := rfl
@[simp] theorem State.store_tiles (s : State) (k : Nat) (bs : List Byte) : (s.store k bs).tiles = s.tiles := rfl
@[simp] theorem State.store_dies (s : State) (k : Nat) (bs : List Byte) : (s.store k bs).dies = s.dies := rfl
@[simp] theorem State.store_trackers (s : State) (k : Nat) (bs : List Byte) : (s.store k bs).trackers = s.trackers := rfl
@[simp] theorem State.store_net (s : State) (k : Nat) (bs : List Byte) : (s.store k bs).net = s.net := rfl
@[simp] theorem State.store_coll (s : State) (k : Nat) (bs : List Byte) : (s.store k bs).coll = s.coll := rfl
@[simp] theorem State.store_hostOut (s : State) (k : Nat) (bs : List Byte) : (s.store k bs).hostOut = s.hostOut := rfl
@[simp] theorem State.store_msix (s : State) (k : Nat) (bs : List Byte) : (s.store k bs).msix = s.msix := rfl

/-! ## Places -/

@[simp] theorem State.die_setDie_self (s : State) (d : Nat) (v : Die) : (s.setDie d v).die d = v := by
  simp [State.die, State.setDie]
theorem State.die_setDie_ne (s : State) {d e : Nat} (v : Die) (h : e ≠ d) : (s.setDie d v).die e = s.die e := by
  simp [State.die, State.setDie, FMap.get_set_ne _ _ h]
@[simp] theorem State.die_modDie_self (s : State) (d : Nat) (f : Die → Die) : (s.modDie d f).die d = f (s.die d) :=
  s.die_setDie_self d _
theorem State.die_modDie_ne (s : State) {d e : Nat} (f : Die → Die) (h : e ≠ d) : (s.modDie d f).die e = s.die e :=
  s.die_setDie_ne _ h
@[simp] theorem State.tile_setTile_self (s : State) (d t : Nat) (v : Tile) : (s.setTile d t v).tile d t = v := by
  simp [State.tile, State.setTile]
theorem State.tile_setTile_ne (s : State) {d t e u : Nat} (v : Tile) (h : tileKey e u ≠ tileKey d t) :
    (s.setTile d t v).tile e u = s.tile e u := by
  simp [State.tile, State.setTile, FMap.get_set_ne _ _ h]
@[simp] theorem State.tile_modTile_self (s : State) (d t : Nat) (f : Tile → Tile) :
    (s.modTile d t f).tile d t = f (s.tile d t) := s.tile_setTile_self d t _
theorem State.tile_modTile_ne (s : State) {d t e u : Nat} (f : Tile → Tile) (h : tileKey e u ≠ tileKey d t) :
    (s.modTile d t f).tile e u = s.tile e u := s.tile_setTile_ne _ h
@[simp] theorem State.ctx_setCtx_self (s : State) (d t c : Nat) (v : Ctx) : (s.setCtx d t c v).ctx d t c = v := by
  simp [State.ctx, State.setCtx]
theorem State.ctx_setCtx_ne (s : State) {d t c e u x : Nat} (v : Ctx) (h : ctxKey e u x ≠ ctxKey d t c) :
    (s.setCtx d t c v).ctx e u x = s.ctx e u x := by
  simp [State.ctx, State.setCtx, FMap.get_set_ne _ _ h]
@[simp] theorem State.ctx_modCtx_self (s : State) (d t c : Nat) (f : Ctx → Ctx) :
    (s.modCtx d t c f).ctx d t c = f (s.ctx d t c) := s.ctx_setCtx_self d t c _
theorem State.ctx_modCtx_ne (s : State) {d t c e u x : Nat} (f : Ctx → Ctx) (h : ctxKey e u x ≠ ctxKey d t c) :
    (s.modCtx d t c f).ctx e u x = s.ctx e u x := s.ctx_setCtx_ne _ h

/-- What an update of one kind of place leaves of the others. -/
@[simp] theorem State.tile_setDie (s : State) (d e t : Nat) (v : Die) : (s.setDie d v).tile e t = s.tile e t := rfl
@[simp] theorem State.ctx_setDie (s : State) (d e t c : Nat) (v : Die) : (s.setDie d v).ctx e t c = s.ctx e t c := rfl
@[simp] theorem State.die_setTile (s : State) (d t e : Nat) (v : Tile) : (s.setTile d t v).die e = s.die e := rfl
@[simp] theorem State.ctx_setTile (s : State) (d t e u c : Nat) (v : Tile) :
    (s.setTile d t v).ctx e u c = s.ctx e u c := rfl
@[simp] theorem State.die_setCtx (s : State) (d t c e : Nat) (v : Ctx) : (s.setCtx d t c v).die e = s.die e := rfl
@[simp] theorem State.tile_setCtx (s : State) (d t c e u : Nat) (v : Ctx) :
    (s.setCtx d t c v).tile e u = s.tile e u := rfl
@[simp] theorem State.tile_modDie (s : State) (d e t : Nat) (f : Die → Die) : (s.modDie d f).tile e t = s.tile e t := rfl
@[simp] theorem State.ctx_modDie (s : State) (d e t c : Nat) (f : Die → Die) :
    (s.modDie d f).ctx e t c = s.ctx e t c := rfl
@[simp] theorem State.die_modTile (s : State) (d t e : Nat) (f : Tile → Tile) : (s.modTile d t f).die e = s.die e := rfl
@[simp] theorem State.ctx_modTile (s : State) (d t e u c : Nat) (f : Tile → Tile) :
    (s.modTile d t f).ctx e u c = s.ctx e u c := rfl
@[simp] theorem State.die_modCtx (s : State) (d t c e : Nat) (f : Ctx → Ctx) : (s.modCtx d t c f).die e = s.die e := rfl
@[simp] theorem State.tile_modCtx (s : State) (d t c e u : Nat) (f : Ctx → Ctx) :
    (s.modCtx d t c f).tile e u = s.tile e u := rfl
@[simp] theorem State.die_bump (s : State) (d : Nat) : s.bump.die d = s.die d := rfl
@[simp] theorem State.tile_bump (s : State) (d t : Nat) : s.bump.tile d t = s.tile d t := rfl
@[simp] theorem State.ctx_bump (s : State) (d t c : Nat) : s.bump.ctx d t c = s.ctx d t c := rfl

/-! ## The focus -/

@[simp] theorem State.fctx_modF (s : State) (f : Ctx → Ctx) : (s.modF f).fctx = f s.fctx :=
  s.ctx_modCtx_self _ _ _ f
@[simp] theorem State.fctx_modR (s : State) (f : Regs → Regs) : (s.modR f).fctx = { s.fctx with r := f s.fctx.r } :=
  s.fctx_modF _
@[simp] theorem State.fctx_modE (s : State) (f : EngSt → EngSt) : (s.modE f).fctx = { s.fctx with e := f s.fctx.e } :=
  s.fctx_modF _
@[simp] theorem State.fctx_bump (s : State) : s.bump.fctx = s.fctx := rfl
@[simp] theorem State.fctx_modFT (s : State) (f : Tile → Tile) : (s.modFT f).fctx = s.fctx := rfl
@[simp] theorem State.fctx_setDie (s : State) (d : Nat) (v : Die) : (s.setDie d v).fctx = s.fctx := rfl
@[simp] theorem State.fctx_modDie (s : State) (d : Nat) (f : Die → Die) : (s.modDie d f).fctx = s.fctx := rfl
@[simp] theorem State.ftile_modFT (s : State) (f : Tile → Tile) : (s.modFT f).ftile = f s.ftile :=
  s.tile_modTile_self _ _ f
@[simp] theorem State.ftile_modF (s : State) (f : Ctx → Ctx) : (s.modF f).ftile = s.ftile := rfl
@[simp] theorem State.ftile_modR (s : State) (f : Regs → Regs) : (s.modR f).ftile = s.ftile := rfl
@[simp] theorem State.ftile_modE (s : State) (f : EngSt → EngSt) : (s.modE f).ftile = s.ftile := rfl
@[simp] theorem State.ftile_bump (s : State) : s.bump.ftile = s.ftile := rfl
@[simp] theorem State.t_bump (s : State) : s.bump.t = s.t := rfl
@[simp] theorem State.t_modF (s : State) (f : Ctx → Ctx) : (s.modF f).t = s.t := rfl
@[simp] theorem State.t_modR (s : State) (f : Regs → Regs) : (s.modR f).t = s.t := rfl
@[simp] theorem State.t_modE (s : State) (f : EngSt → EngSt) : (s.modE f).t = s.t := rfl

/-! ## Keyed bytes -/

/-- Bytes that are stored read back. -/
theorem State.load_store (s : State) (k : Nat) (bs : List Byte) : (s.store k bs).load k bs.length = bs :=
  Memory.readN_writeN bs s.mem k
/-- A store leaves every other byte alone. -/
theorem State.read_store_out (s : State) (k j : Nat) (bs : List Byte) (h : j < k ∨ k + bs.length ≤ j) :
    (s.store k bs).mem.read j = s.mem.read j := Memory.read_writeN_out bs s.mem k j h
/-- A store keeps the canonical form of memory. -/
theorem State.wf_store (s : State) (k : Nat) (bs : List Byte) (h : s.mem.wf = true) : (s.store k bs).mem.wf = true :=
  Memory.wf_writeN bs s.mem k h

end Sys2Proof.Machine
end

