-- ==== Sys2Proof/Laws/Regs.lean ====
section
/-! SUPPORT. What the register writes do (R52, R53, R88 to R90): each says once what the register holds when the write
has landed, and that nothing else has changed. -/

namespace Sys2Proof.Machine

/-! ## Lists of writes in flight -/

theorem landed_append {w : Nat} (l : List (PWrite w)) (p : PWrite w) (reg u : Nat) (a : BitVec w) :
    landed (l ++ [p]) reg u a = if p.closed reg u then mix p.mask p.val (landed l reg u a) else landed l reg u a := by
  simp [landed, List.foldl_append]

theorem unspec_append {w : Nat} (l : List (PWrite w)) (p : PWrite w) (reg u : Nat) (a : BitVec w) :
    unspec (l ++ [p]) reg u a =
      if p.isOpen reg u then mix p.mask (Config.freeBits w p.free) (unspec l reg u a) else unspec l reg u a := by
  simp [unspec, List.foldl_append]

/-- Writes that are not open leave a value specified. -/
theorem unspec_quiet {w : Nat} (l : List (PWrite w)) (reg u : Nat) (a : BitVec w)
    (h : ∀ p ∈ l, p.reg = reg → p.t0 + p.bound < u) : unspec l reg u a = a := by
  induction l generalizing a with
  | nil => rfl
  | cons p l ih =>
    have hp : p.isOpen reg u = false := by
      by_cases hr : p.reg = reg
      · have := h p (by simp) hr
        simp [PWrite.isOpen]; omega
      · simp [PWrite.isOpen, hr]
    simp only [unspec, List.foldl_cons, hp, Bool.false_eq_true, if_false] at ih ⊢
    exact ih a fun q hq => h q (by simp [hq])

/-- A write to another register changes no reading. -/
theorem readW_append_ne {w : Nat} (base : BitVec w) (l : List (PWrite w)) (p : PWrite w) (reg u : Nat)
    (h : p.reg ≠ reg) : readW base (l ++ [p]) reg u = readW base l reg u := by
  have h' : (p.reg == reg) = false := by simp [h]
  simp [readW, landed_append, unspec_append, PWrite.closed, PWrite.isOpen, h']

/-- A write that has closed is what the register reads, where no other is open. -/
theorem readW_append_closed {w : Nat} (base : BitVec w) (l : List (PWrite w)) (p : PWrite w) (reg u : Nat)
    (hr : p.reg = reg) (hp : p.t0 + p.bound < u) (hl : ∀ q ∈ l, q.reg = reg → q.t0 + q.bound < u) :
    readW base (l ++ [p]) reg u = mix p.mask p.val (readW base l reg u) := by
  have hc : p.closed reg u = true := by simp [PWrite.closed, hr, hp]
  have ho : p.isOpen reg u = false := by simp [PWrite.isOpen]; omega
  rw [readW, landed_append, if_pos hc, unspec_append, ho, if_neg (by simp), unspec_quiet l reg u _ hl, readW,
    unspec_quiet l reg u _ hl]

/-- All bits replaced. -/
@[simp] theorem mix_allOnes {w : Nat} (v a : BitVec w) : mix (BitVec.allOnes w) v a = v := by
  simp [mix]

/-! ## One context changed -/

theorem onlyFocus_modF (s : State) (f : Ctx → Ctx) : OnlyFocus s (s.modF f) :=
  ⟨rfl, fun k hk => by
    simp only [State.modF, State.modCtx, State.setCtx]
    exact FMap.get_set_ne _ _ hk⟩

theorem onlyFocus_refl (s : State) : OnlyFocus s s := ⟨rfl, fun _ _ => rfl⟩

theorem onlyFocus_bump (s t : State) (h : OnlyFocus s t) : OnlyFocus s t.bump := by
  refine ⟨?_, h.2⟩
  have := h.1
  rw [this]
  rfl

/-! ## Scalar registers -/

theorem ws_becomes (s : State) (n : BitVec 6) (v : DWord) (bound : Nat) :
    SBecomes s (s.ws n v bound) n.toNat v bound := by
  intro u hu hq
  unfold State.ws
  split
  · next h => simp [Regs.readS, h]
  · next h =>
    simp only [State.fctx_bump, State.fctx_modR, Regs.readS, h, if_false]
    rw [readW_append_closed _ _ (s.pw n.toNat (BitVec.allOnes 64) v bound) n.toNat u rfl hu hq]
    exact mix_allOnes _ _

theorem ws_only (s : State) (n : BitVec 6) (v : DWord) (bound : Nat) :
    OnlyS s (s.ws n v bound) [n.toNat] ∧ SameFlags s (s.ws n v bound) := by
  unfold State.ws SameFlags
  split
  · exact ⟨⟨⟨onlyFocus_refl s, rfl⟩, fun _ _ _ => rfl, rfl, rfl, rfl, rfl, rfl⟩, rfl⟩
  · next h =>
    refine ⟨⟨⟨onlyFocus_bump _ _ (onlyFocus_modF s _), by simp⟩, fun u m hm => ?_, ?_⟩, ?_⟩
    · simp only [State.fctx_bump, State.fctx_modR, Regs.readS]
      split
      · rfl
      · exact readW_append_ne _ _ _ _ _ (by simpa [State.pw] using fun h => hm (by simp [h]))
    · simp
    · simp

/-! ## Predicates -/

/-- Renaming sends different predicates to different places (R89). -/
theorem physP_inj (soff m n : Nat) (hm : m < 16) (hn : n < 16) (h : physP soff m = physP soff n) : m = n := by
  unfold physP at h
  split at h <;> split at h <;> omega

theorem wp_becomes (s : State) (n : BitVec 4) (v : Bool) (bound : Nat) :
    PBecomes s (s.wp n v bound) n.toNat v bound := by
  intro u hu hq
  unfold State.wp
  split
  · next h => simp [Regs.readP, h]
  · next h =>
    simp only [State.fctx_bump, State.fctx_modR, Regs.readP, h, if_false]
    rw [readW_append_closed _ _ (s.pw (physP s.fctx.r.soff n.toNat) 1 (BitVec.ofBool v) bound)
      (physP s.fctx.r.soff n.toNat) u rfl hu hq]
    simp only [State.pw]
    have : mix (1 : BitVec 1) (BitVec.ofBool v)
        (readW (s.fctx.r.p.get (physP s.fctx.r.soff n.toNat)) s.fctx.r.pW (physP s.fctx.r.soff n.toNat) u)
        = BitVec.ofBool v := mix_allOnes (w := 1) _ _
    rw [this]
    cases v <;> rfl

theorem wp_only (s : State) (n : BitVec 4) (v : Bool) (bound : Nat) :
    OnlyP s (s.wp n v bound) [n.toNat] ∧ SameFlags s (s.wp n v bound) := by
  unfold State.wp SameFlags
  split
  · exact ⟨⟨⟨onlyFocus_refl s, rfl⟩, fun _ _ _ _ => rfl, rfl, rfl, rfl, rfl, rfl⟩, rfl⟩
  · next h =>
    refine ⟨⟨⟨onlyFocus_bump _ _ (onlyFocus_modF s _), by simp⟩, fun u m hm16 hm => ?_, ?_⟩, ?_⟩
    · simp only [State.fctx_bump, State.fctx_modR, Regs.readP]
      split
      · rfl
      · rw [readW_append_ne]
        intro hp
        have := physP_inj _ _ _ n.isLt hm16 hp
        exact hm (by simp [this])
    · simp
    · simp

/-! ## Masks, quires, the operand file -/

theorem wk_becomes (s : State) (n : Nat) (m v : Mask) (bound : Nat) : KBecomes s (s.wk n m v bound) n m v bound := by
  intro u hu hq
  simp only [State.wk, State.fctx_bump, State.fctx_modR, Regs.readK]
  exact readW_append_closed _ _ _ _ _ rfl hu hq

theorem wk_only (s : State) (n : Nat) (m v : Mask) (bound : Nat) :
    OnlyK s (s.wk n m v bound) [n] ∧ SameFlags s (s.wk n m v bound) := by
  refine ⟨⟨⟨onlyFocus_bump _ _ (onlyFocus_modF s _), by simp [State.wk]⟩, fun u j hj => ?_, ?_⟩, ?_⟩
  · simp only [State.wk, State.fctx_bump, State.fctx_modR, Regs.readK]
    exact readW_append_ne _ _ _ _ _ (by simpa [State.pw] using fun h => hj (by simp [h]))
  · simp [State.wk]
  · simp [State.wk, SameFlags]

theorem wo_becomes (s : State) (n : Nat) (m v : VReg) (bound : Nat) : OBecomes s (s.wo n m v bound) n m v bound := by
  intro u hu hq
  simp only [State.wo, State.fctx_bump, State.fctx_modR, Regs.readO]
  exact readW_append_closed _ _ _ _ _ rfl hu hq

theorem wo_only (s : State) (n : Nat) (m v : VReg) (bound : Nat) :
    OnlyO s (s.wo n m v bound) [n] ∧ SameFlags s (s.wo n m v bound) := by
  refine ⟨⟨⟨onlyFocus_bump _ _ (onlyFocus_modF s _), by simp [State.wo]⟩, fun u j hj => ?_, ?_⟩, ?_⟩
  · simp only [State.wo, State.fctx_bump, State.fctx_modR, Regs.readO]
    exact readW_append_ne _ _ _ _ _ (by simpa [State.pw] using fun h => hj (by simp [h]))
  · simp [State.wo]
  · simp [State.wo, SameFlags]

/-! ## Flags -/

/-- A result lands within its bound (R52). -/
theorem landing_le (n bound : Nat) : Config.landing n bound ≤ max bound 1 := by
  have : Config.freeNat 0 n % (max bound 1) < max bound 1 := Nat.mod_lt _ (by omega)
  unfold Config.landing
  omega

theorem readFsr_append (r : Regs) (w : FlagW) (u : Nat) :
    ({ r with fW := r.fW ++ [w] } : Regs).readFsr u = if w.land ≤ u then r.readFsr u ||| w.flags else r.readFsr u := by
  simp [Regs.readFsr, List.foldl_append]

theorem wf_becomes (s : State) (f : Flags) (bound : Nat) (hb : 1 ≤ bound) : FBecomes s (s.wf f bound) f bound := by
  intro u hu
  unfold State.wf
  split
  · next h => simp [h]
  · simp only [State.fctx_bump, State.fctx_modR]
    rw [readFsr_append, if_pos]
    have := landing_le s.freeCtr bound
    simp only
    omega

theorem wf_only (s : State) (f : Flags) (bound : Nat) :
    OnlyRegs s (s.wf f bound) ∧
    (s.wf f bound).fctx.r = { s.fctx.r with fW := (s.wf f bound).fctx.r.fW } := by
  unfold State.wf
  split
  · exact ⟨⟨onlyFocus_refl s, rfl⟩, rfl⟩
  · exact ⟨⟨onlyFocus_bump _ _ (onlyFocus_modF s _), by simp⟩, by simp⟩

end Sys2Proof.Machine
end

