-- ==== Sys2Proof/Laws/Slot.lean ====
section
/-! SUPPORT. What a slot's attempt, a hold and a trap can do (R64, R297, R420): each shared operation says it once. -/

namespace Sys2Proof.Machine

/-! ## The end of an attempt -/

@[simp] theorem finish_ok (s t : State) : finish s (.ok t) = .next t := rfl
@[simp] theorem finish_hold (s : State) (k : Nat) : finish s (.error (.hold k)) = .next (s.noteHold k) := rfl
@[simp] theorem finish_trap (s : State) (i : TrapInfo) : finish s (.error (.trap i)) = .next (s.takeTrap i) := rfl

/-- An attempt ends in a next state, whatever it meets. -/
theorem finish_next (s : State) (r : SlotRes) : ∃ t, finish s r = .next t := by
  rcases r with (k | i) | t
  · exact ⟨_, rfl⟩
  · exact ⟨_, rfl⟩
  · exact ⟨t, rfl⟩

theorem trapIf_eq_ok {b : Bool} {cause eng status addr2 : Nat} {u : Unit} :
    trapIf b cause eng status addr2 = .ok u ↔ b = false := by
  cases b <;> simp [trapIf, trapB]

@[simp] theorem trapIf_false (cause eng status addr2 : Nat) : trapIf false cause eng status addr2 = .ok () := rfl
@[simp] theorem trapIf_true (cause eng status addr2 : Nat) :
    trapIf true cause eng status addr2 = trapB cause eng status addr2 := rfl

theorem holdOr_free {α : Type} (s : State) (kind dev eng status : Nat) (h : s.timed = false) :
    (s.holdOr kind dev eng status : Try α) = holdT kind := by simp [State.holdOr, h]
theorem holdOr_timed {α : Type} (s : State) (kind dev eng status : Nat) (h : s.timed = true) :
    (s.holdOr kind dev eng status : Try α) = trapB dev eng status := by simp [State.holdOr, h]

/-! ## Holds and traps change contexts only -/

theorem holdAt_frame (s : State) (d t c k : Nat) : s.holdAt d t c k = { s with ctxs := (s.holdAt d t c k).ctxs } := rfl
theorem unhold_frame (s : State) (d t c k : Nat) : s.unhold d t c k = { s with ctxs := (s.unhold d t c k).ctxs } := rfl
theorem signalLead_frame (s : State) (d t c : Nat) (b : Bool) :
    s.signalLead d t c b = { s with ctxs := (s.signalLead d t c b).ctxs } := rfl
theorem raise_frame (s : State) (d t c : Nat) (r : Rec) : s.raise d t c r = { s with ctxs := (s.raise d t c r).ctxs } := by
  simp only [State.raise]
  split
  · rfl
  · split <;> rfl
theorem takeTrap_frame (s : State) (i : TrapInfo) : s.takeTrap i = { s with ctxs := (s.takeTrap i).ctxs } :=
  raise_frame s _ _ _ _
theorem raiseI_frame (s : State) (cause eng status addr2 : Nat) :
    s.raiseI cause eng status addr2 = { s with ctxs := (s.raiseI cause eng status addr2).ctxs } :=
  raise_frame s _ _ _ _

@[simp] theorem takeTrap_mem (s : State) (i : TrapInfo) : (s.takeTrap i).mem = s.mem := by rw [takeTrap_frame]
@[simp] theorem takeTrap_tiles (s : State) (i : TrapInfo) : (s.takeTrap i).tiles = s.tiles := by rw [takeTrap_frame]
@[simp] theorem takeTrap_dies (s : State) (i : TrapInfo) : (s.takeTrap i).dies = s.dies := by rw [takeTrap_frame]
@[simp] theorem noteHold_mem (s : State) (k : Nat) : (s.noteHold k).mem = s.mem := rfl
@[simp] theorem noteHold_tiles (s : State) (k : Nat) : (s.noteHold k).tiles = s.tiles := rfl
@[simp] theorem noteHold_dies (s : State) (k : Nat) : (s.noteHold k).dies = s.dies := rfl

/-! ## Main-file registers and quires -/

theorem wv_becomes (s : State) (n : Nat) (m v : VReg) (bound : Nat) : VBecomes s (s.wv n m v bound) n m v bound := by
  intro u hu hq
  simp only [State.wv, mainAt, State.fctx_bump, State.fctx_modR]
  exact readW_append_closed _ _ (s.pw n m v bound) n u rfl hu hq

theorem wv_frame (s : State) (n : Nat) (m v : VReg) (bound : Nat) : OnlyFocus s (s.wv n m v bound) :=
  onlyFocus_bump _ _ (onlyFocus_modF s _)

theorem wq_frame (s : State) (n : Nat) (v : Row) (bound : Nat) : OnlyFocus s (s.wq n v bound) :=
  onlyFocus_bump _ _ (onlyFocus_modF s _)

theorem wqChain_frame (s : State) (n : Nat) (v : Row) (bound : Nat) : OnlyFocus s (s.wqChain n v bound) :=
  onlyFocus_bump _ _ (onlyFocus_modF s _)

/-! ## Memory -/

@[simp] theorem store_mem (s : State) (k : Nat) (bs : List Byte) : (s.store k bs).mem = s.mem.writeN k bs := rfl
theorem store_frame (s : State) (k : Nat) (bs : List Byte) :
    s.store k bs = { s with mem := (s.store k bs).mem, poison := (s.store k bs).poison, upsets := (s.store k bs).upsets } :=
  rfl

end Sys2Proof.Machine
end

