-- ==== Sys2Proof/Tests/Slice0.lean ====
section
/-! SUPPORT. Tests: an ill-formed term for each check, words of every encoding, one step of a small machine, and states that
meet the hypotheses of the statements. -/

namespace Sys2Proof.Tests

open Sys2Proof Sys2Proof.Machine

set_option Elab.async false

/-! ## Small machines -/

/-- A caravan of two tiles in one row with two contexts of ASID 1, in a mode. -/
def carOf (mode : Nat) : Car := { (default : Car) with wb := 1, h := 1, w := 2, nctx := 2, asid := 1, mode := mode }
/-- A context that may issue, with registers s1 to s4 and p1. -/
def ctxOf (s1 s2 s3 s4 : DWord) : Ctx :=
  { (default : Ctx) with
    st := .ready, r := { (default : Regs) with s := [(1, s1), (2, s2), (3, s3), (4, s4)], p := [(1, 1)] } }
/-- The machine of the tests: the caravan at tiles 0 and 1 of die 0, cycle 100, a context in focus at a tile. -/
def mach (mode tile : Nat) (x : Ctx) (y : Tile) : State :=
  { State.reset with
    now := 100
    focus := { Focus.none with tile := tile, no := 5 }
    ctxs := [(tile * 8, x)]
    tiles := [(0, { y with occ := some 1 }), (1, { y with occ := some 1 })]
    dies := [(0, { Die.afterReset true 0 with cars := [(1, carOf mode)], ttc := 100 })] }
/-- A free-mode machine with the focus at the lead. -/
def free (s1 s2 s3 s4 : DWord) : State := mach 0 0 (ctxOf s1 s2 s3 s4) default
/-! ## Words of every encoding, written from R75 to R87 and the opcode table; the stop bit may be 0 or 1 -/

/-- The decoder of a slot class reads the instruction from the syllables. -/
def reads (k : SlotClass) (e : List Syl × Instr) : Bool :=
  match decodeSlot k e.1 with
  | .ok i => i == e.2
  | .error _ => false

/-- Words of slot class S. -/
def wordsS0 : List (List Syl × Instr) :=
  [([0x0057D29C], .add ⟨21, 61, 10, 7, false, none⟩),
   ([0x021758CA], .sub ⟨5, 53, 35, 2, true, none⟩),
   ([0x04984EE4], .mul ⟨38, 4, 59, 9, false, none⟩),
   ([0x070C601C, 0x3D9C1726], .mulh ⟨3, 6, 0, 7, false, some 0x1ece0b93⟩),
   ([0x081A4704], .mulhz ⟨6, 36, 28, 1, false, none⟩),
   ([0x0AF4FA6C], .div ⟨61, 15, 41, 11, false, none⟩),
   ([0x0C966684], .divz ⟨37, 38, 26, 1, false, none⟩),
   ([0x0F0E400E, 0x6B4CB244], .rem ⟨3, 36, 0, 3, true, some 0x35a65922⟩),
   ([0x102A322A], .remz ⟨10, 35, 8, 10, true, none⟩),
   ([0x12935B0C], .and ⟨36, 53, 44, 3, false, none⟩),
   ([0x149A5A52], .or ⟨38, 37, 41, 4, true, none⟩),
   ([0x171E4008, 0x9E7769B2], .xor ⟨7, 36, 0, 2, false, some 0x4f3bb4d9⟩),
   ([0x183A0B26], .andn ⟨14, 32, 44, 9, true, none⟩),
   ([0x1AC957AA], .shl ⟨50, 21, 30, 10, true, none⟩)]
/-- Words of slot class S. -/
def wordsS1 : List (List Syl × Instr) :=
  [([0x1C614434], .shr ⟨24, 20, 16, 13, false, none⟩),
   ([0x1FB7200A, 0x86734722], .sar ⟨45, 50, 0, 2, true, some 0x4339a391⟩),
   ([0x208395B2], .rotl ⟨32, 57, 22, 12, true, none⟩),
   ([0x224E7008], .clz ⟨19, 39, 0, 2, false, none⟩),
   ([0x2485B00E], .ctz ⟨33, 27, 0, 3, true, none⟩),
   ([0x262BC022], .popc ⟨10, 60, 0, 8, true, none⟩),
   ([0x280FEACA], .min ⟨3, 62, 43, 2, true, none⟩),
   ([0x2A5AD5EA], .max ⟨22, 45, 23, 10, true, none⟩),
   ([0x2D9B4008, 0xF1D69ED8], .minz ⟨38, 52, 0, 2, false, some 0x78eb4f6c⟩),
   ([0x2E49FB6C], .maxz ⟨18, 31, 45, 11, false, none⟩),
   ([0x3012FB56], .addsh ⟨4, 47, 45, 5, true, none⟩),
   ([0x324EE67E], .sel ⟨19, 46, 25, 15, true, none⟩),
   ([0x400BD798], .addi ⟨2, 61, 30, 6, false⟩),
   ([0x42A07820], .movi ⟨40, 0x1e0, 8, false, none⟩)]
/-- Words of slot class S. -/
def wordsS2 : List (List Syl × Instr) :=
  [([0x443B12D4], .movhi ⟨14, 0xc4b, 5, false, none⟩),
   ([0x51314020, 0x000000C8], .cmp ⟨3, 5, 0, 2, false, some 100⟩),
   ([0x50C41A90], .cmp ⟨12, 16, 26, 9, false, none⟩),
   ([0x527EF800], .pset ⟨7, 59, 56⟩),
   ([0x54823800], .plog ⟨8, 2, 3, 8⟩),
   ([0x61102A00, 0x00000010], .ld ⟨4, 2, 5, 0, false, some 8⟩),
   ([0x606A4C16], .ld ⟨26, 36, 6, 5, true, none⟩),
   ([0x62E4963A], .st ⟨57, 9, 3, 14, true, none⟩),
   ([0x70738928], .fadd ⟨28, 56, 36, 2, true, 0⟩),
   ([0x725ECE60], .fsub ⟨23, 44, 57, 2, false, 0⟩),
   ([0x74286310], .fmul ⟨10, 6, 12, 1, false, 0⟩),
   ([0x76187218], .fma ⟨6, 7, 8, 1, true, 0⟩),
   ([0x76ACF060], .fma ⟨43, 15, 1, 2, false, 0⟩),
   ([0x78453058], .fdiv ⟨17, 19, 1, 1, true, 0⟩)]
/-- Words of slot class S. -/
def wordsS3 : List (List Syl × Instr) :=
  [([0x7A8D8038], .fsqrt ⟨35, 24, 0, 3, true, 0⟩),
   ([0x7CF49B40], .fmin ⟨61, 9, 45, 0, false, 0⟩),
   ([0x7E7BAE08], .fmax ⟨30, 58, 56, 0, true, 0⟩),
   ([0x80769AB8], .fcmp ⟨7, 26, 26, 11, true, none⟩),
   ([0x821DF034], .fcvt ⟨7, 31, 0, 3, false, 2⟩),
   ([0x84345000], .fclass ⟨13, 5, 0, 0, false, 0⟩),
   ([0x8601D000], .fchk ⟨0, 29, 0, 0, false, 0⟩),
   ([0x90100040], .movsys ⟨4, 1, 0, false⟩),
   ([0x902C048A], .movsys ⟨11, 0x12, 2, true⟩),
   ([0x925846EA], .movctlRead ⟨22, 0x11b, 10, true⟩),
   ([0x9410440A], .movctlWrite ⟨4, 0x110, 2, true⟩),
   ([0x9605D02A], .movstg ⟨1, 1, 13, false, 10, true, none⟩),
   ([0x982A6824], .rdstg ⟨10, 2, 6, true, 9, false, none⟩),
   ([0xA01FD6C6], .rst ⟨7, 61, 6, 3, 1, true⟩)]
/-- Words of slot class S. -/
def wordsS4 : List (List Syl × Instr) :=
  [([0xA21784A2], .rstf ⟨5, 56, 4, 40, true⟩),
   ([0xA464AB9A], .rld ⟨25, 10, 11, 2, 6, true⟩)]
/-- Words of slot class M. -/
def wordsM0 : List (List Syl × Instr) :=
  [([0x00150002], .mma ⟨0, true, false, 2, true, false, true⟩),
   ([0x00C08000], .mma ⟨6, false, false, 0, false, true, false⟩),
   ([0x032E8000], .mzero ⟨37, true, true, false, true⟩),
   ([0x05136C00], .mdrain ⟨8, 2, false, true, 45, true, false⟩),
   ([0x06405802], .mload ⟨2, 11, true⟩),
   ([0x0821F000], .mstore ⟨1, 62, false⟩)]
/-- Words of slot class C. -/
def wordsC0 : List (List Syl × Instr) :=
  [([0x01619402], .copy ⟨2, true, 33, 9, 1, true⟩),
   ([0x033E4002], .bufset ⟨19, 50, true⟩),
   ([0x03C0E000], .bufsetOff ⟨28, 7, false⟩),
   ([0x055B3000], .publish ⟨21, 5, 38⟩)]
/-- Words of slot class E. -/
def wordsE0 : List (List Syl × Instr) :=
  [([0x00B35202], .quant ⟨5, 9, 2, 41, true⟩),
   ([0x02D7AC00], .dequant ⟨6, 11, 3, 22, false⟩),
   ([0x05B00002], .sqld ⟨true, 44, true⟩),
   ([0x06800000], .sqclr ⟨false, true⟩),
   ([0x8155F000], .xpush ⟨5, 2, 11, true, 6⟩),
   ([0x8355F000], .xfetch ⟨5, 2, 11, true, 6⟩),
   ([0x84000000], .xflush),
   ([0x86EC0002], .xcfg ⟨7, 1, 2, true⟩)]
/-- Words of slot class B. -/
def wordsB0 : List (List Syl × Instr) :=
  [([0x00000000], .br),
   ([0x02001500], .brc 10 true),
   ([0x04F80000], .call 31),
   ([0x06400000], .ret 8),
   ([0x08400000], .jmpr 8),
   ([0x0BB8007E], .loop 55 63),
   ([0x0B00017E], .loopRot 32 63),
   ([0x0C00117E], .loopw 8 true 63),
   ([0x0E000000], .yield),
   ([0x10000000], .exit),
   ([0x20FA8000], .allot 31 20),
   ([0x2200C000], .shrink 6),
   ([0x24500170], .balloc 10 true 56),
   ([0x27800080], .bfree 48 64)]
/-- Words of slot class B. -/
def wordsB1 : List (List Syl × Instr) :=
  [([0x28B000BE], .vpark 22 95),
   ([0x2A88007C], .vunpark 17 62),
   ([0x2C000000], .mlease),
   ([0x2E000000], .mrelease),
   ([0x31B5A01E], .launch 54 45 15),
   ([0x3258005E], .barcfg 11 47),
   ([0x3400005E], .bar 47),
   ([0x3600005E], .barw 47),
   ([0x3800125E], .bartst 9 47),
   ([0x3A100000], .hadv 2),
   ([0x3C77A01E], .ttstart 14 61 15),
   ([0x40300001], .waitany 6),
   ([0x41E80000], .waitany 61),
   ([0x43100000], .waitall 34)]
/-- Words of slot class B. -/
def wordsB2 : List (List Syl × Instr) :=
  [([0x4438C001], .ffr 7 6),
   ([0x44C14000], .ffr 24 10),
   ([0x47680000], .tagclr 45),
   ([0x5030000B], .semw 6 5),
   ([0x5118007E], .semw 35 63),
   ([0x53D8007E], .semsig 59 63),
   ([0x5410007E], .semset 2 63),
   ([0x56000007], .sclose 3),
   ([0x5600001E], .sclose 15),
   ([0x5800000E], .fence 7),
   ([0x618C407E], .rngset 49 34 63),
   ([0x6202807E], .rngclr 20 63),
   ([0x65FD4000], .tlbinv 63 42),
   ([0x66070000], .tlbinva 56)]
/-- Words of slot class B. -/
def wordsB3 : List (List Syl × Instr) :=
  [([0x66000100], .tlbinvaAll),
   ([0x70000018], .trap 12),
   ([0x72000000], .eret),
   ([0x73680102], .eretCtx 45 1),
   ([0x75BA2000], .ctxsave 55 17),
   ([0x77130000], .ctxload 34 24),
   ([0x7820000F], .jmark 4 7),
   ([0x79D8002C], .jmark 59 22),
   ([0x7A000001], .jflush)]
/-- Words of slot class V. -/
def wordsV0 : List (List Syl × Instr) :=
  [([0x00850328, 0x06009B08], .vadd ⟨0x85, 0x3, 2, true, false, false, 0x6, 0x0, 9, 5, true, 0, 0, true, false, false⟩),
   ([0x01850388, 0x06009B20], .vsub ⟨0x85, 0x3, 8, true, false, false, 0x6, 0x0, 9, 5, true, 0, 2, false, false, false⟩),
   ([0x028503B8, 0x06009BC0], .vmul ⟨0x85, 0x3, 11, true, false, false, 0x6, 0x0, 9, 5, true, 3, 0, false, false, false⟩),
   ([0x03FF0D50, 0x1200FF00], .vmulh ⟨0xff, 0xd, 5, false, false, false, 0x12, 0x0, 15, 7, true, 0, 0, false, false, false⟩),
   ([0x0482019E, 0x0203C946], .vfma ⟨0x82, 0x1, 9, true, true, true, 0x2, 0x3, 12, 4, true, 1, 0, false, true, true⟩),
   ([0x05850328, 0x06009B00], .vmin ⟨0x85, 0x3, 2, true, false, false, 0x6, 0x0, 9, 5, true, 0, 0, false, false, false⟩),
   ([0x06850368, 0x06009B10], .vmax ⟨0x85, 0x3, 6, true, false, false, 0x6, 0x0, 9, 5, true, 0, 1, false, false, false⟩),
   ([0x07850328, 0x00009B08], .vabs ⟨0x85, 0x3, 2, true, false, false, 0x0, 0x0, 9, 5, true, 0, 0, true, false, false⟩),
   ([0x08850338, 0x00009B08], .vneg ⟨0x85, 0x3, 3, true, false, false, 0x0, 0x0, 9, 5, true, 0, 0, true, false, false⟩),
   ([0x091001A4, 0x04003500], .vand ⟨0x10, 0x1, 10, false, true, false, 0x4, 0x0, 3, 2, true, 0, 0, false, false, false⟩),
   ([0x0A1001A4, 0x04003500], .vor ⟨0x10, 0x1, 10, false, true, false, 0x4, 0x0, 3, 2, true, 0, 0, false, false, false⟩),
   ([0x0B1001A4, 0x04003500], .vxor ⟨0x10, 0x1, 10, false, true, false, 0x4, 0x0, 3, 2, true, 0, 0, false, false, false⟩),
   ([0x0C1001A4, 0x04003500], .vandn ⟨0x10, 0x1, 10, false, true, false, 0x4, 0x0, 3, 2, true, 0, 0, false, false, false⟩),
   ([0x0DFF0D50, 0x1200FF08], .vshl ⟨0xff, 0xd, 5, false, false, false, 0x12, 0x0, 15, 7, true, 0, 0, true, false, false⟩)]
/-- Words of slot class V. -/
def wordsV1 : List (List Syl × Instr) :=
  [([0x0EFF0D50, 0x1200FF00], .vshr ⟨0xff, 0xd, 5, false, false, false, 0x12, 0x0, 15, 7, true, 0, 0, false, false, false⟩),
   ([0x0FFF0D50, 0x1200FF00], .vsar ⟨0xff, 0xd, 5, false, false, false, 0x12, 0x0, 15, 7, true, 0, 0, false, false, false⟩),
   ([0x100602A0, 0x030B5300], .vcmp ⟨0x6, 0x2, 10, false, false, false, 0x3, 0xb, 5, 1, true, 0, 0, false, false, false⟩),
   ([0x11880488, 0x05002600], .vsel ⟨0x88, 0x4, 8, true, false, false, 0x5, 0x0, 2, 3, false, 0, 0, false, false, false⟩),
   ([0x12FF0D50, 0x0000FF00], .vclz ⟨0xff, 0xd, 5, false, false, false, 0x0, 0x0, 15, 7, true, 0, 0, false, false, false⟩),
   ([0x13FF0D00, 0x0000FF00], .vpopc ⟨0xff, 0xd, 0, false, false, false, 0x0, 0x0, 15, 7, true, 0, 0, false, false, false⟩),
   ([0x14030104, 0x0200F000], .vcrc ⟨0x3, 0x1, 0, false, true, false, 0x2, 0x0, 15, 0, false, 0, 0, false, false, false⟩),
   ([0x1504C178, 0x0000B000], .vmov ⟨0x4, 0xc1, 7, true, false, false, 0x0, 0x0, 11, 0, false, 0, 0, false, false, false⟩),
   ([0x16070500, 0x030D0000], .klog ⟨0x7, 0x5, 0, false, false, false, 0x3, 0xd, 0, 0, false, 0, 0, false, false, false⟩),
   ([0x179A2C30, 0x0000F000], .vsplat ⟨0x9a, 0x2c, 3, false, false, false, 0x0, 0x0, 15, 0, false, 0, 0, false, false, false⟩),
   ([0x18330628, 0x11000000], .vext ⟨0x33, 0x6, 2, true, false, false, 0x11, 0x0, 0, 0, false, 0, 0, false, false, false⟩),
   ([0x19051E90, 0x2A000000], .vins ⟨0x5, 0x1e, 9, false, false, false, 0x2a, 0x0, 0, 0, false, 0, 0, false, false, false⟩),
   ([0x1AA00C40, 0x00008900], .vld ⟨0xa0, 0xc, 4, false, false, false, 0x0, 0x0, 8, 4, true, 0, 0, false, false, false⟩),
   ([0x1B001364, 0x07008000], .vst ⟨0x0, 0x13, 6, false, true, false, 0x7, 0x0, 8, 0, false, 0, 0, false, false, false⟩)]
/-- Words of slot class V. -/
def wordsV2 : List (List Syl × Instr) :=
  [([0x1C111440, 0x0300A000], .vgather ⟨0x11, 0x14, 4, false, false, false, 0x3, 0x0, 10, 0, false, 0, 0, false, false, false⟩),
   ([0x1D0015B2, 0x0306A000], .vscatter ⟨0x0, 0x15, 11, false, false, true, 0x3, 0x6, 10, 0, false, 0, 0, false, false, false⟩),
   ([0x1E001300, 0x00060000], .gset ⟨0x0, 0x13, 0, false, false, false, 0x0, 0x6, 0, 0, false, 0, 0, false, false, false⟩),
   ([0x1F000000, 0x00A50000], .greset ⟨0x0, 0x0, 0, false, false, false, 0x0, 0xa5, 0, 0, false, 0, 0, false, false, false⟩),
   ([0x20900218, 0x21007300], .vrotr ⟨0x90, 0x2, 1, true, false, false, 0x21, 0x0, 7, 1, true, 0, 0, false, false, false⟩),
   ([0x21900218, 0x21007300], .vrotc ⟨0x90, 0x2, 1, true, false, false, 0x21, 0x0, 7, 1, true, 0, 0, false, false, false⟩),
   ([0x22900218, 0x21007300], .vbcr ⟨0x90, 0x2, 1, true, false, false, 0x21, 0x0, 7, 1, true, 0, 0, false, false, false⟩),
   ([0x23900218, 0x21007300], .vbcc ⟨0x90, 0x2, 1, true, false, false, 0x21, 0x0, 7, 1, true, 0, 0, false, false, false⟩),
   ([0x248105B8, 0x00086780], .vredr ⟨0x81, 0x5, 11, true, false, false, 0x0, 0x8, 6, 3, true, 2, 0, false, false, false⟩),
   ([0x25810548, 0x00056700], .vredc ⟨0x81, 0x5, 4, true, false, false, 0x0, 0x5, 6, 3, true, 0, 0, false, false, false⟩),
   ([0x26810578, 0x00026710], .vscanR ⟨0x81, 0x5, 7, true, false, false, 0x0, 0x2, 6, 3, true, 0, 1, false, false, false⟩),
   ([0x27810528, 0x00006708], .vscanC ⟨0x81, 0x5, 2, true, false, false, 0x0, 0x0, 6, 3, true, 0, 0, true, false, false⟩),
   ([0x28010020, 0x0000F000], .vtrn ⟨0x1, 0x0, 2, false, false, false, 0x0, 0x0, 15, 0, false, 0, 0, false, false, false⟩),
   ([0x291001A4, 0x04003500], .vshfr ⟨0x10, 0x1, 10, false, true, false, 0x4, 0x0, 3, 2, true, 0, 0, false, false, false⟩)]
/-- Words of slot class V. -/
def wordsV3 : List (List Syl × Instr) :=
  [([0x2A830258, 0x03091000], .vtopk ⟨0x83, 0x2, 5, true, false, false, 0x3, 0x9, 1, 0, false, 0, 0, false, false, false⟩),
   ([0x2B8401B0, 0x0027E500], .vcvt ⟨0x84, 0x1, 11, false, false, false, 0x0, 0x27, 14, 2, true, 0, 0, false, false, false⟩),
   ([0x300E0798, 0x00004D40], .vrcp ⟨0xe, 0x7, 9, true, false, false, 0x0, 0x0, 4, 6, true, 1, 0, false, false, false⟩),
   ([0x31021170, 0x00004D30], .vrsq ⟨0x2, 0x11, 7, false, false, false, 0x0, 0x0, 4, 6, true, 0, 3, false, false, false⟩),
   ([0x320E0798, 0x00004D40], .vsqrt ⟨0xe, 0x7, 9, true, false, false, 0x0, 0x0, 4, 6, true, 1, 0, false, false, false⟩),
   ([0x330E0798, 0x03004D40], .vdiv ⟨0xe, 0x7, 9, true, false, false, 0x3, 0x0, 4, 6, true, 1, 0, false, false, false⟩),
   ([0x340E0798, 0x00004D40], .vexp2 ⟨0xe, 0x7, 9, true, false, false, 0x0, 0x0, 4, 6, true, 1, 0, false, false, false⟩),
   ([0x35021170, 0x00004D30], .vlog2 ⟨0x2, 0x11, 7, false, false, false, 0x0, 0x0, 4, 6, true, 0, 3, false, false, false⟩),
   ([0x360E0798, 0x00004D40], .vexp ⟨0xe, 0x7, 9, true, false, false, 0x0, 0x0, 4, 6, true, 1, 0, false, false, false⟩),
   ([0x37021170, 0x00004D30], .vlog ⟨0x2, 0x11, 7, false, false, false, 0x0, 0x0, 4, 6, true, 0, 3, false, false, false⟩),
   ([0x380E0798, 0x00004D40], .vtanh ⟨0xe, 0x7, 9, true, false, false, 0x0, 0x0, 4, 6, true, 1, 0, false, false, false⟩),
   ([0x39021170, 0x00004D30], .vsig ⟨0x2, 0x11, 7, false, false, false, 0x0, 0x0, 4, 6, true, 0, 3, false, false, false⟩),
   ([0x3A0E0798, 0x00004D40], .vsin ⟨0xe, 0x7, 9, true, false, false, 0x0, 0x0, 4, 6, true, 1, 0, false, false, false⟩),
   ([0x3B021170, 0x00004D30], .vcos ⟨0x2, 0x11, 7, false, false, false, 0x0, 0x0, 4, 6, true, 0, 3, false, false, false⟩)]
/-- Words of slot class V. -/
def wordsV4 : List (List Syl × Instr) :=
  [([0x40050000, 0x00000000], .qclr ⟨0x5, 0x0, 0, false, false, false, 0x0, 0x0, 0, 0, false, 0, 0, false, false, false⟩),
   ([0x41040280, 0x00003D10], .qadd ⟨0x4, 0x2, 8, false, false, false, 0x0, 0x0, 3, 6, true, 0, 1, false, false, false⟩),
   ([0x42030AA0, 0x00007000], .qsub ⟨0x3, 0xa, 10, false, false, false, 0x0, 0x0, 7, 0, false, 0, 0, false, false, false⟩),
   ([0x43060170, 0x1203F020], .qdot ⟨0x6, 0x1, 7, false, false, false, 0x12, 0x3, 15, 0, false, 0, 2, false, false, false⟩),
   ([0x44010200, 0x07000000], .qaddq ⟨0x1, 0x2, 0, false, false, false, 0x7, 0x0, 0, 0, false, 0, 0, false, false, false⟩),
   ([0x45070000, 0x04000000], .qsubq ⟨0x7, 0x0, 0, false, false, false, 0x4, 0x0, 0, 0, false, 0, 0, false, false, false⟩),
   ([0x46020500, 0x00000000], .qneg ⟨0x2, 0x5, 0, false, false, false, 0x0, 0x0, 0, 0, false, 0, 0, false, false, false⟩),
   ([0x472803B0, 0x00000080], .qrnd ⟨0x28, 0x3, 11, false, false, false, 0x0, 0x0, 0, 0, false, 2, 0, false, false, false⟩),
   ([0x48001600, 0x06000000], .qsave ⟨0x0, 0x16, 0, false, false, false, 0x6, 0x0, 0, 0, false, 0, 0, false, false, false⟩),
   ([0x49053D00, 0x00000000], .qload ⟨0x5, 0x3d, 0, false, false, false, 0x0, 0x0, 0, 0, false, 0, 0, false, false, false⟩),
   ([0x4A870100, 0x00000000], .qtov ⟨0x87, 0x1, 0, false, false, false, 0x0, 0x0, 0, 0, false, 0, 0, false, false, false⟩),
   ([0x4B020800, 0x00000000], .vtoq ⟨0x2, 0x8, 0, false, false, false, 0x0, 0x0, 0, 0, false, 0, 0, false, false, false⟩)]

theorem test_decode_S0 : wordsS0.all (reads .s) = true := by decide +kernel
theorem test_decode_S1 : wordsS1.all (reads .s) = true := by decide +kernel
theorem test_decode_S2 : wordsS2.all (reads .s) = true := by decide +kernel
theorem test_decode_S3 : wordsS3.all (reads .s) = true := by decide +kernel
theorem test_decode_S4 : wordsS4.all (reads .s) = true := by decide +kernel
theorem test_decode_M0 : wordsM0.all (reads .m) = true := by decide +kernel
theorem test_decode_C0 : wordsC0.all (reads .c) = true := by decide +kernel
theorem test_decode_E0 : wordsE0.all (reads .e) = true := by decide +kernel
theorem test_decode_B0 : wordsB0.all (reads .b) = true := by decide +kernel
theorem test_decode_B1 : wordsB1.all (reads .b) = true := by decide +kernel
theorem test_decode_B2 : wordsB2.all (reads .b) = true := by decide +kernel
theorem test_decode_B3 : wordsB3.all (reads .b) = true := by decide +kernel
theorem test_decode_V0 : wordsV0.all (reads .v) = true := by decide +kernel
theorem test_decode_V1 : wordsV1.all (reads .v) = true := by decide +kernel
theorem test_decode_V2 : wordsV2.all (reads .v) = true := by decide +kernel
theorem test_decode_V3 : wordsV3.all (reads .v) = true := by decide +kernel
theorem test_decode_V4 : wordsV4.all (reads .v) = true := by decide +kernel
/-! ## Well-formedness: an ill-formed term for each check, which the check refuses with its status -/

/-- Ill-formed terms. -/
def bad0 : List (Instr × Reject) :=
  [(.vst ⟨0x1, 0x13, 6, false, true, false, 0x7, 0x0, 8, 0, false, 0, 0, false, false, false⟩, .reserved),
   (.vext ⟨0x40, 0x6, 2, true, false, false, 0x11, 0x0, 0, 0, false, 0, 0, false, false, false⟩, .reserved),
   (.vsplat ⟨0x9a, 0x40, 3, false, false, false, 0x0, 0x0, 15, 0, false, 0, 0, false, false, false⟩, .reserved),
   (.qclr ⟨0x5, 0x1, 0, false, false, false, 0x0, 0x0, 0, 0, false, 0, 0, false, false, false⟩, .reserved),
   (.vmov ⟨0x4, 0xc1, 7, true, false, false, 0x1, 0x0, 11, 0, false, 0, 0, false, false, false⟩, .reserved),
   (.vrotr ⟨0x90, 0x2, 1, true, false, false, 0x40, 0x0, 7, 1, true, 0, 0, false, false, false⟩, .reserved),
   (.vadd ⟨0x85, 0x3, 2, true, false, false, 0x6, 0x1, 9, 5, true, 0, 0, true, false, false⟩, .reserved),
   (.gset ⟨0x0, 0x13, 0, false, false, false, 0x0, 0x8, 0, 0, false, 0, 0, false, false, false⟩, .reserved),
   (.vcmp ⟨0x6, 0x2, 10, false, false, false, 0x3, 0x10, 5, 1, true, 0, 0, false, false, false⟩, .reserved),
   (.klog ⟨0x7, 0x5, 0, false, false, false, 0x3, 0x10, 0, 0, false, 0, 0, false, false, false⟩, .reserved),
   (.vredr ⟨0x81, 0x5, 11, true, false, false, 0x0, 0x10, 6, 3, true, 2, 0, false, false, false⟩, .reserved),
   (.qdot ⟨0x6, 0x1, 7, false, false, false, 0x12, 0x4, 15, 0, false, 0, 2, false, false, false⟩, .reserved),
   (.vtopk ⟨0x83, 0x2, 5, true, false, false, 0x3, 0x40, 1, 0, false, 0, 0, false, false, false⟩, .reserved),
   (.vadd ⟨0x85, 0x8, 2, true, false, false, 0x6, 0x0, 9, 5, true, 0, 0, true, false, false⟩, .reserved),
   (.vadd ⟨0x85, 0x3, 2, true, true, false, 0x10, 0x0, 9, 5, true, 0, 0, true, false, false⟩, .reserved),
   (.vadd ⟨0x85, 0x3, 2, true, false, true, 0x6, 0x0, 9, 5, true, 0, 0, true, false, false⟩, .reserved),
   (.vmov ⟨0x4, 0x9, 7, true, false, false, 0x0, 0x0, 11, 0, false, 0, 0, false, false, false⟩, .reserved),
   (.gset ⟨0x0, 0x12, 0, true, false, false, 0x0, 0x6, 0, 0, false, 0, 0, false, false, false⟩, .reserved),
   (.vfma ⟨0x82, 0x1, 9, true, true, true, 0x2, 0xd, 12, 4, true, 1, 0, false, true, true⟩, .reserved),
   (.vext ⟨0x33, 0x6, 2, true, true, false, 0x11, 0x0, 0, 0, false, 0, 0, false, false, false⟩, .reserved),
   (.vext ⟨0x33, 0x6, 2, true, false, false, 0x11, 0x0, 1, 0, false, 0, 0, false, false, false⟩, .reserved),
   (.vins ⟨0x5, 0x1e, 9, false, false, false, 0x2a, 0x0, 15, 0, false, 0, 0, false, false, false⟩, .reserved)]
/-- Ill-formed terms. -/
def bad1 : List (Instr × Reject) :=
  [(.qrnd ⟨0x28, 0x3, 11, false, false, false, 0x0, 0x0, 1, 0, false, 2, 0, false, false, false⟩, .reserved),
   (.vsel ⟨0x88, 0x4, 8, true, false, false, 0x5, 0x0, 2, 3, true, 0, 0, false, false, false⟩, .reserved),
   (.vtrn ⟨0x1, 0x0, 2, false, false, false, 0x0, 0x0, 15, 0, true, 0, 0, false, false, false⟩, .reserved),
   (.vtrn ⟨0x1, 0x0, 2, false, false, false, 0x0, 0x0, 15, 1, false, 0, 0, false, false, false⟩, .reserved),
   (.vcrc ⟨0x3, 0x1, 0, false, true, false, 0x2, 0x0, 15, 7, false, 0, 0, false, false, false⟩, .reserved),
   (.qadd ⟨0x4, 0x2, 8, true, false, false, 0x0, 0x0, 3, 6, true, 0, 1, false, false, false⟩, .reserved),
   (.klog ⟨0x7, 0x5, 1, false, false, false, 0x3, 0xd, 0, 0, false, 0, 0, false, false, false⟩, .reserved),
   (.vcrc ⟨0x3, 0x1, 4, false, true, false, 0x2, 0x0, 15, 0, false, 0, 0, false, false, false⟩, .reserved),
   (.qsave ⟨0x0, 0x16, 11, false, false, false, 0x6, 0x0, 0, 0, false, 0, 0, false, false, false⟩, .reserved),
   (.vadd ⟨0x85, 0x3, 2, true, false, false, 0x6, 0x0, 9, 5, true, 0, 1, true, false, false⟩, .reserved),
   (.vand ⟨0x10, 0x1, 7, false, true, false, 0x4, 0x0, 3, 2, true, 0, 1, false, false, false⟩, .reserved),
   (.vadd ⟨0x85, 0x3, 2, true, false, false, 0x6, 0x0, 9, 5, true, 1, 0, true, false, false⟩, .reserved),
   (.vmin ⟨0x85, 0x3, 9, true, false, false, 0x6, 0x0, 9, 5, true, 1, 0, false, false, false⟩, .reserved),
   (.vadd ⟨0x85, 0x3, 7, true, false, false, 0x6, 0x0, 9, 5, true, 1, 0, false, false, false⟩, .reserved),
   (.vredr ⟨0x81, 0x5, 11, true, false, false, 0x0, 0x1, 6, 3, true, 2, 0, false, false, false⟩, .reserved),
   (.vand ⟨0x10, 0x1, 10, false, true, false, 0x4, 0x0, 3, 2, true, 0, 0, true, false, false⟩, .reserved),
   (.vadd ⟨0x85, 0x3, 9, true, false, false, 0x6, 0x0, 9, 5, true, 0, 0, true, false, false⟩, .reserved),
   (.vabs ⟨0x85, 0x3, 1, true, false, false, 0x0, 0x0, 9, 5, true, 0, 0, true, false, false⟩, .reserved),
   (.vscanC ⟨0x81, 0x5, 2, true, false, false, 0x0, 0x1, 6, 3, true, 0, 0, true, false, false⟩, .reserved),
   (.vadd ⟨0x85, 0x3, 2, true, false, false, 0x6, 0x0, 9, 5, true, 0, 0, true, true, false⟩, .reserved),
   (.vmul ⟨0x85, 0x3, 11, true, false, false, 0x6, 0x0, 9, 5, true, 3, 0, false, false, true⟩, .reserved),
   (.vcvt ⟨0x84, 0x1, 11, false, false, false, 0x0, 0x27, 14, 2, true, 0, 1, false, false, false⟩, .reserved)]
/-- Ill-formed terms. -/
def bad2 : List (Instr × Reject) :=
  [(.vcvt ⟨0x84, 0x1, 11, false, false, false, 0x0, 0x19, 14, 2, true, 0, 0, false, false, false⟩, .reserved),
   (.vcvt ⟨0x84, 0x1, 11, false, false, false, 0x0, 0x27, 14, 2, true, 1, 0, false, false, false⟩, .reserved),
   (.vcvt ⟨0x84, 0x1, 11, false, false, false, 0x0, 0x27, 14, 2, true, 0, 0, true, false, false⟩, .reserved),
   (.vcvt ⟨0x84, 0x1, 11, false, false, false, 0x0, 0x49, 14, 2, true, 0, 0, false, false, false⟩, .operand),
   (.vcvt ⟨0x84, 0x1, 11, false, false, false, 0x0, 0x86, 14, 2, true, 0, 0, false, false, false⟩, .operand),
   (.vcvt ⟨0x84, 0x1, 12, false, false, false, 0x0, 0x27, 14, 2, true, 0, 0, false, false, false⟩, .operand),
   (.vcvt ⟨0x84, 0x1, 11, false, false, false, 0x0, 0xc, 14, 2, true, 0, 0, false, false, false⟩, .operand),
   (.vcvt ⟨0x84, 0x1, 8, false, false, false, 0x0, 0x27, 14, 2, true, 0, 3, false, false, false⟩, .operand),
   (.vcvt ⟨0x84, 0x1, 11, false, false, false, 0x0, 0x38, 14, 2, true, 0, 0, false, false, false⟩, .operand),
   (.vredr ⟨0x81, 0x5, 4, true, false, false, 0x0, 0x8, 6, 3, true, 0, 0, false, false, false⟩, .reserved),
   (.vredr ⟨0x81, 0x5, 11, true, false, false, 0x0, 0x9, 6, 3, true, 0, 0, false, false, false⟩, .reserved),
   (.vredr ⟨0x81, 0x5, 11, true, false, false, 0x0, 0x6, 6, 3, true, 0, 0, false, false, false⟩, .operand),
   (.vredr ⟨0x81, 0x5, 11, true, false, false, 0x0, 0x3, 6, 3, true, 0, 0, false, false, false⟩, .operand),
   (.vadd ⟨0x85, 0x3, 12, true, false, false, 0x6, 0x0, 9, 5, true, 0, 0, false, false, false⟩, .operand),
   (.vshl ⟨0xff, 0xd, 6, false, false, false, 0x12, 0x0, 15, 7, true, 0, 0, false, false, false⟩, .operand),
   (.vgather ⟨0x11, 0x14, 2, false, false, false, 0x3, 0x0, 10, 0, false, 0, 0, false, false, false⟩, .operand),
   (.vrcp ⟨0xe, 0x7, 5, true, false, false, 0x0, 0x0, 4, 6, true, 0, 0, false, false, false⟩, .operand),
   (.qdot ⟨0x6, 0x1, 9, false, false, false, 0x12, 0x3, 15, 0, false, 0, 0, false, false, false⟩, .operand),
   (.vadd ⟨0x85, 0x3, 8, true, false, false, 0x6, 0x0, 9, 5, true, 0, 3, false, false, false⟩, .operand),
   (.qdot ⟨0x6, 0x1, 8, false, false, false, 0x12, 0x3, 15, 0, false, 0, 2, false, false, false⟩, .operand),
   (.vtrn ⟨0x1, 0x0, 2, false, false, false, 0x0, 0x0, 14, 0, false, 0, 0, false, false, false⟩, .operand),
   (.vadd ⟨0x8, 0x3, 2, true, false, false, 0x6, 0x0, 9, 5, true, 0, 0, true, false, false⟩, .operand)]
/-- Ill-formed terms. -/
def bad3 : List (Instr × Reject) :=
  [(.vadd ⟨0x14, 0x3, 2, true, false, false, 0x6, 0x0, 9, 5, true, 0, 0, true, false, false⟩, .operand),
   (.vins ⟨0x80, 0x1e, 9, false, false, false, 0x2a, 0x0, 0, 0, false, 0, 0, false, false, false⟩, .operand),
   (.vcmp ⟨0x8, 0x2, 10, false, false, false, 0x3, 0xb, 5, 1, true, 0, 0, false, false, false⟩, .operand),
   (.qclr ⟨0x8, 0x0, 0, false, false, false, 0x0, 0x0, 0, 0, false, 0, 0, false, false, false⟩, .operand),
   (.vadd ⟨0x85, 0xe, 2, false, false, false, 0x6, 0x0, 9, 5, true, 0, 0, true, false, false⟩, .operand),
   (.vadd ⟨0x85, 0x80, 2, false, false, false, 0x6, 0x0, 9, 5, true, 0, 0, true, false, false⟩, .operand),
   (.vmov ⟨0x4, 0xf, 7, false, false, false, 0x0, 0x0, 11, 0, false, 0, 0, false, false, false⟩, .operand),
   (.gset ⟨0x0, 0x8, 0, false, false, false, 0x0, 0x6, 0, 0, false, 0, 0, false, false, false⟩, .operand),
   (.vext ⟨0x33, 0x80, 2, false, false, false, 0x11, 0x0, 0, 0, false, 0, 0, false, false, false⟩, .operand),
   (.klog ⟨0x7, 0x8, 0, false, false, false, 0x3, 0xd, 0, 0, false, 0, 0, false, false, false⟩, .operand),
   (.vadd ⟨0x85, 0x3, 2, true, false, false, 0x7f, 0x0, 9, 5, true, 0, 0, true, false, false⟩, .operand),
   (.qaddq ⟨0x1, 0x2, 0, false, false, false, 0x8, 0x0, 0, 0, false, 0, 0, false, false, false⟩, .operand),
   (.vfma ⟨0x82, 0x1, 9, true, true, false, 0x2, 0x20, 12, 4, true, 1, 0, false, true, true⟩, .operand),
   (.vcmp ⟨0x6, 0x2, 10, false, false, false, 0x3, 0x6, 5, 1, true, 0, 0, false, false, false⟩, .operand),
   (.vcmp ⟨0x6, 0x2, 2, false, false, false, 0x3, 0xa, 5, 1, true, 0, 0, false, false, false⟩, .operand),
   (.add ⟨1, 2, 3, 0, false, some 1⟩, .reserved),
   (.clz ⟨1, 2, 3, 0, false, none⟩, .reserved),
   (.popc ⟨1, 2, 0, 0, false, some 1⟩, .extension),
   (.movi ⟨1, 5, 0, false, some 1⟩, .reserved),
   (.fadd ⟨1, 2, 3, 0, true, 1⟩, .reserved),
   (.fmin ⟨1, 2, 3, 1, true, 0⟩, .reserved),
   (.fsqrt ⟨1, 2, 3, 0, true, 0⟩, .reserved)]
/-- Ill-formed terms. -/
def bad4 : List (Instr × Reject) :=
  [(.fchk ⟨1, 2, 0, 0, false, 0⟩, .reserved),
   (.fchk ⟨0, 2, 0, 0, true, 0⟩, .reserved),
   (.cmp ⟨1, 2, 3, 0, false, some 1⟩, .reserved),
   (.cmp ⟨1, 2, 3, 0, true, none⟩, .reserved),
   (.cmp ⟨1, 2, 3, 10, false, none⟩, .operand),
   (.fcmp ⟨1, 2, 3, 6, true, none⟩, .operand),
   (.fcmp ⟨1, 2, 3, 0, true, some 1⟩, .extension),
   (.ld ⟨1, 2, 7, 0, false, none⟩, .operand),
   (.st ⟨1, 2, 4, 0, false, none⟩, .operand),
   (.movsys ⟨1, 0x00F, 0, false⟩, .operand),
   (.movsys ⟨1, 0x013, 0, false⟩, .operand),
   (.movctlRead ⟨1, 5, 0, false⟩, .operand),
   (.movctlRead ⟨1, 0x11C, 0, false⟩, .operand),
   (.movctlWrite ⟨1, 4, 0, false⟩, .operand),
   (.movctlWrite ⟨1, 0x103, 0, false⟩, .operand),
   (.movstg ⟨1, 0, 0, false, 0, false, some 1⟩, .reserved),
   (.movstg ⟨1, 0, 0, true, 0, false, none⟩, .reserved),
   (.movstg ⟨1, 2, 8, false, 0, false, none⟩, .operand),
   (.rdstg ⟨1, 3, 8, false, 0, false, none⟩, .operand),
   (.rdstg ⟨1, 0, 0, false, 0, false, some 1⟩, .extension),
   (.mma ⟨1, true, false, 0, false, false, false⟩, .reserved),
   (.mma ⟨7, false, false, 0, false, false, false⟩, .operand)]
/-- Ill-formed terms. -/
def bad5 : List (Instr × Reject) :=
  [(.mma ⟨0, false, false, 3, false, false, false⟩, .operand),
   (.mzero ⟨1, false, false, false, false⟩, .reserved),
   (.mdrain ⟨6, 1, false, false, 0, false, false⟩, .reserved),
   (.mdrain ⟨8, 0, true, false, 0, true, false⟩, .reserved),
   (.mdrain ⟨10, 0, false, false, 0, false, false⟩, .operand),
   (.mdrain ⟨3, 0, false, false, 0, true, false⟩, .operand),
   (.mload ⟨3, 0, false⟩, .operand),
   (.mstore ⟨0, 0, false⟩, .operand),
   (.mstore ⟨3, 0, false⟩, .operand),
   (.copy ⟨0, false, 0, 0, 1, false⟩, .reserved),
   (.copy ⟨3, true, 0, 0, 0, false⟩, .operand),
   (.copy ⟨0, true, 0, 0, 3, false⟩, .operand),
   (.dequant ⟨0, 6, 1, 0, false⟩, .reserved),
   (.quant ⟨8, 9, 0, 0, false⟩, .operand),
   (.quant ⟨0, 5, 0, 0, false⟩, .operand),
   (.dequant ⟨0, 12, 0, 0, false⟩, .operand),
   (.xcfg ⟨8, 0, 0, false⟩, .operand),
   (.xcfg ⟨0, 2, 0, false⟩, .operand),
   (.xcfg ⟨6, 1, 0, false⟩, .operand),
   (.loop 1 64, .operand),
   (.loopRot 1 64, .operand),
   (.loopw 1 false 64, .operand)]
/-- Ill-formed terms. -/
def bad6 : List (Instr × Reject) :=
  [(.balloc 1 false 0, .operand),
   (.balloc 1 false 65, .operand),
   (.balloc 1 true 12, .operand),
   (.bfree 1 0, .operand),
   (.bfree 1 65, .operand),
   (.launch 1 2 16, .operand),
   (.ttstart 1 2 16, .operand),
   (.sclose 16, .operand),
   (.barcfg 1 48, .operand),
   (.bar 48, .operand),
   (.barw 48, .operand),
   (.bartst 1 48, .operand),
   (.semw 1 64, .operand),
   (.semsig 1 64, .operand),
   (.semset 1 64, .operand),
   (.rngset 1 2 64, .operand),
   (.rngclr 2 64, .operand),
   (.fence 8, .operand),
   (.eretCtx 1 2, .operand)]

theorem test_illformed_0 : bad0.all (fun e => e.1.check == some e.2) = true := by decide +kernel
theorem test_illformed_1 : bad1.all (fun e => e.1.check == some e.2) = true := by decide +kernel
theorem test_illformed_2 : bad2.all (fun e => e.1.check == some e.2) = true := by decide +kernel
theorem test_illformed_3 : bad3.all (fun e => e.1.check == some e.2) = true := by decide +kernel
theorem test_illformed_4 : bad4.all (fun e => e.1.check == some e.2) = true := by decide +kernel
theorem test_illformed_5 : bad5.all (fun e => e.1.check == some e.2) = true := by decide +kernel
theorem test_illformed_6 : bad6.all (fun e => e.1.check == some e.2) = true := by decide +kernel
/-- The words of the decode tests are well-formed instructions. -/
theorem test_wellformed :
    ([wordsS0, wordsS1, wordsS2, wordsM0, wordsC0, wordsE0, wordsB0, wordsV0, wordsV3, wordsV4].flatten).all (fun e => e.2.wf) = true := by
  decide +kernel
/-- Header bits 18:1 are zero, and a bundle ends at its stop bit (R45, R47). -/
theorem test_bad_headers :
    (decodeBundle [0x00000002#32, 0x00000001#32]).2 = .error .header ∧ (decodeBundle [0x01000000#32]).2 = .error .beyond := by
  decide +kernel

/-! ## States that meet the hypotheses of the statements: scalar slots -/

/-- Signed operands, a NaN and an odd value: s1 = −7, s2 = 2, s3 = a signalling F64 NaN, s4 = 0x5FFF8. -/
def sc : State := free (-7) 2 0x7FF0000000000001 0x5FFF8
/-- An SR syllable s5, s1, s2 with no guard. -/
def sr : SR := ⟨5, 1, 2, 0, false, none⟩

theorem wit_integer_results :
    sc.guard sr.pg sr.pn = true ∧ (integerTable sr (sc.rs sr.sa) (sc.srB sr)).length = 21 ∧
    (divisionTable sr (sc.rs sr.sa) (sc.srB sr)).length = 4 ∧ sc.srB sr ≠ 0 ∧ sc.srB { sr with sb := 0 } = 0 ∧
    sc.fctx.r.sW = [] := by decide +kernel
theorem wit_immediates :
    sc.guard 1 false = true ∧ sc.guard 2 true = true ∧ sc.guard 2 false = false ∧ sc.rp 1 = true := by decide +kernel
theorem wit_compare : ∀ e ∈ conditionTable (sc.rs 1) (sc.rs 2), (⟨3, 1, 2, e.1, false, none⟩ : SC).cond = e.1 ∧
    (Instr.cmp ⟨3, 1, 2, e.1, false, none⟩).wf = true := by decide +kernel
theorem wit_guarded_off :
    guardOf (.add { sr with pg := 2 }) = some (2, false) ∧ (sc.rp 2 ^^ false) = false ∧
    guardOf (.st ⟨5, 4, 3, 1, true, none⟩) = some (1, true) ∧ (sc.rp 1 ^^ true) = false := by decide +kernel
theorem wit_scalar_load :
    sc.guard 0 false = true ∧ scalarAddr sc ⟨5, 4, 3, 0, false, none⟩ + accessBytes 3 = 0x60000 ∧
    scalarAddr sc ⟨5, 4, 3, 0, false, none⟩ % accessBytes 3 = 0 ∧
    sc.padPoisonAt 0 0 (sc.t + 1) (scalarAddr sc ⟨5, 4, 3, 0, false, none⟩) (accessBytes 3) = false := by decide +kernel
theorem wit_scalar_store :
    (sc.tile 0 0).pend = [] ∧
    ((List.range 8).all fun i => (List.range 8).all fun j =>
      i == j || redirect (sc.tile 0 0).bufs (0x5FFF8 + i) != redirect (sc.tile 0 0).bufs (0x5FFF8 + j)) = true ∧
    ((List.range 8).all fun i =>
      redirect (sc.tile 0 0).bufs (0x5FFF8 + i) != redirect (sc.tile 0 0).bufs 0x5FFF7) = true := by decide +kernel
theorem wit_scalar_traps :
    scalarAddr sc ⟨5, 4, 0, 0, false, some 8⟩ + accessBytes 0 = 0x60001 ∧
    scalarAddr sc ⟨5, 4, 1, 0, false, some 7⟩ + accessBytes 1 = 0x60001 ∧
    scalarAddr sc ⟨5, 4, 1, 0, false, some 5⟩ + accessBytes 1 ≤ 0x60000 ∧
    scalarAddr sc ⟨5, 4, 1, 0, false, some 5⟩ % accessBytes 1 ≠ 0 := by decide +kernel
theorem wit_float_nan :
    (floatOf true (sc.rs 3)).isNan = true ∧ (floatOf true (sc.rs 3)).isSig = true ∧
    (floatTable ⟨5, 1, 2, 0, true, 0⟩ (floatOf true 0) (floatOf true 0) (floatOf true 0)).length = 6 := by decide +kernel
theorem wit_float_compare : ∀ e ∈ floatConditions (floatOf true (sc.rs 3)) (floatOf true (sc.rs 2)),
    (⟨3, 3, 2, BitVec.ofNat 4 e.1, true, none⟩ : SC).cond.toNat = e.1 := by decide +kernel
/-- A context with OF and NX set. -/
def flagged : State := mach 0 0 { ctxOf 4 0xFF 0 0 with r := { (ctxOf 4 0xFF 0 0).r with fsr := fNX ||| fOF } } default
theorem wit_flag_check :
    flagged.fctx.r.readFsr flagged.t &&& (flagged.rs 3).extractLsb' 0 8 = 0 ∧
    flagged.fctx.r.readFsr flagged.t &&& (flagged.rs 2).extractLsb' 0 8 ≠ 0 := by decide +kernel
theorem wit_system_registers : sc.focus.ctx < 4 ∧ (systemTable sc).length = 18 ∧
    ∀ e ∈ systemTable sc, (⟨5, BitVec.ofNat 12 e.1, 0, false⟩ : SS).sel.toNat = e.1 := by decide +kernel
theorem wit_control_registers : sc.fctx.r.late = [] ∧ sc.fctx.r.fW = [] ∧
    ∀ e ∈ controlTable sc, (⟨5, BitVec.ofNat 12 e.1, 0, false⟩ : SS).sel.toNat = e.1 := by decide +kernel
/-- The machine with both command sets of slot C busy. -/
def busyC : State :=
  mach 0 0 { ctxOf 1 2 3 4 with e := { (ctxOf 1 2 3 4).e with busy := 0x0C } } default
theorem wit_staging :
    sc.fctx.e.busy.getLsbD (2 * 1 + (sc.fctx.e.fill.getLsbD 1).toNat) = false ∧
    busyC.fctx.e.busy.getLsbD (2 * 1 + (busyC.fctx.e.fill.getLsbD 1).toNat) = true ∧ busyC.timed = false ∧
    sc.fctx.e.stgW = [] := by decide +kernel

/-! One step: the expected values are worked by hand from the rules. -/

/-- What a scalar register reads as at a clock after an instruction. -/
def getS (o : Host.Outcome State Fault Refusal) (u n : Nat) : Option DWord :=
  match o with
  | .next t => some (t.fctx.r.readS u n)
  | _ => none
/-- The flags of FSR with those on their way after an instruction. -/
def getF (o : Host.Outcome State Fault Refusal) : Option Flags :=
  match o with
  | .next t => some (t.fctx.r.fW.foldl (fun a f => a ||| f.flags) t.fctx.r.fsr)
  | _ => none
/-- The cause and ADDR2 of the record that the context in focus takes at its tile. -/
def getTrap (o : Host.Outcome State Fault Refusal) : Option (Nat × Nat) :=
  match o with
  | .next t => t.fctx.t.cur.map fun r => (r.info.cause, r.info.addr2)
  | _ => none

/-- −7 / 2 truncates to −3 and leaves −1 (R93). -/
theorem test_div : getS (exec (.div sr) sc) 150 5 = some (-3) ∧ getS (exec (.rem sr) sc) 150 5 = some (-1) := by
  decide +kernel
/-- A divisor of 0 gives all ones and sets DZ; s0 discards a result (R93, R88). -/
theorem test_div_zero :
    getS (exec (.divz { sr with sb := 0 }) sc) 150 5 = some (BitVec.allOnes 64) ∧
    getF (exec (.divz { sr with sb := 0 }) sc) = some fDZ ∧
    getS (exec (.add { sr with sd := 0 }) sc) 150 0 = some 0 := by decide +kernel
/-- −7 × 2: high half −1 signed, 1 unsigned (R92). -/
theorem test_mulh : getS (exec (.mulh sr) sc) 150 5 = some (-1) ∧ getS (exec (.mulhz sr) sc) 150 5 = some 1 := by
  decide +kernel
/-- movhi shifts 31 bits in (R94). -/
theorem test_movhi : getS (exec (.movhi ⟨2, 0, 0, false, some 5⟩) sc) 150 2 = some 0x100000005 := by decide +kernel
/-- 1.5 + 2.25 = 3.75 in F32, and 1 / 3 rounded to nearest in F64 sets NX (R103). -/
theorem test_float :
    getS (exec (.fadd ⟨5, 1, 2, 0, false, 0⟩) (free 0x3FC00000 0x40100000 0 0)) 150 5 = some 0x40700000 ∧
    getS (exec (.fdiv ⟨5, 1, 2, 0, true, 0⟩) (free 0x3FF0000000000000 0x4008000000000000 0 0)) 150 5 =
      some 0x3FD5555555555555 ∧
    getF (exec (.fdiv ⟨5, 1, 2, 0, true, 0⟩) (free 0x3FF0000000000000 0x4008000000000000 0 0)) = some fNX := by
  decide +kernel
/-- A byte loaded with sign; a byte that lies at 0x60000 is outside the scratchpad (R99, R100). -/
theorem test_load :
    getS (exec (.ld ⟨5, 4, 4, 0, false, none⟩) { free 0 0 0 16 with
      mem := [(padKey 0 0 16, 0x80)] }) 150 5 = some (-128) ∧
    getTrap (exec (.ld ⟨5, 4, 4, 0, false, some 8⟩) sc) = some (0x41, 0x60000) := by decide +kernel
/-- Without earlier writes a write is the last at its bytes, and the load that meets poison. -/
theorem wit_pad_last : PadLast sc (sc.t + 2) := by
  unfold PadLast
  decide +kernel
theorem wit_scalar_poisoned :
    ({ sc with poison := [padKey 0 0 0x5FFF8 / 64] } : State).padPoisonAt 0 0 (sc.tt + 1) (scalarAddr sc ⟨5, 4, 3, 0, false, none⟩)
      (accessBytes 3) = true := by decide +kernel

/-! ## Vector slots -/

/-- vmov o2, o1 with four rows of T8 elements. -/
def vo : VF := ⟨2, 1, 6, false, false, false, 0, 0, 3, 0, false, 0, 0, false, false, false⟩
/-- A context with o1 to o3, main-file granule 0 and its ports set. -/
def vctx (ports : FMap Port) : Ctx :=
  { ctxOf 0x100 64 5 0x5FFC0 with
    ports := ports, gran := [(0, 7)]
    r := { (ctxOf 0x100 64 5 0x5FFC0).r with o := [(1, 0x0102030405060708), (2, 9), (3, 0x80FF7F01)], k := [(1, 0xFF)] } }
/-- A port that walks rows from a base, one dimension of 64 bytes. -/
def port (base : Nat) : Port := ⟨base, [16, 1, 1, 1], [64, 0, 0, 0], [0]⟩
/-- A machine of two tiles with two rows in the east FIFO of the context in focus, and ports g0 (inside), g1 (its second
row outside), g2 (invalid), g6 and g7. -/
def vm : State :=
  mach 0 0 (vctx [(0, port 0x5FF00), (1, port 0x5FFC0), (2, ⟨32, [], [], []⟩), (6, port 0x5FF00), (7, port 0)])
    { (default : Tile) with fifo := [(1, [(0, 11), (1, 99), (0, 12)])] }

theorem wit_vector_sources :
    isO vo.vd = true ∧ isO vo.va = true ∧ isV 0x80 = true ∧ isFifo 0x11 = true ∧ isReadPort 0x08 = true ∧
    (vm.neighbour 1).isSome = true ∧ (fifoRows (vm.ftile.fifo.get 1) 0).length = 2 ∧ vh { vo with rows := 1 } = 2 ∧
    ((vm.fctx.ports.get 0).full).bad = false ∧
    ((((vm.fctx.ports.get 0).full).walk 4).1.all fun a => decide (0 ≤ a ∧ a + 64 ≤ 0x60000)) = true ∧
    (((vm.fctx.ports.get 0).full).walk 4).1.getLast? = some 0x5FFC0 ∧ vm.poison = [] := by decide +kernel
theorem wit_vector_source_stops :
    (vm.neighbour 3).isNone = true ∧ (fifoRows (vm.ftile.fifo.get 1) 0).length < vh { vo with rows := 2 } ∧
    vm.timed = false ∧ ((vm.fctx.ports.get 2).full).bad = true ∧ ((vm.fctx.ports.get 1).full).bad = false ∧
    (((vm.fctx.ports.get 1).full).walk (vh vo)).1.find? (fun a => decide (a < 0 ∨ 0x60000 < a + 64)) = some 0x60000 := by
  decide +kernel
/-- The machine with a number of rows in the west FIFO of the eastern neighbour; each of two contexts has 16. -/
def full (n : Nat) : State :=
  { vm with
    tiles := [(0, vm.ftile), (1, { (default : Tile) with
      occ := some 1, fifo := [(3, (upFrom 0 n).map fun j => (0, BitVec.ofNat 512 j))] })] }
theorem wit_vector_destinations :
    isV 0xFF = true ∧ ((vm.fctx.ports.get 6).full).bad = false ∧
    ((((vm.fctx.ports.get 6).full).walk 4).1.all fun a => decide (0 ≤ a ∧ a + 64 ≤ 0x60000)) = true ∧
    vm.neighbour 3 = none ∧ vm.neighbour 1 = some 1 ∧
    (full 12).neighbour 1 = some 1 ∧
    ((full 12).tile 0 1).fifoUsed (full 12).now 3 0 + vh vo = 32 / max ((full 12).car 0 1).nctx 1 ∧
    ((full 13).tile 0 1).fifoUsed (full 13).now 3 0 + vh vo = 1 + 32 / max ((full 13).car 0 1).nctx 1 ∧
    (full 13).timed = false ∧ ((full 13).tile 0 1).fifoIn = [] := by decide +kernel
theorem wit_last_use : vo.vd ≠ vo.va ∧ vm.fctx.r.oW = [] := by decide +kernel

/-- The source fields can be read and the destination takes a result. -/
def takes (s : State) (f : VF) (srcs : List (BitVec 8 × Nat)) (h : Nat) : Bool :=
  match s.sources srcs with
  | .error _ => false
  | .ok (s1, got) =>
    match (s1.lastUses f).dest f.vd h (pick got f.va) (pick got f.vb) 9 with
    | .ok _ => true
    | .error _ => false
/-- One, two and three sources in registers; a FIFO as both sources; a FIFO as destination. -/
theorem wit_delivers :
    takes vm vo [(1, 4)] 4 = true ∧ takes vm vo [(1, 4), (3, 4)] 4 = true ∧ takes vm vo [(1, 4), (3, 4), (2, 4)] 4 = true ∧
    takes vm { vo with rows := 1 } [(0x11, 2), (0x11, 2)] 2 = true ∧ takes vm { vo with vd := 0x11 } [(0x08, 4)] 4 = true ∧
    takes vm { vo with vd := 0x80, lua := true } [(1, 4)] 4 = true := by decide +kernel
theorem wit_vector_types :
    (integerElements { vo with ty := 5 }).length = 14 ∧ (realElements { vo with ty := 6 }).length = 16 ∧
    (realElements { vo with ty := 11 }).length = 16 ∧ (5 : BitVec 4).toNat ≤ 5 ∧ 6 ≤ (6 : BitVec 4).toNat ∧
    (11 : BitVec 4).toNat ≤ 11 ∧ fixedResults.length = 36 := by decide +kernel

/-- What an operand register reads as at a clock after an instruction. -/
def getO (o : Host.Outcome State Fault Refusal) (u n : Nat) : Option VReg :=
  match o with
  | .next t => some (t.fctx.r.readO u n)
  | _ => none
/-- Saturating S8 addition of o3 to itself: 01, 7F, FF, 80 give 02, 7F, FE, 80, and ST (R170). -/
theorem test_vadd_sat :
    (getO (exec (.vadd { vo with ty := 0, va := 3, vb := 3, sat := true }) vm) 150 2).map (·.extractLsb' 0 32) =
      some 0x80FE7F02#32 ∧ getF (exec (.vadd { vo with ty := 0, va := 3, vb := 3, sat := true }) vm) = some fST := by
  decide +kernel
/-- A masked move keeps the bytes that mask k1 leaves out (R161). -/
theorem test_vmov_mask :
    (getO (exec (.vmov { vo with ty := 0, km := 1, ke := true }) { vm with ctxs := [(0, { vctx [] with
      r := { (vctx []).r with k := [(1, 5)] } })] }) 150 2) = some 0x060008 := by decide +kernel
/-- No row of a machine without poison and soft errors is spoilt. -/
theorem clean_of (s : State) (k n : Nat) (h : s.badUnits ++ s.upsets.filterMap (fun x => x.unit?.map (·.1)) = []) :
    cleanRows s k n := by
  unfold cleanRows
  rw [h]
  exact fun u hu => absurd hu (by simp)
theorem wit_clean :
    cleanO vm vo.va.toNat (vh vo) ∧ cleanO vm 3 16 ∧ cleanV vm (physV vm.fctx.r.voff 0) 16 :=
  ⟨clean_of _ _ _ (by decide +kernel), clean_of _ _ _ (by decide +kernel), clean_of _ _ _ (by decide +kernel)⟩

/-- An attempt succeeds. -/
def isOk {α : Type} (r : Try α) : Bool :=
  match r with
  | .ok _ => true
  | .error _ => false
/-- The index register of a gather. -/
def indices (s : State) (f : VF) : VReg :=
  match s.indexSource f with
  | .ok (_, v) => v
  | .error _ => 0
/-- Indices 0x5FFFC − 0x100 (the last word), 4, 6 (misaligned) and 0x5FF00 (outside) from s1 = 0x100. -/
def gm (a b : Nat) : State :=
  { vm with ctxs := [(0, { vctx [] with
      r := { (vctx []).r with o := [(1, BitVec.ofNat 8192 (a + b * 2 ^ 32)), (2, 9)], k := [(1, 0xFF)] } })] }
/-- A gather from o1, its elements 0 and 1 enabled by k1, into o2. -/
def vg : VF := ⟨2, 1, 4, false, false, false, 1, 2, 0, 1, true, 0, 0, false, false, false⟩
/-- Where element e of the gather lies. -/
def gAddr (s : State) (e : Nat) : Nat := ((s.rs (vg.va.extractLsb' 0 6)).toNat + elemAt 4 (indices s vg) e) % 2 ^ 64

theorem wit_masks :
    isOk (vm.sources [(1, 4), (3, 4)]) = true ∧ isOk (vm.sources [(0x08, 4), (0x08, 4)]) = true ∧
    (∀ c : BitVec 8, c.toNat = 10 → (c.toNat < 6 ∨ (9 ≤ (10 : BitVec 4).toNat ∧ (c.toNat = 10 ∨ c.toNat = 11)))) ∧
    vm.fctx.r.kW = [] := by
  refine ⟨by decide +kernel, by decide +kernel, fun c h => .inr ⟨by decide, .inl h⟩, by decide +kernel⟩
/-- vld at 0x5FFC0 ends at the edge with one row and passes it with two; s1 is aligned, s3 is not. -/
theorem wit_vector_load_store :
    (vm.rs 4).toNat % 64 = 0 ∧ (vm.rs 4).toNat + 64 * vh { vo with rows := 0 } = 0x60000 ∧
    (vm.rs 4).toNat + 64 * 1 + 64 > 0x60000 ∧ vh { vo with rows := 1 } = 2 ∧ (vm.rs 3).toNat % 64 ≠ 0 ∧
    vm.poison = [] ∧ takes vm { vo with rows := 0 } [] 1 = true := by decide +kernel
theorem wit_gather :
    isOk ((gm 0x5FEFC 4).indexSource vg) = true ∧ writesElem (gm 0 0) vg 0 = true ∧ writesElem (gm 0 0) vg 1 = true ∧
    writesElem (gm 0 0) vg 2 = false ∧ gAddr (gm 0x5FEFC 4) 0 + 4 = 0x60000 ∧ gAddr (gm 0x5FEFC 4) 1 = 0x104 ∧
    gAddr (gm 4 6) 0 % 4 = 0 ∧ gAddr (gm 4 6) 1 % 4 = 2 ∧ gAddr (gm 4 0x5FF00) 1 = 0x60000 ∧ vg.ty.toNat = 4 ∧
    vg.vc ≠ vg.vb ∧ isOk ((gm 4 8).source1 vg.vc (vh vg)) = true := by decide +kernel
theorem wit_ports :
    isOk (vm.sources [(3, 1)]) = true ∧ isOk (vm.sources [(0x11, 1)]) = true ∧ vm.fctx.r.late = [] := by decide +kernel

/-- CRC-32C of the digits 1 to 9 is 0xE3069283 (R182); of the empty run it is the running value. -/
theorem test_crc :
    crcUpdate 0 [0x31, 0x32, 0x33, 0x34, 0x35, 0x36, 0x37, 0x38, 0x39] = 0xE3069283 ∧ crcUpdate 5 [] = 5 := by
  decide +kernel
/-- vext of byte 1 of o3 (0x7F) and of byte 2 (0xFF), sign-extended (R178). -/
theorem test_vext :
    getS (exec (.vext ⟨9, 3, 0, false, false, false, 10, 0, 0, 0, false, 0, 0, false, false, false⟩) vm) 150 9 =
      some 1 ∧
    getS (exec (.vext ⟨9, 3, 0, false, false, false, 3, 0, 0, 0, false, 0, 0, false, false, false⟩) vm) 150 9 = some 0 := by
  decide +kernel
/-- vcmp.lt on S8: 8 < 1 is false, and 7 < 0x7F is true in byte 1 (R173). -/
theorem test_vcmp :
    (match exec (.vcmp ⟨4, 1, 0, false, false, false, 3, 2, 0, 0, false, 0, 0, false, false, false⟩) vm with
      | .next t => some ((t.fctx.r.readK 150 4).extractLsb' 0 4)
      | _ => none) = some 2 := by decide +kernel

/-- The machine with an open chain on quire 3, which reads as 5 units of 2^−240 once it has closed. -/
def qm : State :=
  { vm with ctxs := [(0, { vctx [] with
      r := { (vctx []).r with q := [(1, 7), (2, BitVec.ofNat 512 (2 ^ 511)), (5, -3)], qW := [⟨3, BitVec.allOnes 512, 5, 99, 8, 0, true⟩] } })] }

theorem wit_movements :
    takes vm vo [(1, 4)] 4 = true ∧ takes vm { vo with rows := 15 } [(1, 16)] 16 = true ∧ (11 : BitVec 4).toNat ≤ 11 := by
  decide +kernel
theorem wit_reductions :
    takes vm vo [(1, 4)] 1 = true ∧ ({ vo with ty := 5, vc := 5 } : VF).vc.toNat % 8 ≤ 5 ∧
    (∀ x ∈ [some 3, none, some (2 ^ 32 - 1)].filterMap id, x < 2 ^ (8 * vfW { vo with ty := 5, vc := 5 })) ∧
    [some 3, none, some (2 ^ 32 - 1)].length ≤ 64 := by decide +kernel
theorem wit_topk : takes vm { vo with ty := 8, vb := 3 } [(1, 4), (3, 4)] 2 = true ∧ (8 : BitVec 4).toNat = 8 := by
  decide +kernel
theorem wit_conversions :
    ({ vo with ty := 8, vc := 0x0B } : VF).vc.toNat / 16 % 4 < 3 ∧ (0x0B : BitVec 8).toNat < 64 ∧
    tyW (8 : BitVec 4).toNat = tyW ((0x0B : BitVec 8).toNat % 16) ∧ isO vo.vd = true ∧
    isOk (vm.sources [(1, 4)]) = true ∧ ((8, true) : Nat × Bool) ≠ (8, false) ∧ 0xFF < 2 ^ 8 := by decide +kernel
theorem wit_quires :
    takes qm vo [] 1 = true ∧ isOk (qm.sources [(1, 1)]) = true ∧ (qm.rs 4).toNat % 64 = 0 ∧
    (qm.rs 4).toNat + 64 = 0x60000 ∧ qm.poison = [] ∧ qm.rq 2 = BitVec.ofNat 512 (2 ^ 511) := by decide +kernel
theorem wit_quire_chains :
    (openChain qm.fctx.r.qW 3 qm.t).map (·.val) = some 5 ∧ openChain qm.fctx.r.qW 1 qm.t = none ∧
    isOk (qm.sources [(1, 4)]) = true ∧ isOk (qm.sources [(1, 4), (3, 4)]) = true := by decide +kernel
theorem wit_quire_sum :
    (∀ v ∈ [Val.fin false 3 0, .fin true 5 (-2)], v.isNan = false ∧ v.isInf = false) ∧
    ([Val.fin false 3 0, .fin true 5 (-2)].map fun v => v.units.natAbs).sum < 2 ^ 511 := by decide +kernel

/-- What a quire reads as at a clock after an instruction. -/
def getQ (o : Host.Outcome State Fault Refusal) (u n : Nat) : Option Row :=
  match o with
  | .next t => some (t.fctx.r.readQ u n)
  | _ => none
/-- 7 + 7 units; NaR stays NaR (R131, R203). -/
theorem test_qaddq :
    getQ (exec (.qaddq ⟨4, 1, 0, false, false, false, 1, 0, 0, 0, false, 0, 0, false, false, false⟩) qm) 150 4 = some 14 ∧
    getQ (exec (.qaddq ⟨4, 1, 0, false, false, false, 2, 0, 0, 0, false, 0, 0, false, false, false⟩) qm) 150 4 =
      some (BitVec.ofNat 512 (2 ^ 511)) := by decide +kernel
/-- F32 1.5 and 0.25 give 1.75 = 7 × 2^238 units in an empty quire (R130, R203). -/
theorem test_qadd :
    getQ (exec (.qadd ⟨6, 1, 11, false, false, false, 0, 0, 0, 0, false, 0, 0, false, false, false⟩)
      { vm with ctxs := [(0, { vctx [] with r := { (vctx []).r with o := [(1, 0x3E8000003FC00000)] } })] }) 150 6 =
      some (BitVec.ofNat 512 (7 * 2 ^ 238)) := by decide +kernel
/-- vrotr by 5 positions of 1 byte: byte 0 of the row is byte 5, which is 3 (R186). -/
theorem test_vrotr :
    (getO (exec (.vrotr ⟨2, 1, 1, false, false, false, 3, 0, 0, 0, false, 0, 0, false, false, false⟩) vm) 150 2).map
      (·.extractLsb' 0 16) = some 0x0203 := by decide +kernel
/-- The sum of the S8 leaves of o3's row: 1 + 127 − 1 − 128 = −1 (R190). -/
theorem test_vredr :
    (getO (exec (.vredr ⟨2, 3, 0, false, false, false, 0, 0, 0, 0, false, 0, 0, false, false, false⟩) vm) 150 2).map
      (·.extractLsb' 0 8) = some 0xFF := by decide +kernel
/-- 1.5 and −0.75 are whole numbers of quarters, and 1.5 of halves. -/
theorem wit_exact_results :
    wholeAt (.fin false 3 (-1)) (-2) ∧ wholeAt (.fin true 3 (-2)) (-2) ∧ wholeAt (.fin false 3 (-1)) (-1) ∧
    wholeAt (.fin true 0 5) (-2 + -1) := by
  unfold wholeAt
  decide
/-- The largest F16 is 2047 × 2^5: 2^5 rounds below it and 2^20 beyond it; the greatest codes of the other formats are
finite. -/
theorem wit_rounded_once :
    ff16.dec ff16.maxCode = .fin false 2047 5 ∧ magLt 2047 5 (nearest 0 false 1 (5 - 10 - 5)) (5 - 10) = false ∧
    magLt 2047 5 (nearest 0 false 1 (20 - 10 - 20)) (20 - 10) = true ∧
    ([ff16, ffB16, ff32, ff64, ffE5M2, ffE4M3, ffE3M2, ffE2M3, ffE2M1].all fun ff => match ff.dec ff.maxCode with
      | .fin false _ _ => true
      | _ => false) = true := by decide +kernel
/-- In T8 with es 2, 3 × 2^30 lies above maxpos, 2^(−40) below minpos, and 5 between. -/
theorem wit_rounded_tapered :
    ((8 : Int) - 2) * 2 ^ 2 < 30 + Nat.log2 3 ∧ (-40 : Int) + Nat.log2 1 < -((8 - 2) * 2 ^ 2) ∧
    ¬ (((8 : Int) - 2) * 2 ^ 2 < 0 + Nat.log2 5) ∧ -(((8 : Int) - 2) * 2 ^ 2) ≤ 0 + Nat.log2 5 := by decide +kernel
/-- Leaves of F32 (1.5, one absent, −0.75), of T32 with es 2 (1 and NaR), and of F16 with a NaN. -/
theorem wit_combine_real :
    6 ≤ ({ vo with ty := 11 } : VF).ty.toNat ∧ (11 : BitVec 4).toNat ≤ 11 ∧ (2 : BitVec 2).toNat < 3 ∧
    (∀ x ∈ [some 0x3FC00000, none, some 0xBF400000].filterMap id, x < 2 ^ (8 * vfW { vo with ty := 11 })) ∧
    (∀ x ∈ [some 0x40000000, some 0x80000000].filterMap id, x < 2 ^ (8 * vfW { vo with ty := 8, es := 2 })) ∧
    [some 0x3FC00000, none, some 0xBF400000].length ≤ 64 ∧
    (∃ v ∈ [some 0x7E00, some 0x3C00].filterMap id, ((vfFmt { vo with ty := 9 }).dec v).isNan = true) := by decide +kernel
/-- vcvt from F32 to T8 into an operand register, a main-file register, a FIFO and a port, and from an interchange format. -/
theorem wit_conversions_wide :
    ({ vo with ty := 11, vc := 6 } : VF).vc.getLsbD 6 = false ∧ ({ vo with ty := 11, vc := 6 } : VF).vc.toNat % 16 ≤ 11 ∧
    ({ vo with ty := 3, vc := 0x4B } : VF).vc.getLsbD 6 = true ∧ ({ vo with ty := 3, vc := 0x4B } : VF).ty.toNat ≤ 5 ∧
    ({ vo with ty := 11, vc := 0x85 } : VF).vc.getLsbD 7 = true ∧ ({ vo with ty := 11, vc := 0x85 } : VF).vc.toNat % 16 ≤ 5 ∧
    rowElements (cvtFormats { vo with ty := 11, vc := 6 }).1 = 16 ∧ rowElements (cvtFormats { vo with ty := 11, vc := 6 }).2 = 64 ∧
    isOk (vm.sources [(1, (4 * min 16 64 + 16 - 1) / 16)]) = true ∧ takes vm { vo with vd := 0x80 } [(1, 4)] 1 = true ∧
    takes vm { vo with vd := 0x11 } [(1, 4)] 1 = true ∧ takes vm { vo with vd := 0x0E } [(1, 4)] 1 = true ∧
    (Fmt.f ff32).dec 0x3FC00000 = .fin false 12582912 (-23) := by decide +kernel

/-! ## Commands -/

/-- A context with a lease, banks 8 to 15 and 37, every tag, an XCFG committed and staging registers in form in set A: a
32-deep mma into bank 8, a copy of 64 bytes to an address, a tile of 16 × 32, a scatter over one element. -/
def cctx (dst : DWord) : Ctx :=
  { vctx [] with
    lease := 2, banks := 0x2000000000FF00, tagm := BitVec.allOnes 64
    e := { (vctx []).e with
      xcommitted := true
      stg := [(3, 32), (4, 0x800), (17, dst), (18, 64), (37, 0x200010), (49, 1)] } }
/-- The machine of the commands: the copy writes to a local address. -/
def cm : State := mach 0 0 (cctx 0x2000) default
/-- The copy writes to the window of tile 1. -/
def cw : State := mach 0 0 (cctx 0x1000080000) default

theorem wit_matrix_commands :
    HasRoom cm 0 (some false) ∧ HasRoom cm 0 none ∧ cm.timed = false ∧ cm.fctx.lease ≠ 0 ∧
    mmaBad ⟨6, false, false, 0, false, false, false⟩ (cm.stgCopy 0) = false ∧
    ¬ ((6 : BitVec 4).toNat = 6 ∧ (fld ((cm.stgCopy 0).getD 4 0) 1 0 = 3 ∨ fld ((cm.stgCopy 0).getD 4 0) 3 2 = 3)) ∧
    HoldsBlock cm (fld ((cm.stgCopy 0).getD 4 0) 13 8) true ∧ HoldsBlock cm (fld ((cm.stgCopy 0).getD 4 0) 13 8) false ∧
    HoldsBlock cm 53 false ∧ drainBad ⟨6, 0, false, false, 3, false, false⟩ (cm.stgCopy 0) = false ∧
    ¬ ((6 : BitVec 4).toNat = 6 ∧ fld ((cm.stgCopy 0).getD 4 0) 5 4 = 3) ∧ mlsBad (cm.stgCopy 0) = false ∧
    cm.fctx.tagm.getLsbD 63 = true := by
  unfold HasRoom HoldsBlock
  decide +kernel
theorem wit_copy_commands :
    HasRoom cm 1 (some false) ∧ copyBad ⟨0, false, 3, 2, 0, false⟩ (cm.stgCopy 1) = false ∧
    toWindow ⟨0, false, 3, 2, 0, false⟩ (cm.stgCopy 1) = false ∧ toWindow ⟨0, false, 3, 2, 0, false⟩ (cw.stgCopy 1) = true ∧ (cw.fctx.streams.get 2).broken = false ∧
    cw.mayReserve 0 0 (copyPackets ⟨0, false, 3, 2, 0, false⟩ (cw.stgCopy 1)) = true ∧ HasRoom cw 1 (some false) ∧
    copyPackets ⟨0, false, 3, 2, 0, false⟩ (cw.stgCopy 1) = 1 ∧ fld ((cm.stgCopy 1).getD 10 0) 63 19 = 0 ∧
    fld ((cm.stgCopy 1).getD 11 0) 63 19 = 0 ∧ fld ((cm.stgCopy 1).getD 12 0) 63 19 = 0 := by
  unfold HasRoom
  decide +kernel
theorem wit_quant_commands :
    HasRoom cm 2 (some false) ∧ quantBad (cm.stgCopy 2) = false ∧ (qGeo (cm.stgCopy 2)).badLayout = false ∧
    ¬ ((8 : BitVec 4).toNat = 8 ∧ (qGeo (cm.stgCopy 2)).es = 3) ∧
    (qGeo (cm.stgCopy 2)).outside (tyBits 11) (efBits 4) = none ∧ (qGeo (cm.stgCopy 2)).outside (efBits 0) (tyBits 8) = none ∧
    fld ((cm.stgCopy 2).getD 0 0) 63 19 = 0 ∧ fld ((cm.stgCopy 2).getD 0 0) 18 0 % 64 = 0 ∧
    fld ((cm.stgCopy 2).getD 0 0) 18 0 + 16 * ((63 : BitVec 6).toNat + 1) ≤ 0x60000 := by
  unfold HasRoom
  decide +kernel
theorem wit_scatter_commands :
    HasRoom cm 3 (some false) ∧ HasRoom cm 3 none ∧ xcfgBad ⟨7, 1, 2, false⟩ (cm.stgCopy 3) = false ∧
    cm.fixedOrder = false ∧ cm.fctx.e.xcommitted = true ∧ cm.fctx.e.lastXcfg = none ∧
    cm.mayReserve 0 0 (((upFrom 0 (16 * ((15 : BitVec 4).toNat + 1))).filter fun e =>
      (BitVec.allOnes 1024).getLsbD (4 * e)).length) = true := by
  unfold HasRoom
  decide +kernel
/-- A context with two copies waiting. -/
def queued : State :=
  match exec (.copy ⟨0, false, 3, 2, 0, false⟩) cm with
  | .next t => { t with ctxs := t.ctxs.set 0 { t.fctx with
      e := { t.fctx.e with busy := 0, fill := 0, queue := t.fctx.e.queue ++ t.fctx.e.queue } } }
  | _ => cm
theorem wit_command_stops :
    stagedHeader (.mma ⟨0, false, false, 0, false, false, false⟩) = some (0, false) ∧ sc.fctx.lease = 0 ∧
    sc.fctx.e.fill.getLsbD 0 = false ∧ cm.fctx.e.fill.getLsbD 1 ≠ true ∧
    busyC.fctx.e.busy.getLsbD (2 * 1 + false.toNat) = true ∧ busyC.timed = false ∧
    2 ≤ (queued.fctx.e.queue.filter fun c => c.eng == 1).length ∧ queued.timed = false := by decide +kernel

/-- A copy leaves its set busy, fills the other, clears its tag and counts it out (R61, R314). -/
theorem test_copy_enters :
    (match exec (.copy ⟨0, false, 3, 2, 0, false⟩) cm with
      | .next t => some (t.fctx.e.fill, t.fctx.e.busy, t.fctx.e.queue.length, t.ftile.out.get 3)
      | _ => none) = some (2, 4, 1, 1) := by decide +kernel
theorem wit_scatter_operands : cleanO cm 2 16 ∧ cleanO cm 1 16 :=
  ⟨clean_of _ _ _ (by decide +kernel), clean_of _ _ _ (by decide +kernel)⟩

/-! ## Control -/

/-- A half with a segment at 0x1000 of six empty bundles: ALT 0x2000, NEXT 0x3000. -/
def seg : Half :=
  { (default : Half) with
    valid := true, addr := 0x1000
    syls := [0x300#32, 0x40000000#32, 0#32, 0x018C0000#32, 1#32, 1#32, 1#32, 1#32, 1#32, 1#32] }
/-- The lead at bundle 2 of that segment. -/
def lm (x : Ctx) (h : Half) : State :=
  { mach 0 0 { x with lead := { x.lead with h0 := h } } default with
    focus := { Focus.none with no := 5, pos := ⟨0x1000, 2, 0⟩ } }
/-- A segment without ALT and NEXT, of three empty bundles. -/
def segEnd : Half :=
  { (default : Half) with valid := true, addr := 0x1000, syls := [0#32, 0#32, 0#32, 0x00C00000#32, 1#32, 1#32, 1#32] }
/-- s1 is a code position, s2 a segment address, s3 an illegal position, s4 a count of 3 passes in one stage. -/
def xm : State := lm (ctxOf 0x800020 0x4000 0x8000000000000000 0x100000003) seg

theorem wit_transfers :
    xm.deciding = true ∧ recNextv xm.myHalf.record = true ∧ recAltv xm.myHalf.record = true ∧
    recNextv (lm (ctxOf 0 0 0 0) segEnd).myHalf.record = false ∧
    (lm (ctxOf 0 0 0 0) { segEnd with syls := segEnd.syls.take 4 ++ [1#32, 1#32, 0x00200001#32] }).myHalf.left 2 = some 2 ∧
    (xm.rs 1).getLsbD 63 = false ∧ (xm.rs 2).toNat % 16 = 0 ∧ (xm.rs 2).toNat < 2 ^ 57 := by decide +kernel
theorem wit_transfer_stops :
    (mach 0 1 (ctxOf 0 0 0 0) default).deciding = false ∧ xm.deciding = true ∧
    recAltv (lm (ctxOf 0 0 0 0) segEnd).myHalf.record = false ∧ (lm (ctxOf 0 0 0 0) segEnd).deciding = true ∧
    (xm.rs 3).getLsbD 63 = true ∧ 2 ^ 57 ≤ (xm.rs 3).toNat := by decide +kernel
theorem wit_loops :
    xm.deciding = true ∧ (2 : BitVec 7).toNat ≤ xm.focus.pos.idx ∧ xm.focus.pos.idx < (3 : BitVec 7).toNat ∧
    xm.fctx.r.late = [] ∧ (mach 0 1 (ctxOf 0 0 0 0) default).deciding = false := by decide +kernel
/-- The lead in timetabled mode, or with a command of an earlier bundle under way. -/
def tm : State := mach 1 0 (ctxOf 0 0 0 0) default
/-- A matrix command that waits, from a bundle of cycle 99. -/
def oldCmd : Cmd :=
  { eng := 0, instr := .mzero ⟨3, false, true, false, false⟩, hdr := 0, stg := [], set := none, idx := 0, at' := 99, ord := 0,
    prog := 0, rsv := none, ix := 0, vx := 0, mask := 0, baddr := 0 }
def waiting : State := mach 0 0 { ctxOf 0 0 0 0 with e := { (ctxOf 0 0 0 0).e with queue := [oldCmd] } } default
theorem wit_yield_exit :
    tm.timed = true ∧ sc.timed = false ∧ sc.deciding = true ∧ sc.fctx.banks = 0 ∧ cm.fctx.banks ≠ 0 ∧
    waiting.fctx.banks = 0 ∧ waiting.cmdsOpen = true ∧ sc.cmdsOpen = false ∧ sc.fctx.e.sqA = [] ∧ sc.fctx.e.sqB = [] ∧
    ({ ctxOf 0 0 0 0 with e := { (ctxOf 0 0 0 0).e with sqA := [7] } } : Ctx).e.sqA ≠ [] := by decide +kernel
/-- A context that holds granule 0 and asks for granules 0, 1 and 15; s2 asks for all. -/
def am : State :=
  mach 0 0 { ctxOf 0x8003 0xFFFF 5 66 with
    gran := [(0, 7), (3, 2)], banks := 0xFF, bbud := 9, parks := 0x40000000000000000 } default
theorem wit_file_allotment :
    am.deciding = true ∧ am.focus.ctx < (am.car 0 0).nctx ∧ (am.fctx.gran.map (·.1)).Pairwise (· < ·) ∧
    (∀ e ∈ am.fctx.gran, e.1 < 16) ∧ (am.freeGran 0 0).length = 14 ∧
    ((upFrom 0 16).filter fun g => (am.rs 1).getLsbD g && (am.fctx.gran.find? g).isNone) = [1, 15] ∧
    ((upFrom 0 16).filter fun g => (am.rs 2).getLsbD g && (am.fctx.gran.find? g).isNone).length ≤ 14 ∧
    (am.rs 1).getLsbD 0 = true ∧ am.fctx.gran.find? 0 = some 7 := by decide +kernel
/-- Too few free granules: another context holds fifteen. -/
def crowded : State :=
  { am with ctxs := [(0, am.fctx), (1, { ctxOf 0 0 0 0 with gran := (upFrom 0 15).map fun g => (g, g + 1) })] }
theorem wit_allotment_fails :
    (crowded.freeGran 0 0).length < ((upFrom 0 16).filter fun g =>
      (crowded.rs 1).getLsbD g && (crowded.fctx.gran.find? g).isNone).length := by decide +kernel
theorem wit_accumulator_allotment :
    am.deciding = true ∧ popCount am.fctx.banks.toNat 64 + (1 : BitVec 7).toNat = am.fctx.bbud ∧
    am.fctx.bbud < popCount am.fctx.banks.toNat 64 + (2 : BitVec 7).toNat ∧ am.bankFind false 1 = some 8 ∧
    ({ am with ctxs := [(0, { am.fctx with banks := BitVec.allOnes 64, bbud := 65 })] } : State).bankFind false 1 = none ∧
    (am.rs 3).toNat + (3 : BitVec 7).toNat ≤ 64 ∧ am.bankBusy 5 3 = false ∧
    (∀ b, b < 8 → 5 ≤ b → am.fctx.banks.getLsbD b = true) ∧
    (upFrom 0 128).find? (slotFree (am.banksHeld 0 0) (am.parksHeld 0 0)) = some 16 ∧
    am.fctx.parks.getLsbD 66 = true := by decide +kernel
theorem wit_lease :
    (sc.fctx.e.queue.any fun c => c.eng == 0 && decide (c.at' < sc.t)) = false ∧
    (waiting.fctx.e.queue.any fun c => c.eng == 0 && decide (c.at' < waiting.t)) = true ∧ waiting.timed = false ∧
    ({ (default : Tile) with holder := some 0 } : Tile).holder = some sc.focus.ctx ∧ sc.ftile.holder ≠ some sc.focus.ctx := by
  decide +kernel

/-- BR at the lead: two delay positions, then ALT (R56, R112). -/
theorem test_br :
    (match exec .br xm with
      | .next t => t.fctx.lead.flow.pend
      | _ => none) = some (some ⟨0x2000, 0, 0⟩, 2) := by decide +kernel
/-- LOOP counts down, and does not at 0 (R116). -/
theorem test_loop :
    getS (exec (.loop 4 1) xm) 150 4 = some 0x100000002 ∧ getS (exec (.loop 5 1) xm) 150 5 = some 0 := by decide +kernel
/-- The least free granules, here 0 and 1, are allotted: the answer is the mask held (R255). -/
theorem test_allot :
    getS (exec (.allot 9 1) am) 150 9 = some 0x800B ∧
    (match exec (.allot 9 1) am with
      | .next t => (t.fctx.gran.find? 1, t.fctx.gran.find? 15)
      | _ => (none, none)) = (some 0, some 1) := by decide +kernel
theorem wit_parked : cleanV am (physV am.fctx.r.voff 3) 16 ∧ cleanRows am (accKey 0 0 (1024 * 66)) 16 :=
  ⟨clean_of _ _ _ (by decide +kernel), clean_of _ _ _ (by decide +kernel)⟩

/-! ## Barriers, tags, semaphores, fences, streams -/

/-- s1 = a descriptor of a tile barrier of context 0, s2 = a tag mask, s3 = a count, s4 = the window of tile 1. Barrier 1 has
seen the context's arrival in its phase 3, barrier 2 has completed it, barrier 3 wants context 1, and semaphore 5 has 9.
Stream 2 is bound to tile 1, stream 3 to HBM4 stack 0, stream 4 is broken. -/
def bm (tile : Tile) : State :=
  mach 0 0 { ctxOf 0x100000000000000 0x18 9 0x1000080000 with
    tagm := 0x3F
    streams := [(2, { (default : Stream) with bound := some ⟨0, 0, 0, 1⟩, next := 3 }),
      (3, { (default : Stream) with bound := some ⟨0, 0, 1, 0⟩, epoch := 7, next := 1 }),
      (4, { (default : Stream) with bound := some ⟨0, 0, 0, 1⟩, broken := true, next := 6 })] }
    { tile with
      tags := 8
      sems := [(5, 9)]
      bars := [(1, ⟨some 0x100000000000000, 2, [(0, (3, 90))], none⟩), (2, ⟨some 0x100000000000000, 3, [(0, (3, 90))], none⟩),
        (3, ⟨some 0x200000000000000, 0, [], none⟩)] }
/-- The machine with nothing more at its tiles. -/
def bz : State := bm default

theorem wit_barriers :
    bz.deciding = true ∧ bz.barBad 0 0 (bz.rs 2) = true ∧ bz.barBad 0 0 (bz.rs 1) = false ∧
    (bz.ftile.bars.get 0).cfg = none ∧ (bz.ftile.bars.get 1).cfg = some (bz.rs 1) ∧ (bz.ftile.bars.get 3).cfg ≠ some (bz.rs 1) ∧
    (bz.ftile.bars.get 3).anyArrived = false ∧ bz.barBad 0 0 0x300000000000000 = false ∧
    (bz.ftile.bars.get 1).anyArrived = true ∧ (bz.ftile.bars.get 1).arrived 0 = true ∧
    (bz.ftile.bars.get 2).arrived 0 = false ∧ (0x100000000000000 : DWord).getLsbD (56 + 0) = true ∧
    (0x200000000000000 : DWord).getLsbD (56 + 0) = false ∧ (bz.ftile.bars.get 1).arr.find? 0 = some (3, 90) ∧
    (bz.ftile.bars.get 1).phase < 3 ∧ 3 ≤ (bz.ftile.bars.get 2).phase ∧ bz.timed = false := by decide +kernel
theorem wit_tags :
    bz.rs 2 &&& ~~~bz.fctx.tagm = 0 ∧ bz.ftile.tags &&& bz.rs 2 ≠ 0 ∧ bz.ftile.tags &&& bz.rs 2 ≠ bz.rs 2 ∧
    bz.ftile.tags &&& (8 : DWord) = 8 ∧ bz.ftile.tags &&& (0x10 : DWord) = 0 ∧ bz.fctx.r.late = [] ∧
    (0x41 : DWord).getLsbD 6 = true ∧ bz.fctx.tagm.getLsbD 6 = false ∧
    (∀ j, j < 6 → (0x41 : DWord).getLsbD j = true → bz.fctx.tagm.getLsbD j = true) := by decide +kernel
theorem wit_semaphores :
    bz.ftile.semQ = [] ∧ (bz.rs 3).toNat % 2 ^ 32 = ((bz.ftile.semSettle bz.now).sems.get 5).toNat ∧
    ((bz.ftile.semSettle bz.now).sems.get 6).toNat < (bz.rs 3).toNat % 2 ^ 32 := by decide +kernel
/-- A packet of the context to tile 1 that is not yet acknowledged. -/
def pktTo1 : Pkt :=
  { (default : Pkt) with
    src := ⟨0, 0, 0, 0, 2⟩, seq := 2, kind := .store, dst := ⟨0, 0, 0, 1⟩, addr := padAddr 1 0, data := [1, 2], len := 2,
    tries := 1, sent := 90, born := 90 }
theorem wit_fences :
    tm.timed = true ∧ bz.timed = false ∧ bz.fctx.e.queue = [] ∧ bz.ftile.runs = [] ∧ bz.ftile.retx = [] ∧
    bz.ftile.window = [] ∧ bz.ftile.pend = [] ∧ bz.lates = [] ∧
    fenceWaits { bm { (default : Tile) with retx := [{ pktTo1 with ref := true, ord := 0 }] } with flitNo := 1 } 7 := by
  refine ⟨by decide +kernel, by decide +kernel, by decide +kernel, by decide +kernel, by decide +kernel, by decide +kernel,
    by decide +kernel, by decide +kernel, .inr (.inr (.inl ⟨_, List.mem_singleton.2 rfl, by decide +kernel, by decide +kernel,
      trivial⟩))⟩
/-- The place that a remote access names, if it names one. -/
def placeOf (s : State) (va n : Nat) (g : Agent) : Option Place :=
  match s.remotePlace va n g with
  | .ok (_, p) => some p
  | .error _ => none
theorem wit_remote :
    placeOf bz (bz.rs 4).toNat 8 .marker = some (.tile 1 0) ∧ placeOf bz (bz.rs 4).toNat 1 .read = some (.tile 1 0) ∧
    isOk (bz.remoteStream 2 (.tile 1 0)) = true ∧ isOk (bz.remoteStream 9 (.tile 1 0)) = true ∧
    (bz.endpoint 0 (.tile 1 0)).kind = 0 ∧ bz.guard 0 false = true ∧ (bz.rs 3).toNat < 0x60000 ∧
    (0x1000080001 : DWord).toNat % 2 ≠ 0 ∧ (bz.fctx.streams.get 3).bound = some ⟨0, 0, 1, 0⟩ ∧
    (⟨0, 0, 1, 0⟩ : Endpoint) ≠ bz.endpoint 0 (.tile 1 0) := by decide +kernel
theorem wit_stream_close :
    (bz.ftile.window.any fun e => e.ctx == bz.focus.ctx && e.stm == 3 && decide (0x60000 ≤ e.va)) = false ∧ (bz.fctx.streams.get 1).bound = none ∧
    (bz.fctx.streams.get 4).broken = true ∧ (bz.fctx.streams.get 4).bound = some ⟨0, 0, 0, 1⟩ ∧
    (bz.fctx.streams.get 3).broken = false ∧ bz.mayDepart 0 0 0 3 = true ∧
    bz.endpoint 0 (endpointPlace bz.modnum ⟨0, 0, 1, 0⟩) = ⟨0, 0, 1, 0⟩ := by decide +kernel

/-- Tag 3 is the lowest set tag of the mask; with an empty mask FFR gives 64 (R315). -/
theorem test_ffr :
    getS (exec (.ffr 9 2) bz) 150 9 = some 3 ∧ getS (exec (.ffr 9 0) bz) 150 9 = some 64 := by decide +kernel
/-- A remote store opens its binding with number 0 and sends the low two bytes (R325, R328). -/
theorem test_rst :
    (match exec (.rst ⟨1, 4, 9, 1, 0, false⟩) { bz with ctxs := bz.ctxs.set 0 { bz.fctx with
        r := { bz.fctx.r with s := [(1, 0xABCD1234), (4, 0x1000080000)] } } } with
      | .next t => t.ftile.retx.map fun p => (p.seq, p.opn, p.data, p.addr)
      | _ => []) = [(0, true, [0x34, 0x12], padAddr 1 0)] := by decide +kernel
/-- SEMW takes 9 of the 9 units; SEMSIG wraps (R335). -/
theorem test_semw :
    (match exec (.semw 3 5) bz with
      | .next t => some ((t.ftile.semSettle t.now).sems.get 5)
      | _ => none) = some 0 := by decide +kernel
theorem wit_remote_signal :
    placeOf bz (bz.rs 4).toNat 8 .signal = some (.tile 1 0) ∧ (bz.endpoint 0 (.tile 1 0)).kind = 0 ∧
    bz.heldPage (bz.rs 4).toNat .signal = false := by decide +kernel
/-- A fence goes on where nothing of its context is open. -/
theorem wit_fence_goes_on : ¬ fenceWaits bz 7 := by
  rintro (⟨m, hm, -⟩ | ⟨m, hm, -⟩ | ⟨m, hm, -⟩ | ⟨m, hm, -⟩ | ⟨m, hm, -⟩ | ⟨m, hm, -⟩)
  · exact absurd hm (by rw [show bz.fctx.e.queue = [] from by decide +kernel]; simp)
  · exact absurd hm (by rw [show bz.ftile.runs = [] from by decide +kernel]; simp)
  · exact absurd hm (by rw [show bz.ftile.retx = [] from by decide +kernel]; simp)
  · exact absurd hm (by rw [show bz.ftile.window = [] from by decide +kernel]; simp)
  · exact absurd hm (by rw [show bz.ftile.pend = [] from by decide +kernel]; simp)
  · exact absurd hm (by rw [show bz.lates = [] from by decide +kernel]; simp)

/-! ## Launches, hauls, isolation, recovery -/

/-- Die 0 of the system tests: the ASID table at 0x40000, where ASID 1 may run the isolation instructions and has its range
table at 0x50000, whose entry 0 maps 0x100000 to 0x1FFFFF onto themselves with R, W and X. The caravan 1 stands at tiles 0
and 1, caravan 2 of waybill 2 at tile 2. The journal records into a ring of 2^10 entries at 0x80000. -/
def sysDie : Die :=
  { Die.afterReset true 0 with
    cars := [(1, carOf 0), (2, { (default : Car) with wb := 2, col := 2, h := 1, w := 1, nctx := 1, asid := 1 })]
    wbs := [(1, ⟨1, [], 1, 0, false⟩), (2, ⟨2, [], 1, 0, false⟩)]
    ttc := 100
    ctl := [(0, 0x100), (0x80, 0x40000), (0xB0, 0x22), (0x400, 0x800000000008000A)]
    hauls := [{ (default : Haul) with wb := 1, rtgt := 2, nslot := 2, slotLg := 20, depot := 0x10000000, slots := [(0, ⟨2, 1, 3, false⟩)] }]
    tlb := [⟨1, 0x100, ⟨0, 0x100000, 7, none, 12⟩⟩, ⟨2, 0x100, ⟨0, 0x100000, 7, none, 12⟩⟩] }
/-- The memory of the system tests, with valid images of a waybill at 0x5FF00 and of a timetabled one at 0x100. -/
def sysMem : Memory :=
  [(0x40027, 0xC0), (0x4002A, 5), (0x50002, 0x10), (0x50007, 0x80), (0x5000A, 0x20), (0x50012, 0x10), (0x5001F, 7),
   (padKey 0 0 0x103, 0x10), (padKey 0 0 0x104, 1), (padKey 0 0 0x106, 2), (padKey 0 0 0x160, 1),
   (padKey 0 0 0x5FF04, 1), (padKey 0 0 0x5FF06, 1)]
/-- The machine: s1 = 0x100, s2 = 0x5FF00, s3 = 8, which names the stopped context 0 of caravan 2, s4 = 1. -/
def ym : State :=
  { free 0x100 0x5FF00 8 1 with
    mem := sysMem, dies := [(0, sysDie)]
    ctxs := [(0, { ctxOf 0x100 0x5FF00 8 1 with lead := { (ctxOf 0 0 0 0).lead with h0 := seg } }), (16, { (default : Ctx) with st := .stopped })]
    tiles := [(0, { (default : Tile) with occ := some 1 }), (1, { (default : Tile) with occ := some 1 }),
      (2, { (default : Tile) with occ := some 2 })] }
/-- Bits h to l of the doubleword at an offset of an image. -/
def imgField (a off h l : Nat) : Nat := leNat (((ym.image a).drop off).take 8) / 2 ^ l % 2 ^ (h + 1 - l)

theorem wit_launches :
    ym.deciding = true ∧ (ym.rs 2).toNat + 256 = 0x60000 ∧ (ym.rs 1).toNat % 64 = 0 ∧
    imgField 0x5FF00 0 63 48 = 1 ∧ imgField 0x5FF00 0 47 32 = (ym.car 0 0).asid ∧ imgField 0x5FF00 0 31 30 = 0 ∧
    imgField 0x5FF00 0 29 28 = 0 ∧ imgField 0x100 0 63 48 = 2 ∧ imgField 0x100 0 29 28 = 1 ∧ imgField 0x100 0x60 56 0 = 1 ∧
    ((ym.die 0).queues.get 3).length < 32 ∧ (List.replicate 32 (⟨1, []⟩ : QEnt)).length = 32 := by decide +kernel
theorem wit_haul_advance :
    sc.deciding = true ∧ (sc.die 0).haulOf 1 = none ∧ ((ym.die 0).haulOf 1).map (·.nslot) = some 2 ∧
    (∀ h ∈ (ym.die 0).haulOf 1, (h.slots.get 0).st = 2 ∧ (h.slots.get 1).st ≠ 2 ∧ 2 ≤ (ym.rs 3).toNat ∧
      (h.slots.get 0).rel + 1 = h.rtgt ∧ ((ym.car 0 0).tiles.any fun t => ym.slotRead t 0 h) = false) ∧
    (ym.rs 0).toNat = 0 ∧ (ym.rs 4).toNat = 1 := by decide +kernel
theorem wit_isolation :
    ym.timed = false ∧ ym.asidSys 0 (ym.car 0 0).asid = true ∧ sc.asidSys 0 (sc.car 0 0).asid = false ∧ sc.focus.ctx ≠ 4 ∧
    ym.fctx.lead.isol = none ∧ (ym.rs 4).toNat % 2 ^ 16 = 1 ∧ (ym.die 0).tlb.length = 2 := by decide +kernel
theorem wit_isolation_idle :
    ym.isoBusy 0 (some 1) ym.now = false ∧ ym.isoBusy 0 none ym.now = false ∧ isOk (ym.rngsetCheck 1) = true := by
  decide +kernel
theorem wit_trap_return :
    xm.deciding = true ∧ xm.focus.ctx ≠ 4 ∧ xm.fctx.t.hm = false ∧
    ({ (default : TrapSt) with hm := true } : TrapSt).hm = true ∧ (mach 0 1 (ctxOf 0 0 0 0) default).deciding = false := by
  decide +kernel
/-- The machine with the target damaged, or in the middle of a save. -/
def yd : State := { ym with ctxs := [(0, ym.fctx), (16, { (default : Ctx) with st := .damaged })] }
def yg (r : Option (Option TrapInfo)) : State :=
  { ym with ctxs := [(0, { ym.fctx with lead := { ym.fctx.lead with sysGo := true, sysRes := r } })] }
/-- An area at a page that the range maps. -/
def ys : State :=
  { ym with ctxs := [(0, { ctxOf 0x100000 0x5FF00 8 1 with lead := ym.fctx.lead }), (16, { (default : Ctx) with st := .stopped })] }
/-- The start of a save: what the statement asks of it. -/
def saveStarts : Bool :=
  match ys.ctxStart false 3 1 (some (0, 0)) with
  | .ok s1 => s1.deciding && s1.myLead.sysRes.isNone && (s1.die 0).saves.length == 1
  | .error _ => false
theorem wit_context_commands :
    ym.deciding = true ∧ (match ym.ctxTarget 3 with | .ok e => e == (2, 0) | .error _ => false) = true ∧
    (match yd.ctxTarget 3 with | .ok e => e == (2, 0) | .error _ => false) = true ∧ (yd.ctx 0 2 0).st = .damaged ∧
    (ym.ctx 0 2 0).st ≠ .damaged ∧ ((ym.die 0).wbs.get (ym.car 0 2).wb).aborted = false ∧
    (yg none).fctx.lead.sysGo = true ∧ (yg none).deciding = true ∧ (yg none).fctx.lead.sysRes = none ∧
    (yg (some none)).fctx.lead.sysRes = some none ∧ ys.fctx.lead.sysGo = false := by decide +kernel
theorem wit_save_starts : saveStarts = true := by decide +kernel
theorem wit_journal :
    (ym.ctl 0 0x400).getLsbD 63 = true ∧ fld (ym.ctl 0 0x400) 4 0 = 10 ∧ (ym.car 0 0).mode = 0 ∧
    fld (ym.ctl 0 0xB0) 7 4 ≠ 1 ∧ ym.recording 0 = true ∧ ym.focus.ctx < 4 ∧
    (sc.ctl 0 0x400).getLsbD 63 = false := by decide +kernel
theorem wit_taking_a_trap :
    sc.fctx.t.cur = none ∧ (sc.car 0 0).leadTile = sc.focus.tile ∧ (sc.car 0 0).hops 0 = 0 ∧
    sc.fctx.lead.inWindow = false ∧
    ({ sc with ctxs := [(0, { sc.fctx with t := { sc.fctx.t with cur := some default } })] } : State).fctx.t.cur.isSome = true := by
  decide +kernel
/-- The lead in the last position of a bundle, with a software trap noted, or an ERET, and what its handler interrupted. -/
def tp : State :=
  let x := ctxOf 0 0 0 0
  let flow : Flow := { (default : Flow) with pos := ⟨0x1000, 0, 1⟩, trapN := some 7 }
  { sc with ctxs := [(0, { x with lead := { x.lead with flow := flow, saved := some ⟨[], default, 4, 0⟩ } }),
      (1, { x with lead := { x.lead with flow := { flow with trapN := none, after := 3 } } })] }
theorem wit_software_trap :
    (tp.lead 0 0 0).flow.trapN = some 7 ∧ (tp.lead 0 0 0).flow.pend = none ∧ 1 ≤ (tp.lead 0 0 0).flow.pos.ioff ∧
    (tp.ctx 0 0 0).t.cur = none ∧ (tp.lead 0 0 1).flow.after = 3 ∧ (tp.lead 0 0 1).flow.trapN = none ∧
    (tp.lead 0 0 1).flow.pend = none ∧ 1 ≤ (tp.lead 0 0 1).flow.pos.ioff ∧
    (tp.lead 0 0 0).saved = some ⟨[], default, 4, 0⟩ := by decide +kernel

/-- A launch of the image at 0x5FF00 is appended: s9 = 1 (R268). -/
theorem test_launch : getS (exec (.launch 2 9 3) ym) 150 9 = some 1 := by decide +kernel
/-- The second release of two frees the slot; a caravan without a haul list takes 0x94 (R295). -/
theorem test_hadv :
    (match exec (.hadv 0) ym with
      | .next t => ((t.die 0).haulOf 1).map fun h => (h.slots.get 0).st
      | _ => none) = some 0 ∧ (getTrap (exec (.hadv 0) sc)).map (·.1) = some 0x94 := by decide +kernel
/-- TLBINVA drops the translations of ASID 1; without SYS it takes the privilege trap (R387, R389). -/
theorem test_tlbinva :
    (match exec (.tlbinva 4) ym with
      | .next t => (t.die 0).tlb.map (·.asid)
      | _ => []) = [2] ∧ (getTrap (exec (.tlbinva 4) sc)).map (·.1) = some 0x4F := by decide +kernel
/-- JMARK writes its entry at the head of the ring: s[BX] in the third doubleword (R462). -/
theorem test_jmark :
    (match exec (.jmark 2 7) ym with
      | .next t => (leNat (t.mem.readN 0x80010 8), leNat (t.mem.readN 0x80018 8))
      | _ => (0, 0)) = (0x5FF00, 7) := by decide +kernel
theorem wit_isolation_drops :
    (ym.dropTlb 0 fun e => e.asid == 1).isoBusy 0 (some 1) ym.now = false ∧
    (ym.dropTlb 0 fun _ => true).isoBusy 0 none ym.now = false := by decide +kernel

/-! ## The machine's own steps -/

/-- A bundle with number n and no slot. -/
def empty (n : Nat) : Issued := ⟨n, ⟨0x1000, 0, 1⟩, 0x1010, 1, default, [], [], [], false⟩
/-- The lead of caravan 1 in the second of the three idle cycles of bundle 0 of its segment, with bundles 3 and 4 on their
way to tile 1, whose context is given. -/
def em (y : Ctx) (lat : List (Nat × Nat)) : State :=
  { free 0 0 0 0 with
    ctxs := [(0, { ctxOf 0 0 0 0 with lead := { (ctxOf 0 0 0 0).lead with
        h0 := { seg with syls := seg.syls.take 4 ++ [0x00300001#32, 1#32, 1#32, 1#32, 1#32, 1#32] }
        flow := { (default : Flow) with pos := ⟨0x1000, 0, 1⟩ }, no := 5, hist := [empty 3, empty 4] } }),
      (8, { y with st := .ready, inbox := [(3, 100), (4, 101)], latch := lat })] }

theorem wit_lead_issue :
    let s := em default []
    let x := s.ctx 0 0 0
    (s.tile 0 0).miss = none ∧ (s.tile 0 0).occ.isSome = true ∧ (s.car 0 0).leadTile = 0 ∧ (s.die 0).freeze = none ∧
    (s.car 0 0).mode = 0 ∧ (s.tile 0 0).cur = 0 ∧ x.st = .ready ∧ x.lead.halted = false ∧ x.lead.stop = none ∧
    x.lead.exitPh = 0 ∧ s.histFull 0 0 0 = false ∧ x.stopIn = [] ∧ x.rld = [] ∧ x.hold = [] ∧ x.r.late = [] ∧
    x.lead.re = none ∧ x.lead.flow.pend = none ∧ x.lead.flow.edge = none ∧ x.lead.flow.trapN = none ∧
    x.lead.cur.has x.lead.flow.pos.seg = true ∧ (x.lead.flow.chk = true → x.lead.flow.pos.bit63 = false) ∧ (s.ctxs.all fun e => e.2.lead.flow.after == 0) = true ∧
    (match readBundle x.lead.cur x.lead.flow.pos x.lead.flow.chk with
      | .idle n _ => n
      | _ => 0) = 3 ∧ (s.tile 0 5).occ = none := by decide +kernel
theorem wit_follow :
    let s := em default []
    (s.bundleNo 0 1 0 3).map (·.no) = some 3 ∧ (s.bundleNo 0 1 0 3).map (·.slots) = some [] ∧ (s.ctx 0 1 0).nextNo ≤ 3 ∧
    (s.ctx 0 1 0).t.cur = none ∧ (s.ctx 0 1 0).lastAt + 1 ≤ s.clock 0 1 ∧ (s.ctx 0 1 0).latch = [] ∧
    (s.ctx 0 1 0).inbox.head? = some (3, 100) ∧ (em default [(2, 98)]).ctxs.length = 2 ∧
    ((em default [(3, 98)]).ctx 0 1 0).latch.head? = some (3, 98) := by decide +kernel
/-- A record of kind B. -/
def recB : Rec :=
  ⟨{ cause := 0x41, kind := 0, eng := 1 }, 3, false, 0, 0, 0, 0, ⟨0x1000, 0, 0⟩, 0x1010, ⟨0, 0, 0⟩⟩
theorem wit_latch :
    ((em { (default : Ctx) with t := { (default : TrapSt) with cur := some recB } } [(3, 98)]).ctx 0 1 0).t.cur = some recB ∧
    recB.info.kind ≤ 1 ∧ (em default []).leadTileOf 0 1 ≠ 1 ∧
    ((em default ((upFrom 0 12).map fun n => (n, 99))).ctx 0 1 0).latch.length = 12 ∧
    ((em { (default : Ctx) with stopOut := true } ((upFrom 0 11).map fun n => (n, 99))).ctx 0 1 0).latch.length < 12 := by
  decide +kernel
/-- A segment that is being fetched to the current half, or to the spare one (R42): at the page that the range of ASID 1
maps, which is in the micro-TLB, and at one that nothing maps, whose fault has been found. -/
def fm (a : Nat) (spare : Bool) : State :=
  { ym with
    ctxs := [(0, { ctxOf 0 0 0 0 with lead := { (ctxOf 0 0 0 0).lead with
      sel := spare, h0 := { (default : Half) with valid := true, addr := a, next := some 100 } } })]
    tiles := ym.tiles.modify 0 fun t => { t with micro := [(1, 0x100)], piped := [(0, 1, 0x300)] } }
theorem wit_fetch :
    (fm 0x100000 false).streamHas ((fm 0x100000 false).who 0 0 0) 0 0x100000 = true ∧
    (fm 0x300000 true).streamHas ((fm 0x300000 true).who 0 0 0) 0 0x300000 = true ∧
    ((fm 0x100000 false).tile 0 0).fetchAt ≠ 101 ∧
    ({ (default : Tile) with fetchAt := 101 } : Tile).fetchAt = 100 + 1 ∧
    ((fm 0x100000 false).ctx 0 0 0).lead.cur.lineDue 100 = true ∧
    ((fm 0x300000 true).ctx 0 0 0).lead.cur.lineDue 100 = false ∧
    ((fm 0x300000 true).ctx 0 0 0).lead.spare.lineDue 100 = true ∧
    (match ((fm 0x100000 false).fetchLine 0 ((fm 0x100000 false).asidAtTile 0 0) 0x100000).2 with
      | .ok ws => ws.length
      | .error _ => 0) = 16 ∧
    (match ((fm 0x300000 true).fetchLine 0 ((fm 0x300000 true).asidAtTile 0 0) 0x300000).2 with
      | .ok _ => 0
      | .error f => f.cause) = 0x40 := by decide +kernel

/-- Barrier 1 of the test machine, where context 0 has arrived at its only participant, and, at barriers 3 and 4, where its
completion is shown in cycles 100 and 101. -/
def ba (n : Nat) : Tile :=
  let b (m : Option Nat) : Bar := ⟨some 0x100000000000000, 2, [(0, (n, 90))], m⟩
  { (default : Tile) with
    bars := [(1, b none), (2, ⟨some 0x200000000000000, 0, [], none⟩), (3, b (some 100)), (4, b (some 101))] }
/-- Tile 0 with the lease free, the last holder 0, or held by 0; contexts 0 and 1 ask. -/
def le (h : Option Nat) (x : Nat) : State :=
  { free 0 0 0 0 with
    ctxs := [(0, { ctxOf 0 0 0 0 with lease := x }), (1, { ctxOf 0 0 0 0 with lease := 1 })]
    tiles := [(0, { (default : Tile) with occ := some 1, holder := h, lastHolder := some 0, started := 9 })] }
theorem wit_tile_cycles :
    (∀ p ∈ ([⟨98, 100, 1, [(5, 7)], 0, false⟩] : List PStore), p.ctx < 16) ∧ sc.lates = [] ∧ 99 ≤ sc.clock 0 0 ∧
    (∀ u ∈ ([(99, 0x500, 1)] : List (Nat × Nat × Byte)), u.1 ≤ sc.clock 0 0) ∧
    (∀ o ∈ ([⟨100, 5, some 3, 0, false⟩, ⟨100, 5, none, 4, true⟩] : List SemOp), o.cycle ≤ sc.now) ∧
    ([⟨100, 5, some 3, 0, false⟩, ⟨100, 5, none, 4, true⟩] : List SemOp).filter (fun o => o.set.isSome) = [⟨100, 5, some 3, 0, false⟩] := by
  decide +kernel
theorem wit_barrier_completes :
    let s := mach 0 0 (ctxOf 0 0 0 0) (ba 3)
    ((s.tile 0 0).bars.get 1).cfg = some 0x100000000000000 ∧ barScope 0x100000000000000 = 0 ∧
    s.barTiles 0 0 0x100000000000000 = [0] ∧ barCtxm 0x100000000000000 = 1 ∧
    ((s.tile 0 0).bars.get 1).arr.find? 0 = some (((s.tile 0 0).bars.get 1).phase + 1, 90) ∧ 90 ≤ s.now ∧
    ((s.tile 0 0).bars.get 1).shows = none ∧ ((s.tile 0 0).bars.get 2).shows = none ∧
    ((s.tile 0 0).bars.get 3).shows = some 100 ∧ ((s.tile 0 0).bars.get 4).shows = some 101 ∧ s.now = 100 ∧
    ((s.tile 0 0).bars.get 2).arr.find? 1 = none ∧ barCtxm 0x200000000000000 = 2 := by decide +kernel
theorem wit_lease_goes_round :
    ((le none 0).tile 0 0).holder = none ∧ ((le none 0).tile 0 0).runs = [] ∧ (le none 0).replaying 0 0 = false ∧
    (le none 0).recording 0 = false ∧ ((le none 0).car 0 0).nctx = 2 ∧ ((le none 0).ctx 0 0 1).lease = 1 ∧
    ((le (some 0) 2).tile 0 0).holder = some 0 ∧ ((le (some 0) 2).ctx 0 0 0).lease = 2 ∧
    ((le (some 0) 2).car 0 0).lease ≤ ((le (some 0) 2).tile 0 0).started := by decide +kernel

/-- The lead issues the second idle bundle: the offset moves on and bundle 5 goes to tile 1 (R23, R40). -/
theorem test_lead_idle :
    (match exec (.leadIssueCycle 0 0) (em default []) with
      | .next t => ((t.ctx 0 0 0).lead.flow.pos.ioff, (t.ctx 0 1 0).inbox.getLast?)
      | _ => (0, none)) = (2, some (5, 101)) := by decide +kernel
/-- The lease goes to context 1 (R262). -/
theorem test_lease :
    (match exec (.leaseDecision 0 0) (le none 0) with
      | .next t => (t.tile 0 0).holder
      | _ => none) = some 1 := by decide +kernel
theorem wit_follow_on :
    ((em default []).ctx 0 1 0).t.stuck = false ∧ ((em default []).ctx 0 1 0).stopIn = [] ∧
    ((em default []).ctx 0 1 0).rld = [] ∧ (em default []).coll.linkRetry.get 67 = 0 := by decide +kernel

/-! ## Engines -/

/-- A command of an engine, its header issued in cycle 90. -/
def cmdOf (eng : Nat) (i : Instr) (stg : List DWord) : Cmd :=
  { oldCmd with eng := eng, instr := i, stg := stg, at' := 90, set := if stg.isEmpty then none else some false }
/-- A run of a command of context 0 that is done in a cycle. -/
def runOf (c : Cmd) (done : Nat) (eff : List Eff) (prog : Nat) : Run := ⟨0, c, 95, 96, done, eff, none, prog, [], [], [], [], false, false⟩
/-- The machine with a queue at context 0, which holds the lease, and runs at tile 0. -/
def en (q : List Cmd) (runs : List Run) : State :=
  mach 0 0 { ctxOf 0 0 0 0 with lease := 2, e := { (ctxOf 0 0 0 0).e with queue := q } }
    { (default : Tile) with holder := some 0, runs := runs }
/-- An mzero of bank 3; a copy of 64 bytes from 0x100 to the last 64 bytes; a bufset; a publish. -/
def cZero : Cmd := cmdOf 0 (.mzero ⟨3, false, true, false, false⟩) []
def cCopy : Cmd := cmdOf 1 (.copy ⟨0, false, 3, 2, 0, false⟩) [0x100, 0x5FFC0, 64]
def cBuf : Cmd := cmdOf 1 (.bufset ⟨2, 3, false⟩) [0, 0, 0, 0, 0, 0, 0, 0, 0, 0, 0x10000, 0x20000, 0x1000]
def cPub : Cmd := cmdOf 1 (.publish ⟨2, 0, 3⟩) []

theorem wit_matrix_engine :
    ((en [cZero] []).tile 0 0).holder = some 0 ∧ ((en [cZero] []).ctx 0 0 0).lease = 2 ∧ ((en [cZero] []).tile 0 0).runs = [] ∧
    ((en [cZero] []).tile 0 0).miss = none ∧ ((en [cZero] []).ctx 0 0 0).hold = [] ∧
    ((en [cZero] [runOf cZero 100 [.acc 0 [1]] 1]).ctx 0 0 0).hold = [] ∧
    startable (en [cZero] []) 0 0 0 cZero ∧ cZero.eng = 0 ∧ (runOf cZero 100 [.acc 0 [1]] 1).steps = false ∧
    (runOf cZero 100 [.acc 0 [1]] 1).trap = none ∧ (runOf cZero 101 [] 1).done > (en [] [runOf cZero 101 [] 1]).clock 0 0 := by
  unfold startable
  decide +kernel
/-- Its run, done in a cycle, with its one row to be read in cycle 100, or read and to be written in a cycle. -/
def copyRun (wr done : Nat) (data : Option (List Byte)) : Run :=
  { runOf cCopy done [] 0 with jobs := [⟨100, wr, ⟨0x100, 0x5FFC0, 0⟩, 0, 2, data⟩] }
theorem wit_copy_rows :
    (en [] [copyRun 102 104 none]).copyNext 0 0 = none ∧ ((en [] []).tile 0 0).bufs = [] ∧ (en [] []).upsets = [] ∧
    (0x100 + 0) % 64 + 2 ≤ 64 ∧ (en [] []).ownPoison 0 0 0x100 2 = false ∧ (en [] []).clock 0 0 = 100 ∧
    (0x5FFC0 + 0) % 64 + 2 ≤ 64 ∧ 0x5FFC0 + 2 ≤ padSize ∧
    (en [] [copyRun 100 100 (some [7, 8])]).rowKept ((en [] []).who 0 0 0) 0x5FFC0 2 = false ∧ cCopy.rsv = none ∧
    ((en [] []).ctx 0 0 0).hold = [] := by decide +kernel
theorem wit_copy_engine :
    (en [cCopy] []).copyNext 0 0 = some (0, cCopy) ∧ (en [cCopy] []).upsets = [] ∧ ((en [cCopy] []).tile 0 0).runs = [] ∧
    0 < fld (cCopy.stg.getD 2 0) 31 0 ∧ (en [cBuf] []).bufKept 0 0 2 = false ∧
    (cCopy.stg.getD 1 0).toNat + fld (cCopy.stg.getD 2 0) 31 0 = padSize ∧
    (cCopy.stg.getD 0 0).toNat + 64 ≤ (cCopy.stg.getD 1 0).toNat ∧ (en [cCopy] []).ownPoison 0 0 0x100 64 = false ∧
    (en [cBuf] []).copyNext 0 0 = some (0, cBuf) ∧
    bufBad ⟨true, 0x10000, 0x20000, 0x1000, false⟩ 2 ((en [cBuf] []).tile 0 0).bufs = false ∧
    (en [cBuf] []).bufBusy 0 0 ⟨true, 0x10000, 0x20000, 0x1000, false⟩ = false ∧
    (((en [cBuf] []).tile 0 0).bufs.get 2).en = false := by decide +kernel
/-- Tile 0 with a pending write to the published half. -/
def bufWait : State :=
  let s := en [cBuf] []
  { s with tiles := s.tiles.set 0 { s.tile 0 0 with pend := [⟨99, 103, 0, [(0x10004, 1)], 0, false⟩] } }
theorem wit_bufset_waits :
    bufWait.bufBusy 0 0 ⟨true, 0x10000, 0x20000, 0x1000, false⟩ = true ∧ bufWait.copyNext 0 0 = some (0, cBuf) := by
  decide +kernel
/-- Tile 0 with descriptor 2 enabled, and a copy whose read is bound to its published half, or none. -/
def bufOld (b : List Bound) : State :=
  let s := en [cBuf] [{ copyRun 110 112 none with bound := b }]
  { s with tiles := s.tiles.modify 0 fun t => { t with bufs := [(2, ⟨true, 0x30000, 0x40000, 0x1000, false⟩)] } }
theorem wit_bufset_bound :
    ((bufOld []).tile 0 0).bufs.get 2 = ⟨true, 0x30000, 0x40000, 0x1000, false⟩ ∧
    (bufOld [⟨0, 0, 2, false⟩]).boundTo 0 0 2 false = true ∧ (bufOld [⟨0, 0, 2, false⟩]).bufKept 0 0 2 = true ∧
    (bufOld [⟨0, 0, 2, false⟩]).copyNext 0 0 = some (0, cBuf) ∧
    (en [{ cBuf with instr := .bufsetOff ⟨2, 3, false⟩ }] []).copyNext 0 0 =
      some (0, { cBuf with instr := .bufsetOff ⟨2, 3, false⟩ }) := by decide +kernel
/-- A publish under way: a copy run done, or a copy of its context still running before it. -/
theorem wit_publish :
    (en [] [runOf cPub 100 [] 1]).copyNext 0 0 = none ∧ ((en [] [runOf cPub 100 [] 1]).tile 0 0).window = [] ∧
    (en [] [runOf cPub 100 [] 1]).publishReady 0 0 0 cPub ⟨2, 0, 3⟩ = true := by decide +kernel
theorem wit_publish_waits :
    (en [cZero] [runOf { cPub with ord := 5 } 100 [] 1]).publishReady 0 0 0 { cPub with ord := 5 } ⟨2, 0, 3⟩ = false ∧
    (en [cZero] [runOf { cPub with ord := 5 } 100 [] 1]).copyNext 0 0 = none := by decide +kernel
/-- A quant of 16 × 32 elements, an sqld of two entries, an sqclr of queue A. -/
def cQuant : Cmd := cmdOf 2 (.quant ⟨4, 11, 0, 3, false⟩) [0, 0, 0, 0, 0, 0x200010]
def cSqld : Cmd := cmdOf 2 (.sqld ⟨false, 1, false⟩) [0x100]
def cSqclr : Cmd := cmdOf 2 (.sqclr ⟨true, false⟩) []
theorem wit_quant_engine :
    (en [cQuant] []).nextCmd 0 0 2 = some (0, cQuant) ∧ (en [cSqld] []).nextCmd 0 0 2 = some (0, cSqld) ∧
    (en [cSqclr] []).nextCmd 0 0 2 = some (0, cSqclr) ∧ cQuant.at' + 2 ≤ (en [cQuant] []).clock 0 0 ∧
    cSqld.prog < (runOf cSqld 100 [] 2).prog ∧
    (en [] [{ runOf cSqld 100 [] 2 with start := 96 }]).clock 0 0 = 96 + cSqld.prog + 4 ∧
    (List.replicate 63 (0 : BitVec 128)).length < 64 ∧ (en [] []).ownPoison 0 0 0x100 16 = false := by decide +kernel
/-- An xcfg, an xflush and an xfetch; an entry of a scatter window at 0x200. -/
def cXcfg : Cmd := cmdOf 3 (.xcfg ⟨0, 0, 0, false⟩) [0x200, 1, 0, 0]
def xe (last : Nat) : XEnt := ⟨0, 0, 0x86000000, 0x200, 0, 5, false, last, 1, 0, none⟩
theorem wit_scatter_engine :
    (en [cXcfg] []).nextCmd 0 0 3 = some (0, cXcfg) ∧ ((en [cXcfg] []).tile 0 0).window = [] ∧
    (xe 36).last + 64 ≤ (en [] []).now ∧ (en [] []).now < (xe 37).last + 64 ∧ (xe 36).va < padSize ∧
    (en [] []).hiddenHeld 0 0 (xe 36).va (xSize (hXop (xe 36).hdr)) = false ∧
    ((en [] []).ctx 0 0 0).streams = [] ∧ (∃ e ∈ [(3, { (default : Stream) with lost := true })], e.2.lost = true) ∧
    ((en [] []).tile 0 0).retx = [] ∧ (en [] []).replaying 0 0 = false ∧ (en [] []).recording 0 = false ∧
    (runOf (cmdOf 3 .xflush []) 100 [] 0).done ≤ (en [] []).clock 0 0 ∧
    (runOf (cmdOf 3 (.xfetch ⟨1, 2, 0, false, 0⟩) []) 100 [] 0).prog ≤ 0 := by decide +kernel

/-- A copy ends: its bytes are in the scratchpad and its tag is set (R313, R314). -/
theorem test_copy_complete :
    (match exec (.copyCommandComplete 0 0) (en [] [copyRun 100 100 (some [7, 8])]) with
      | .next t => (t.mem.readN (padKey 0 0 0x5FFC0) 2, t.ftile.tags)
      | _ => ([], 0)) = ([7, 8], 8) := by decide +kernel
/-- A fresh entry of value 5 added to a word of 3 (R348). -/
theorem test_scatter_timeout :
    (match exec (.scatterEntryTimeout 0 0) { en [] [] with
        mem := [(padKey 0 0 0x200, 3)]
        tiles := [(0, { (default : Tile) with occ := some 1, window := [xe 36] })] } with
      | .next t => t.mem.readN (padKey 0 0 0x200) 4
      | _ => []) = [8, 0, 0, 0] := by decide +kernel

/-- An integer mma and a tapered one of 20 and 30 positions, an MXINT4 one of one block; a .q load and store whose last rows end
at the last byte; an mdrain with a requantisation table there. -/
def mStg (k str : Nat) : List DWord :=
  [0x1000, 0x2000, BitVec.ofNat 64 (str + 64 * 2 ^ 32), BitVec.ofNat 64 k, 0x800, 0, 0x8000, 0x5FF80, 5]
def cMma (fmt : BitVec 4) (k : Nat) : Cmd := cmdOf 0 (.mma ⟨fmt, true, false, 0, true, false, false⟩) (mStg k 64)
def cMls (st : Bool) : Cmd :=
  cmdOf 0 (if st then .mstore ⟨2, 3, false⟩ else .mload ⟨2, 3, false⟩) [0x5C000, 0, 0x400, 0, 0x800]
def cDrain (of : BitVec 4) : Cmd := cmdOf 0 (.mdrain ⟨of, 0, true, true, 3, false, false⟩) (mStg 20 0x5000)
theorem wit_matrix_begins :
    ∀ c ∈ [cMma 0 20, cMma 4 30, cMma 1 32, cMls false, cMls true, cDrain 2],
      startable (en [c] []) 0 0 0 c ∧ (en [c] []).replaying 0 0 = false ∧ c.eng = 0 ∧ c.prog = 0 ∧ sound (en [c] []) 0 0 ∧
      ∀ e ∈ operandRows c, e.1 + e.2 ≤ 0x60000 := by
  unfold startable sound
  decide +kernel
/-- A run that started in cycle 99 and has not read, but for an MXINT one. -/
def begun (c : Cmd) (prog : Nat) (fresh : Bool) : Run :=
  { runOf c 130 [] prog with start := 99, busy := 101, fresh := fresh }
theorem wit_matrix_reads :
    ∀ r ∈ [begun (cMma 0 20) 2 true, begun (cMma 4 30) 2 true, begun (cMma 1 32) 1 false, begun (cMls false) 16 true,
        begun (cMls true) 16 true, begun (cDrain 2) 16 true], mayRead (en [] [r]) 0 0 r := by
  unfold mayRead sound
  decide +kernel
theorem wit_mx_step :
    let s := (en [] [begun (cMma 1 32) 1 false]).modCtx 0 0 0 fun x => { x with e := { x.e with sqA := [1, 2], sqB := [3] } }
    (s.ctx 0 0 0).e.sqA = 1 :: [2] ∧ (s.ctx 0 0 0).e.sqB = 3 :: [] ∧ (s.tile 0 0).bufs = [] ∧
    mayRead s 0 0 (begun (cMma 1 32) 1 false) := by
  unfold mayRead sound
  decide +kernel
/-- The tables of an mdrain: SH 0 in every entry, or 63 in the last. -/
theorem wit_drain_tables :
    let s (m : Memory) := { en [] [begun (cDrain 2) 16 true] with mem := m }
    (∀ j, j < 16 → leNat (seen (s []) 0 0 (0x5FF80 + 8 * j + 4) 1) ≤ 62) ∧
    62 < leNat (seen (s [(padKey 0 0 (0x5FF80 + 124), 63)]) 0 0 (0x5FF80 + 8 * 15 + 4) 1) := by decide +kernel
theorem wit_matrix_ends :
    let r := runOf (cMma 0 20) 100 [.acc 0 [1], .msat true, .flags fST, .mrs [1], .own 0 [2]] 2
    r.eff.all homeEff = true ∧ (en [] [r]).effHeld 0 0 r.eff = false ∧ r.fresh = false ∧ r.done ≤ (en [] [r]).clock 0 0 ∧
    r.steps = false := by decide +kernel
theorem wit_quant_reads :
    ∀ c ∈ [{ cQuant with stg := [0, 0, 0, 0, 0, 0x200010] },
        { cQuant with instr := .dequant ⟨4, 11, 0, 3, false⟩, stg := [0, 0, 0, 0, 0, 0x200010] }],
      sound (en [] [begun c 0 true]) 0 0 ∧ (en [] [begun c 0 true]).nextCmd 0 0 2 = none ∧ (qGeo c.stg).cols % 32 = 0 ∧
      accWrites [.flags fNX, .own 0 [1]] = [] := by
  unfold sound
  decide +kernel
/-- A block of 1, −2, a NaN and zeros; one of zeros: what a quant answers is such a block (R231). -/
theorem wit_blocks :
    isBlock 4 0 [.fin false 1 0, .fin true 1 1, .fin false 0 0] 120 [0x70, 0xF8, 0] 0 ∧
    isBlock 4 0 [.nan false, .fin false 1 0] 255 [0, 0] fNV ∧ isBlock 4 0 [.fin true 0 0] 0 [0] 0 := by
  refine ⟨⟨rfl, ?_, ?_, fun _ => ?_⟩, ⟨rfl, ?_, ?_, fun h => ?_⟩, ⟨rfl, ?_, ?_, fun _ => ?_⟩⟩
  all_goals first
    | decide +kernel
    | exact absurd (h (.nan false) (by decide)) (by decide)
/-- An xpush of two pairs, an xpush of one whose index has an entry, and an xfetch of one, under .add at 0x200, LIMIT 8. -/
def xw (c : Cmd) (w : List XEnt) : State :=
  ((en [c] []).modCtx 0 0 0 fun x => { x with e := { x.e with xcfg := some (0x86000000, [0x200, 8, 0x400, 0]) } }).modTile 0 0
    fun t => { t with window := w }
def cPush (m : Mask) : Cmd :=
  { cmdOf 3 (.xpush ⟨1, 2, 0, true, 0⟩) [] with ix := BitVec.ofNat 8192 (7 * 2 ^ 32), vx := BitVec.ofNat 8192 5, mask := m }
def cFetch : Cmd := { cPush 0x10 with instr := .xfetch ⟨1, 2, 0, true, 0⟩ }
theorem wit_pairs :
    xPairs ⟨1, 2, 0, true, 0⟩ (cPush 0x11) = [(0, 0, 5), (1, 7, 0)] ∧ xPairs ⟨1, 2, 0, true, 0⟩ (cPush 1) = [(0, 0, 5)] ∧
    xPairs ⟨1, 2, 0, true, 0⟩ cFetch = [(1, 7, 0)] ∧
    pairsReady (xw (cPush 0x11) []) 0 0 0 (cPush 0x11) ⟨1, 2, 0, true, 0⟩ ∧
    pairsReady (xw (cPush 1) [xe 90]) 0 0 0 (cPush 1) ⟨1, 2, 0, true, 0⟩ ∧ (xe 90).ctx = 0 ∧ (xe 90).index = 0 ∧
    pairsReady (xw cFetch []) 0 0 0 cFetch ⟨1, 2, 0, true, 0⟩ ∧ (xw cFetch []).hiddenHeld 0 0 0x21C 4 = false ∧
    (xw cFetch []).hiddenHeld 0 0 0x404 4 = false ∧ hXop (xw cFetch []).fctx.e.xpar.1 ≠ 7 := by
  unfold pairsReady sound
  decide +kernel
theorem wit_scatter_stays :
    ((en [] []).ctx 0 0 0).evict = false ∧ ((en [] []).lead 0 ((en [] []).car 0 0).leadTile 0).exitPh ≠ 2 ∧
    ((en [] []).ctx 0 0 0).mayStart = true ∧ ((en [] []).ctx 0 0 0).e.lostTo ≤ 0 := by decide +kernel

/-- The example of R220: v = 288, × 2^30 ÷ 2^36 is 4.5, which rounds to 4; with ZO = −5 the byte is 0xFF. -/
theorem test_requant :
    drainI ⟨2, 0, true, false, 3, false, false⟩ [0, 0, 0, 4, 0, 0x300000080, 0, 0, 0xFB] ⟨[2], [0x40000000], [5]⟩ 584 0 760 =
      (0xFF, fNX) := by decide +kernel
/-- An xfetch of a word of 3: it goes to RET + 4, and the word becomes 3 + 0 (R350). -/
theorem test_xfetch :
    (match exec (.scatterCommandStart 0 0) { xw cFetch [] with mem := [(padKey 0 0 0x21C, 3)] } with
      | .next t => t.mem.readN (padKey 0 0 0x404) 2
      | _ => []) = [3, 0] := by decide +kernel
theorem wit_engine_ends :
    (copyRun 100 100 (some [7, 8])).lost = false ∧ (copyRun 100 100 (some [7, 8])).trap = none ∧
    ([7, 8] : List Byte).length = 2 ∧ (en [] [copyRun 100 100 (some [7, 8])]).clock 0 0 = 100 ∧
    fld (cSqld.stg.getD 0 0) 18 0 + 16 * cSqld.prog + 16 ≤ 0x60000 ∧ ((en [] []).tile 0 0).bufs = [] ∧
    (let r := runOf cQuant 100 [.flags fNX, .own 0 [1]] 0
     r.eff.all homeEff = true ∧ (en [] [r]).effHeld 0 0 r.eff = false ∧ r.trap = none) := by decide +kernel

/-! ## Packets -/

/-- A store of the last two bytes of HBM4 by stream 2 of context 0 at tile 0, with a number. -/
def pk (seq : Nat) : Pkt :=
  { (default : Pkt) with
    src := ⟨0, 0, 0, 0, 2⟩, seq := seq, kind := .store, dst := ⟨0, 0, 1, 1⟩, addr := hbmEnd - 2, data := [1, 2], len := 2,
    tries := 1, sent := 90, born := 90 }
/-- A machine with one flit under way, a tracker entry that expects number 5, packets to acknowledge and a stream. -/
def nm (f : Flit) (retx : List Pkt) (broken : Bool) : State :=
  { mach 0 0 { ctxOf 0 0 0 0 with
      rld := [rldId 2 0 5], streams := [(2, { (default : Stream) with bound := some ⟨0, 0, 1, 1⟩, broken := broken, next := 6 })] }
      { (default : Tile) with retx := retx } with
    net := [⟨7, 100, 90, f⟩]
    dies := [(0, { sysDie with ctl := [(0, 0x100)], incOf := [(0, 0), (3, 9)] })]
    trackers := [(Endpoint.key ⟨0, 0, 1, 1⟩, { (default : Tracker) with entries := [⟨⟨0, 0, 0, 0, 2⟩, 0, 5, false⟩] })] }

theorem wit_packet_arrival :
    let s := nm (.pkt (pk 5)) [] false
    (s.flitOf 7).map (·.flit) = some (.pkt (pk 5)) ∧ plainStore s (pk 5) ∧ expects s (pk 5) 5 ∧ (s.car 0 0).mode = 0 ∧
    (pk 5).addr + (pk 5).len = hbmEnd ∧ 3072 ≤ ((pk 4).seq + 4096 - 5) % 4096 ∧ 3072 = ((pk 3077).seq + 4096 - 5) % 4096 ∧
    ((pk 6).seq + 4096 - 5) % 4096 = 1 ∧ ((pk 1028).seq + 4096 - 5) % 4096 = 1023 := by
  unfold plainStore expects
  decide +kernel
theorem wit_packets_again :
    let s := nm (.refused (pk 5)) [pk 5] false
    (s.flitOf 7).map (·.flit) = some (.refused (pk 5)) ∧ pk 5 ∈ (s.tile 0 0).retx ∧ s.timedTile 0 0 = false ∧
    { pk 5 with sent := 0 }.sent + 2048 * 2 ^ ({ pk 5 with tries := 7 }.tries - 1) ≤ 131072 ∧
    s.now < (pk 5).sent + 2048 * 2 ^ ((pk 5).tries - 1) := by decide +kernel
/-- Attempt 8 of cycle 90, at its limit. -/
def late8 : State := { nm (.pkt (pk 5)) [{ pk 5 with tries := 8 }] false with now := 90 + 2048 * 2 ^ 7 }
theorem wit_stream_breaks :
    (late8.tile 0 0).retx = [{ pk 5 with tries := 8 }] ∧ { pk 5 with tries := 8 }.sent + 2048 * 2 ^ 7 ≤ late8.now ∧
    (late8.ctx 0 0 0).st = .ready ∧ (late8.ctx 0 0 0).t.cur = none ∧ (late8.strm 0 0 0 2).epoch = (pk 5).epoch ∧
    (late8.strm 0 0 0 2).bound.isSome = true := by decide +kernel
theorem wit_two_ends :
    let s := nm (.ack ⟨0, 0, 0, 0, 2⟩ 0 5 0) [pk 5] true
    (s.tracker (Endpoint.key ⟨0, 0, 1, 1⟩)).entry? (s.source 0 0 0 2) = some ⟨⟨0, 0, 0, 0, 2⟩, 0, 5, false⟩ ∧
    (s.strm 0 0 0 2).broken = true ∧ (s.strm 0 0 0 2).epoch = 0 ∧ s.modnum = 0 ∧ (s.die 0).inc = 0 ∧
    (s.flitOf 7).map (·.flit) = some (.ack ⟨0, 0, 0, 0, 2⟩ 0 5 0) ∧ (pk 5).ackedBy ⟨0, 0, 0, 0, 2⟩ 0 5 = true ∧
    rldId 2 0 5 ∈ (s.ctx 0 0 0).rld ∧ (s.ctx 0 0 0).r.sW = [] ∧ s.knownInc (some 0) 3 = some 9 ∧
    epochAhead 10 9 = 1 ∧ epochAhead 136 9 = 127 ∧ s.bindingsTo 0 3 = [] := by decide +kernel
/-- An answer of incarnation 5, where the die has incarnation 0. -/
def staleFault : Flit := .fault ⟨0, 0, 0, 0, 2⟩ 0 5 1 5
theorem wit_stale_answer :
    ((nm staleFault [pk 5] false).flitOf 7).map (·.flit) = some staleFault ∧
    (5 : Nat) ≠ ((nm staleFault [pk 5] false).die 0).inc := by decide +kernel
theorem wit_expiry :
    ({ nm (.pkt (pk 5)) [] false with now := 16474 }.net.find? fun (x : InFlight) => x.id == 7) = some ⟨7, 100, 90, .pkt (pk 5)⟩ ∧
    90 + 16384 = 16474 := by decide +kernel
/-- A running domain that has started at TTC 80, whose departure table lets stream 2 of tile 0 send in cycle 20. -/
def td (f : Flit) : State :=
  { nm f [{ pk 5 with tries := 0 }] false with
    mem := sysMem ++ [], poison := []
    dies := [(0, { sysDie with
      cars := [(1, carOf 1)], incOf := [(0, 0)], ctl := [(0x80, 0x40000)]
      wbs := [(1, ⟨1, [0, 0, 0, 0, 1, 0, 1, 0], 1, 0, false⟩)]
      tt := some { (default : Timetable) with entNo := 1, domain := 1, phase := 3, start := 80, len := 1000, rsd := 0x100000 } })] }
/-- With the entry in memory. -/
def tdep : State := { td (.pkt (pk 5)) with
  mem := (((sysMem.write 0x100000 1).write 0x100001 0x10).write 0x100003 0x14) }
theorem wit_timed_departure :
    tdep.timedTile 0 0 = true ∧ tdep.domainRuns 0 = true ∧ tdep.sinceStart 0 = some 20 ∧
    (tdep.ttOf 0).map (·.1) = some 1 ∧ (tdep.ttOf 0).map (·.2.rsd) = some 0x100000 ∧
    (∀ e ∈ tdep.ttOf 0, tdep.depNext 0 1 e.2 0 2 0 listMax = some (0, 20)) ∧ tdep.crossPorts (pk 5) = none := by decide +kernel
theorem wit_timed_delivery :
    let s := td (.timed (pk 5))
    (s.net.find? fun (x : InFlight) => x.id == 7) = some ⟨7, 100, 90, .timed (pk 5)⟩ ∧ plainStore s (pk 5) ∧ (s.car 0 0).mode = 1 ∧
    s.tracking 0 = true ∧ (⟨7, 100, 90, .timed (pk 5)⟩ : InFlight).arrive ≤ s.ttc 0 ∧ (s.die 0).freeze = none ∧
    expects s (pk 5) 5 := by
  unfold plainStore expects
  decide +kernel

/-- The next packet commits: its bytes are in memory, the entry expects number 6 (R330). -/
theorem test_packet :
    (match exec (.packetArrival 7) (nm (.pkt (pk 5)) [] false) with
      | .next t => (t.mem.readN (hbmEnd - 2) 2, (t.tracker (Endpoint.key ⟨0, 0, 1, 1⟩)).entries.map (·.e))
      | _ => ([], [])) = ([1, 2], [6]) := by decide +kernel
/-- The eighth attempt fails: stream broken with the stream and the number (R331). -/
theorem test_stream_broken :
    getTrap (exec (.streamBrokenTimeout 0 0) late8) = some (0x63, 0) := by decide +kernel
/-- No caravan of the machine is timed, so that no packet of it goes by a table. -/
theorem wit_untimed : sc.byTable ⟨0, 0, 0, 0, 2⟩ = false := by decide +kernel

/-! ## Dispatcher, timetables, walks, hauls -/

/-- A waybill of one caravan of 1 × 2 tiles with two contexts of ASID 1, version 1. -/
def wbImg : List Byte := [0, 0, 0x82, 0, 1, 0, 1, 0] ++ List.replicate 248 0
/-- Die 0 with that waybill at the head of queue 3, tiles 0 and 1 taken. -/
def dm : State :=
  { free 0 0 0 0 with
    dies := [(0, { sysDie with queues := [(3, [⟨5, wbImg⟩])], wbs := [(5, ⟨5, wbImg, 0, 0, false⟩)], carNo := 4 })] }
theorem wit_placement :
    (dm.die 0).queues = [(3, [⟨5, wbImg⟩])] ∧ (dm.die 0).wbs.find? 5 = some ⟨5, wbImg, 0, 0, false⟩ ∧ 0 < wNcar wbImg ∧
    (∀ k, k < 4 → dm.depMet 0 wbImg k = true) ∧ wMode wbImg ≠ 1 ∧ wHaul wbImg = 0 ∧ (dm.die 0).tt = none ∧
    (dm.die 0).res = none ∧ dm.firstFit 0 5 wbImg = some (0, 2) ∧ dm.mayPlace 0 = true := by decide +kernel
/-- Caravan 1, clearing until a cycle. -/
def rm (c : Nat) (at' : Nat) : State :=
  { free 0 0 0 0 with
    ctxs := [(0, { ctxOf 0 0 0 0 with st := .clearing }), (1, { ctxOf 0 0 0 0 with st := .clearing })]
    dies := [(0, { sysDie with cars := [(1, { carOf 0 with readyAt := at', nctx := c })] })] }
theorem wit_ready :
    ((rm 2 100).die 0).cars.get 1 = { carOf 0 with readyAt := 100 } ∧ ((rm 2 100).ctx 0 0 0).st = .clearing ∧
    ((rm 2 100).ctx 0 0 1).st = .clearing ∧ ((rm 2 100).die 0).freeze = none ∧ (rm 2 101).now < 101 := by decide +kernel
/-- Context 0 at the end of its EXIT; other contexts of the caravan have ended or not. -/
def xt (done : List Nat) : State :=
  { free 0 0 0 0 with
    ctxs := [(0, { ctxOf 0 0 0 0 with lead := { (ctxOf 0 0 0 0).lead with exitPh := 3, halted := true } })]
    dies := [(0, { sysDie with cars := [(1, { carOf 0 with done := done })] })] }
theorem wit_exit :
    ((xt []).tile 0 0).occ = some 1 ∧ ((xt []).ctx 0 0 0).st = .ready ∧ ((xt []).lead 0 0 0).exitPh = 3 ∧
    ((xt []).lead 0 0 0).re = none ∧ (xt []).drained 0 0 0 = true ∧ (xt []).trappers 0 0 0 = [] ∧
    (xt []).packetsLeft 0 0 0 = false ∧ ((xt []).car 0 0).done.length + 1 ≠ ((xt []).car 0 0).nctx ∧
    ((xt [1]).car 0 0).done.length + 1 = ((xt [1]).car 0 0).nctx := by decide +kernel

/-- A timetable of waybill 1 on die 0, or on dies 0 and 1, in a phase. -/
def tt (ph : Nat) (dom : Nat) : Timetable :=
  { (default : Timetable) with entNo := 1, domain := dom, phase := ph, start := 80, len := 20, key := 9 }
/-- Dies 0 and 1 of that timetable, tiles 0 and 1 occupied by caravan 1. -/
def dom (ph d : Nat) (t0 : Tile) : State :=
  let s := mach 1 0 (ctxOf 0 0 0 0) t0
  let die := { sysDie with cars := [(1, carOf 1)], wbs := [(1, ⟨1, wbImg, 1, 0, false⟩)], ttcOf := [(5, 99), (9, 91)], tt := some (tt ph d) }
  { s with dies := [(0, die), (1, { die with cars := [], ttc := 99 })] }
/-- A matrix operand miss whose walk is under way. -/
def miss (va since : Nat) : Miss := ⟨va, false, 0, 0, since, 0, 0, 0, false, false, none⟩
theorem wit_domains :
    ((dom 1 1 default).die 0).tt = some (tt 1 1) ∧ (tt 1 1).domain = 2 ^ 0 ∧
    ({ dom 1 1 default with dies := [((dom 1 1 default).dies).head!] }.armedWith 9) = [0] ∧
    (tt 2 1).start ≤ (dom 2 1 default).ttc 0 ∧ { dom 2 1 default with dies := [(0, { sysDie with ttc := 79 })] }.ttc 0 < (tt 2 1).start ∧
    (dom 3 3 default).tracking 0 = true ∧ ((dom 3 3 default).die 0).freeze = none ∧ (dom 3 3 default).partners 0 = [1] ∧
    (dom 3 3 default).sinceStart 0 = some 20 ∧ (tt 3 3).len ≤ 20 ∧ (dom 3 3 default).timedTile 0 0 = true ∧
    (tt 3 3).domain.testBit 0 = true ∧ ((dom 3 3 default).ctx 0 0 0).t.cur = none := by decide +kernel
/-- The same in a pod-timed domain, where another package is at a TTC and has armed with a key. -/
def podDom (ph ttc : Nat) (key : Option Nat) : State :=
  let s := dom ph 3 default
  let s := { s with dies := s.dies.map fun (e : Nat × Die) => (e.1, { e.2 with tt := some { tt ph (if ph = 1 then 1 else 3) with pod := true } }) }
  { s with coll := { s.coll with pod := [(1, ⟨ttc, key⟩)] } }
theorem wit_pod_domains :
    (tt 1 1).pod = false ∧ (dom 1 1 default).coll.pod = [] ∧ ((podDom 1 120 (some 9)).die 0).tt.map (·.pod) = some true ∧
    (∀ e ∈ (podDom 1 120 (some 9)).coll.pod, e.2.key = some (tt 1 1).key) ∧
    (∃ e ∈ (podDom 1 120 none).coll.pod, e.2.key ≠ some (tt 1 1).key) ∧
    (podDom 3 75 (some 9)).tracking 0 = true ∧ ((podDom 3 75 (some 9)).die 0).freeze = none ∧
    (podDom 3 75 (some 9)).partners 0 = [1] ∧
    ∃ p ∈ (podDom 3 75 (some 9)).coll.pod, p.2.ttc + 24 < (podDom 3 75 (some 9)).ttc 0 := by decide +kernel
theorem wit_freezes :
    (dom 3 1 { (default : Tile) with miss := some (miss 0x300000 99) }).freezeCause 0 = some 9 ∧
    (dom 3 1 default).freezeCause 0 = none := by decide +kernel
/-- The system machine with a miss at tile 0, at an address that the range maps and at one that nothing maps. -/
def wm (va : Nat) : State :=
  { ym with tiles := [(0, { (default : Tile) with occ := some 1, miss := some (miss va 99) }), (1, { (default : Tile) with occ := some 1 })] }
theorem wit_walks :
    ((wm 0x100000).tile 0 0).miss = some (miss 0x100000 99) ∧
    (match ((wm 0x100000).reach 0 1 .read 0x100000).2 with | .ok p => p == .die 0 0x100000 | .error _ => false) = true ∧
    (match ((wm 0x300000).reach 0 1 .read 0x300000).2 with | .ok _ => 9 | .error f => f.kind) = 0 ∧
    (wm 0x100000).tlbHas 0 ((wm 0x100000).car 0 0).asid (0x100000 / 4096) = true ∧ (wm 0x300000).hasWalker 0 0 99 = true ∧
    ((wm 0x100000).tile 0 0).gen = none ∧ (miss 0x300000 99).sf = none ∧ (miss 0x300000 99).entries < 4 ∧
    ((0x8000000000000100 : DWord)).getLsbD 63 = true ∧
    ((wm 0).ctl 0 0x50).getLsbD 63 = false := by decide +kernel
/-- The system machine with an outstanding translation of the general stream, of the page that the range maps. -/
def gw : State :=
  { ym with tiles := [(0, { (default : Tile) with occ := some 1, gen := some (1, 1, 0x100, 99) }), (1, { (default : Tile) with occ := some 1 })] }
theorem wit_general_walk :
    (gw.tile 0 0).miss = none ∧ (gw.tile 0 0).gen = some (1, 1, 0x100, 99) ∧ 99 < gw.now ∧ gw.tlbHas 0 1 0x100 = true ∧
    (match (gw.translate 0 1 (0x100 * 4096)).2 with | .ok _ => true | .error _ => false) = true := by decide +kernel
/-- A haul list of one entry at 0x100000 that fills slot 0: 64 bytes from the tier address 0x40, which ASID 1 has at
0x20000040, to the depot at 0x110000; with an empty list image it is malformed. -/
def hm (good : Bool) : State :=
  { ym with
    mem := if good then
      sysMem.writeN 0x50023 [0x20, 0, 0, 0, 0x80] |>.writeN 0x5002B [0x21] |>.write 0x5003F 0x47 |>.writeN 0x100000
        [0x40, 0, 0, 0x20, 0, 0, 0, 0, 0x40, 0, 0, 0, 0, 0, 0, 0, 0, 0, 0, 0, 0, 0, 0, 0, 1] |>.write (tierKey 0x41) 0xAB
      else sysMem
    dies := [(0, { sysDie with hauls := [{ (default : Haul) with
      wb := 1, asid := 1, rtgt := 2, nslot := 2, slotLg := 12, depot := 0x110000, ent := 0x100000, nent := 1, busy := some 100,
      slots := [(0, ⟨1, 0, 0, false⟩)] }] })] }
theorem wit_hauls :
    ((hm true).haulReady 0).map (·.2) = some 0 ∧
    (∀ e ∈ (hm true).haulReady 0, (e.1.slots.get e.2).rehaul = false ∧
      (match ((hm true).haulCopy 0 e.1 e.2).2 with | .ok n => n == 1 | .error _ => false) = true) ∧
    (∀ e ∈ (hm false).haulReady 0,
      (match ((hm false).haulCopy 0 e.1 e.2).2 with | .ok _ => false | .error n => n == 0) = true) ∧
    (∀ g ∈ ((hm true).die 0).hauls, ∀ e ∈ g.slots, e.2.rehaul = false) ∧
    ((hm false).haulReady 0).map (·.2) = some 0 := by decide +kernel
/-- A die whose invalidation began in cycle 95, with or without a packet of before it. -/
def im (old : List Pkt) : State :=
  { mach 0 0 (ctxOf 0 0 0 0) { (default : Tile) with retx := old, scrubAt := 100 } with
    dies := [(0, { sysDie with inv := some 95, ctl := [(0xA8, 0xC000000000000000)] })] }
theorem wit_invalidations :
    ((im []).die 0).inv = some 95 ∧ (im []).invBusy 0 95 = false ∧ (im [pk 5]).invBusy 0 95 = true ∧
    ((im []).tile 0 0).occ = some 1 ∧ ((im []).tile 0 5).occ = none ∧ ((dom 1 1 default).die 0).tt.map (·.entNo) = some 1 ∧ 0 < ((im []).tile 0 0).scrubAt ∧ ((im []).tile 0 0).scrubAt ≤ (im []).now := by
  decide +kernel

/-- The caravan stands at the first free position, tiles 2 and 3, and clears (R246, R249). -/
theorem test_dispatch :
    (match exec (.dispatchCycle 0) dm with
      | .next t => ((t.tile 0 2).occ, (t.tile 0 3).occ, (t.ctx 0 2 1).st)
      | _ => (none, none, .absent)) = (some 4, some 4, .clearing) := by decide +kernel
/-- A haul group is copied from the tier and published (R293). -/
theorem test_haul :
    (match exec (.haulGroupPublish 0) (hm true) with
      | .next t => (t.mem.read 0x110001, (t.die 0).hauls.map fun h => (h.slots.get 0).st)
      | _ => (0, [])) = (0xAB, [2]) := by decide +kernel
theorem wit_walks_alone :
    ((wm 0x100000).tile 0 0).pipeB = none ∧ (gw.tile 0 0).pipeB = none ∧ (dom 3 1 default).upsets = [] ∧
    ((dom 3 3 default).ctx 0 0 0).t.stuck = false := by decide +kernel
/-! ## Stops, saves, requests -/

/-- Context 0 of the test caravan, held by a poisoned read since cycle 100. -/
def hd (t : Nat) : State := { mach 0 0 { ctxOf 0 0 0 0 with hold := [(8, 100), (heldKey, 100)] } default with now := t }
theorem wit_watchdog :
    let s := hd (100 + 1048576)
    (s.die 0).freeze = none ∧ (s.tile 0 0).miss = none ∧ (s.ctx 0 0 0).st = .ready ∧ (s.ctx 0 0 0).t.cur = none ∧
    (s.ctx 0 0 0).holds.head? = some 8 ∧ (s.ctx 0 0 0).hold.find? heldKey = some 100 ∧ 100 + 1048576 ≤ s.now ∧ s.stillHeld 0 0 0 8 = true ∧
    (hd (99 + 1048576)).now < 100 + 1048576 := by decide +kernel
/-- Context 0 has had the turn for its quantum of 256 × 1024 cycles, and context 1 can issue. -/
def qt : State :=
  { em default [] with
    now := 262244, ctxs := [(0, ctxOf 0 0 0 0), (1, (em default []).ctx 0 0 0)]
    tiles := [(0, { (default : Tile) with occ := some 1, curAt := 100 }), (1, { (default : Tile) with occ := some 1 })] }
theorem wit_quantum :
    fld (qt.ctl 0 0) 19 0 * 1024 = 262144 ∧ (qt.tile 0 0).occ.isSome = true ∧ (qt.car 0 0).timed = false ∧
    qt.replaying 0 0 = false ∧ (qt.tile 0 0).curAt + 262144 = qt.now ∧
    ((qt.turnOrder 0 0 0 1).any fun c => (qt.tryIssue 0 0 c).2 == .used) = true ∧ (qt.lead 0 0 0).flow.after = 0 := by
  decide +kernel
/-- The lead of the caravan with a request to stop, in a delay window or not, and a signal that arrives in cycle 100. -/
def st (p : Option (Option Pos × Nat)) : State :=
  { em default [] with ctxs := [(0, { ctxOf 0 0 0 0 with lead := { (ctxOf 0 0 0 0).lead with
      flow := { (default : Flow) with pend := p }, stop := some ⟨{ cause := 0x89, kind := 4, eng := 0 }, 0⟩, sigs := [(100, 1), (101, 0)] } }),
    (8, { (default : Ctx) with st := .ready, latch := [(3, 98)] })] }
/-- The same without a request, where tile 1 keeps a record of a kind. -/
def stK (p : Option (Option Pos × Nat)) (kind : Nat) : State :=
  { st p with ctxs := (st p).ctxs.map fun (e : Nat × Ctx) =>
      (e.1, { e.2 with t := { e.2.t with cur := some { recB with info := { recB.info with kind := kind } } } }) }
theorem wit_issue_signals :
    ((st none).lead 0 0 0).re = none ∧ ((st none).lead 0 0 0).inWindow = false ∧
    ((st (some (none, 1))).lead 0 0 0).inWindow = true ∧
    (∃ e ∈ ((stK (some (none, 1)) 0).lead 0 0 0).sigs, e.1 ≤ 100 ∧
      (((stK (some (none, 1)) 0).ctx 0 e.2 0).t.cur.map fun r => decide (r.info.kind ≤ 1)) = some true) ∧
    (∀ e ∈ ((stK (some (none, 1)) 2).lead 0 0 0).sigs,
      (((stK (some (none, 1)) 2).ctx 0 e.2 0).t.cur.map (·.info.kind)) = some 2) ∧
    ((stK (some (none, 1)) 2).lead 0 0 0).halted = false := by decide +kernel
theorem wit_issue_stops :
    ((st none).lead 0 0 0).stop.isSome = true ∧ ((st none).ctx 0 0 0).st = .ready ∧ ((st none).lead 0 0 0).halted = false ∧
    ((st none).lead 0 0 0).flow.pend = none ∧ ((st (some (none, 1))).lead 0 0 0).flow.pend.isSome = true ∧
    (((st none).lead 0 0 0).sigs.any fun e => decide (e.1 ≤ (st none).now)) = true ∧ ((st none).car 0 0).timed = false ∧
    (st none).drained 0 0 0 = false := by decide +kernel
/-- Context 0 has stopped for memory trap 0x41 at tile 0, whose class its lead delegates. -/
def hn (k : Nat) : State :=
  { free 0 0 0 0 with ctxs := [(0, { ctxOf 0 0 0 0 with
      t := { (default : TrapSt) with
        tvec := 0x8000000000100400, tdeleg := 0xF, cur := some { recB with info := { recB.info with kind := k } } }
      lead := { (ctxOf 0 0 0 0).lead with halted := true } })] }
theorem wit_handler :
    (hn 0).quiet 0 0 0 = true ∧ ((hn 0).stopCause 0 0 0).map (·.cause) = some 0x41 ∧
    (∀ i ∈ (hn 0).stopCause 0 0 0, (hn 0).toHandler 0 0 0 i = true) ∧ (hn 2).quiet 0 0 0 = true ∧
    (∀ i ∈ (hn 2).stopCause 0 0 0, (hn 2).toHandler 0 0 0 i = true) ∧ (hn 2).unfinished 0 0 0 = false ∧
    (∃ e ∈ (hn 2).stopRecs 0 0 0, e.2.info.kind = 2) ∧ ∀ e ∈ (hn 0).stopRecs 0 0 0, e.2.info.kind ≠ 2 := by
  decide +kernel
/-- A replay whose next entry says that context 0 switched after its first bundle; the context has issued n bundles. -/
def rp (n : Nat) : State :=
  { mach 2 0 { ctxOf 0 0 0 0 with lead := { (ctxOf 0 0 0 0).lead with no := n } } default with
    dies := [(0, { sysDie with cars := [(1, carOf 2)], ctl := [(0x420, 0x80000), (0x428, 1)] })] }
theorem wit_replay :
    (rp 1).replayed 0 ≠ [] ∧ ((rp 1).ctl 0 0x430).toNat < ((rp 1).ctl 0 0x428).toNat ∧ ((rp 1).ctl 0 0x418).getLsbD 61 = false ∧
    (((rp 1).rnext 0).ctl 0 0x430).toNat = 0 ∧ (((rp 2).rnext 0).ctl 0 0x430).toNat = 0 ∧
    0 < (((rp 2).rnext 0).ctl 0 0x428).toNat ∧
    ((rp 1).rnext 0).entryEnded 0 0 = false ∧ ((rp 1).rnext 0).entryLate 0 0 = false ∧
    ((rp 2).rnext 0).entryEnded 0 0 = true := by decide +kernel

/-- The machine with a save or a load of context 0 of caravan 2 that ends in cycle 100. -/
def so (load : Bool) (keys : List Nat) : SaveOp :=
  ⟨load, 2, 0, keys, 0x100000, 100, some (0, 0), 1, List.replicate (256 * keys.length) 0x5A, some 1, 90, false⟩
def sv (load : Bool) (keys : List Nat) (m : Memory) : State :=
  { ym with mem := m, dies := [(0, { sysDie with saves := [so load keys] })] }
theorem wit_save_ends :
    (sv false [0x100000, 0x100100] []).saveDue 0 false = some (so false [0x100000, 0x100100]) ∧
    (sv false [0x100000, 0x100100] []).poison = [] ∧ (sv false [0x100000, 0x100100] []).upsets = [] ∧
    (so false [0x100000, 0x100100]).img.length = 256 * 2 ∧ (0x100000 : Nat) + 256 ≤ 0x100100 := by decide +kernel
theorem crcByte_lt (c x : Nat) (h : c < 2 ^ 32) (hx : x < 2 ^ 32) : crcByte c x < 2 ^ 32 := by
  unfold crcByte
  have : ∀ (l : List Nat) (a : Nat), a < 2 ^ 32 →
      l.foldl (fun c _ => if c % 2 = 1 then (c / 2) ^^^ 0x82F63B78 else c / 2) a < 2 ^ 32 := by
    intro l
    induction l with
    | nil => exact fun a h => h
    | cons _ l ih =>
      intro a h
      refine ih _ ?_
      show (if a % 2 = 1 then (a / 2) ^^^ 0x82F63B78 else a / 2) < 2 ^ 32
      split
      · exact Nat.xor_lt_two_pow (by omega) (by omega)
      · omega
  exact this _ _ (Nat.xor_lt_two_pow h hx)
theorem crcUpdate_lt (bs : List Byte) : crcUpdate 0 bs < 2 ^ 32 := by
  have : ∀ (l : List Byte) (a : Nat), a < 2 ^ 32 → l.foldl (fun c b => crcByte c b.toNat) a < 2 ^ 32 := by
    intro l
    induction l with
    | nil => exact fun a h => h
    | cons b l ih => exact fun a h => ih _ (crcByte_lt a _ h (by have := b.isLt; omega))
  exact Nat.xor_lt_two_pow (this bs _ (by decide)) (by decide)
/-- A first block, as its own tag has it, passes its check. -/
def blk0 : List Byte := sealBlock 1 0 0 0 (leBytes 240 0)
theorem blk0_good : blockBad blk0 blk0 0 = false := by
  have hl : (leBytes 240 0 ++ leBytes 2 1 ++ leBytes 2 0 ++ leBytes 4 0 ++ leBytes 4 0).length = 252 := by simp [length_leBytes]
  have h2 : (leNat ((blk0.drop 242).take 2)) = 0 := by
    unfold blk0 sealBlock
    generalize crcUpdate 0 _ = c
    decide +kernel
  have h3 : leNat ((blk0.drop 252).take 4) = crcUpdate 0 (blk0.take 252) := by
    unfold blk0 sealBlock
    simp only []
    rw [List.drop_left' hl, List.take_left' hl, List.take_of_length_le (by simp [length_leBytes]), leNat_leBytes]
    exact Nat.mod_eq_of_lt (crcUpdate_lt _)
  simp [blockBad, h2, h3]
theorem sv_mem (load : Bool) (keys : List Nat) (m : Memory) : (sv load keys m).mem = m := rfl
theorem wit_load_ends :
    (sv true [0x100000] []).saveDue 0 true = some (so true [0x100000]) ∧
    ((sv true [0x100000] []).car 0 2).tiles = [2] ∧ ((sv true [0x100000] []).ctx 0 2 0).streams = [] ∧
    (sv true [0x100000] []).upsets = [] ∧ (so true [0x100000]).dry = false ∧
    (sv true [0x100000] (Memory.writeN [] 0x100000 blk0)).firstBad [0x100000] = none := by
  refine ⟨by decide +kernel, by decide +kernel, by decide +kernel, by decide +kernel, by decide +kernel, ?_⟩
  have h : (sv true [0x100000] (Memory.writeN [] 0x100000 blk0)).load 0x100000 256 = blk0 := by
    have := Memory.readN_writeN blk0 [] 0x100000
    rw [show blk0.length = 256 by simp [blk0, sealBlock, length_leBytes]] at this
    rw [State.load, sv_mem]
    exact this
  simp only [State.firstBad, List.headD_cons, h]
  rw [show List.zip [0x100000] (upFrom 0 [0x100000].length) = [((0x100000 : Nat), 0)] from rfl]
  have hp : (sv true [0x100000] (Memory.writeN [] 0x100000 blk0)).poisoned 0x100000 256 = false := by
    rw [State.poisoned, show (sv true [0x100000] (Memory.writeN [] 0x100000 blk0)).badUnits = [] from rfl]
    rfl
  simp [h, hp, blk0_good]
/-- A second block of zeros fails its check: its tag names block 0. -/
theorem wit_load_fails : ((sv true [0x100000, 0x100100] []).firstBad [0x100000, 0x100100]).isSome = true := by
  have h : ∀ b : List Byte, blockBad b ((sv true [0x100000, 0x100100] []).load 0x100100 256) 1 = true := by
    intro b
    have : leNat ((((sv true [0x100000, 0x100100] []).load 0x100100 256).drop 242).take 2) = 0 := by decide +kernel
    simp [blockBad, this]
  rw [State.firstBad, Option.isSome_map, List.find?_isSome]
  exact ⟨(0x100100, 1), by decide, by simp [h]⟩
/-- The machine whose control window names an area at a, with block 0 of an area of context 0 of caravan 2 in memory there. -/
def wd (a : DWord) : State :=
  { ym with
    mem := (((sysMem.write 0x100002 1).write 0x100004 1).write 0x100006 1).write 0x100011 0x40
    dies := [(0, { sysDie with ctl := (0x328, a) :: sysDie.ctl })] }
theorem wit_commands_of_the_window :
    let s := wd 0x100000
    s.pf 0 = true ∧ (s.ctl 0 0x320).getLsbD 63 = false ∧
    (match s.target 0 8 none with
      | .ok e => e == (2, 0)
      | .error _ => false) = true ∧ (s.ctx 0 2 0).st = .stopped ∧ ((s.die 0).wbs.get (s.car 0 2).wb).aborted = false ∧
    (s.ctl 0 0x328).toNat = 0x100000 ∧ (s.car 0 2).tiles = [2] ∧
    0x100000 + 256 * (10 + sectionBlocks (sectionLen (s.ctx 0 2 0).vgmask 0 0)) ≤ hbmEnd ∧ fld (s.ctl 0 0xB0) 3 0 = 2 ∧
    (s.car 0 2).timed = false ∧ s.poison = [] ∧ s.upsets = [] ∧ s.areaBad 0 2 0 (s.load (dieKey 0 0x100000) 256) = false ∧
    s.areaFits 0 2 0 (s.load (dieKey 0 0x100000) 256) = true ∧
    (match s.target 0 0x7FF none with
      | .ok _ => false
      | .error e => e == (0x97, 0, 0)) = true := by decide +kernel
theorem wit_preemption :
    let s := { ym with ctxs := [(16, { (default : Ctx) with st := .ready })] }
    s.pf 0 = true ∧ (s.ctl 0 0x10).getLsbD 63 = false ∧ s.preqTimed 0 0x8000000000000002 = false ∧
    (s.preqCars 0 0x8000000000000002).map (·.leadTile) = [2] ∧ (s.preqCars 0 0x8000000000000002).map (·.nctx) = [1] ∧
    (s.ctx 0 2 0).st = .ready ∧ (s.lead 0 2 0).stop = none ∧ s.preqCars 0 0x8000000000000007 = [] := by decide +kernel

/-- A hold of 2^20 cycles: hold watchdog (R298). -/
theorem test_watchdog :
    getTrap (exec (.holdWatchdogExpiry 0 0 0) (hd (100 + 1048576))) = some (0xA1, 0) := by decide +kernel
/-- The handler starts at the segment of TVEC (R425). -/
theorem test_handler :
    (match exec (.handlerEntry 0 0 0) (hn 0) with
      | .next t => ((t.lead 0 0 0).flow.pos.seg, (t.ctx 0 0 0).t.hm)
      | _ => (0, false)) = (0x4010, true) := by decide +kernel
/-- The pre-emption request is busy until the context has stopped (R287). -/
theorem test_preq :
    (match exec (.preqWrite 0 0x8000000000000007) ym with
      | .next t => t.ctl 0 0x10
      | _ => 0) = 0x6000000000000000 := by decide +kernel
theorem wit_signals_stand :
    (∀ e ∈ ((stK (some (none, 1)) 2).lead 0 0 0).sigs, ((stK (some (none, 1)) 2).ctx 0 e.2 0).t.stuck = false) ∧
    (so false [0x100000]).dry = false ∧ (so false [0x100000]).waiter = some (0, 0) := by decide +kernel
/-! ## Links, reduction, the host, the package -/

/-- The collective die: port 3 has trained as Kendom at level 2 and is up, port 4 asks for training, group 1 adds integers of
children at port 3, its parent at port 3, and has its results as S64 at 0x100000 of die 0. -/
def kd (sent : Bool) (retries : Nat) : State :=
  { ym with coll := { ym.coll with
      mgmt := [(0x18, 2), (0x30, 0x80000), (0x218, 0x4280000000000000), (0x3020, 0xC000010000000002), (0x3028, 0x0000003000000008),
        (0x3030, 0x100000), (0x3038, 0x10000)]
      trained := [(3, 1)], linkRetry := [(3, retries)]
      rounds := [(1, { (default : Round) with sent := sent, parts := [(0, 0xFFFFFFFFFFFFFFFF)] })] } }
theorem wit_links :
    let s := kd false 16
    s.coll.linkRetry.get 3 = 16 ∧ 3 ∉ s.coll.linkDown ∧ (kd false 15).coll.linkRetry.get 3 < 16 ∧ s.coll.trained.get 3 = 1 ∧
    fld (({ s with coll := { s.coll with mgmt := [] } } : State).coll.mgmt.get 0x218) 59 55 = 0 ∧ s.pf4 = true ∧ linkDie 64 = some 0 := by
  decide +kernel
theorem wit_reduction :
    let s := kd false 0
    s.rgOk 1 = true ∧ 3 ∈ s.rgChildren 1 ∧ s.carriesPartials 3 = true ∧ s.rgType 1 = 2 ∧ (s.coll.rounds.get 1).sent = false ∧
    3 ∉ (s.coll.rounds.get 1).children ∧
    (s.coll.rounds.get 1).markers < fld (s.rg 1 0) 47 40 ∧ (kd true 0).rgOk 1 = true ∧
    ((kd true 0).coll.rounds.get 1).sent = true ∧ (kd true 0).carriesPartials ((kd true 0).rgParent 1) = true ∧
    fld ((kd true 0).rg 1 3) 19 16 = 2 ^ 0 ∧ ((kd true 0).coll.nextRounds.get 1).markers < fld ((kd true 0).rg 1 0) 47 40 ∧
    s.rgElems 1 = 2 := by decide +kernel
/-- Die 0 with 32 entries in queue 3, and GO of INVCMD set or not. -/
def dq (n : Nat) (go : DWord) : State :=
  { ym with dies := [(0, { sysDie with
      queues := [(3, List.replicate n (⟨1, []⟩ : QEnt))], ctl := (0xA8, go) :: sysDie.ctl
      hauls := [{ (default : Haul) with wb := 2 ^ 32 + 1, nslot := 2, slots := [(0, ⟨2, 1, 3, false⟩)] }] })] }
theorem wit_host :
    (dq 31 0).pf 0 = true ∧ (((dq 31 0).die 0).queues.get 3).length = 31 ∧ (((dq 32 0).die 0).queues.get 3).length = 32 ∧
    ((dq 0 0).ctl 0 0xA8).getLsbD 63 = false ∧ ((dq 0 0x8000000000000000).ctl 0 0xA8).getLsbD 63 = true ∧
    (4 : Nat) % 8 ≠ 0 ∧ (((dq 63 0).die 0).queues.get 3).length < 64 ∧ (((dq 0 0).die 0).hauls.map (·.wb)) = [2 ^ 32 + 1] ∧
    (((dq 0 0).die 0).hauls.all fun h => !h.failed && (h.slots.get 0).st == 2) = true ∧
    ((dq 0 0).ctl 0 0x460).getLsbD 63 = false := by decide +kernel
theorem wit_host_memory :
    ym.poison = [] ∧ ym.upsets = [] ∧ (kd false 0).upsets = [] ∧ ym.pf 0 = true ∧ (hbmEnd - 2) + ([1, 2] : List Byte).length = hbmEnd ∧ (kd false 0).pf4 = true ∧
    (kd false 0).poison = [] ∧ 0xFFFFE + ([1, 2] : List Byte).length = 0x100000 := by decide +kernel
/-- The collective die in recovery, with two bytes of an image. -/
def rv : State := { ym with coll := { ym.coll with mgmt := [(0x18, 3)], image := [1, 2] } }
theorem wit_firmware : rv.bootState = 3 ∧ 0x7FFFE + ([1, 2] : List Byte).length = 0x80000 ∧ (kd false 0).pf4 = true := by
  decide +kernel
theorem wit_resets :
    State.reset.power = true ∧ { State.reset with power := false }.power = false ∧ ym.power = true ∧ ym.frozen = false ∧
    (kd false 0).frozen = false ∧
    (∀ i, i < 64 → ym.poisoned (dieKey 0 64 + i) 1 = false) ∧ ∀ i, i < 64 → ym.poisoned (tierKey 64 + i) 1 = false := by decide +kernel

/-- The partials of a child are added modulo 2^64 (R403). -/
theorem test_partials :
    (match exec (.reductionPartialArrival 3 1 [2, 7]) (kd false 0) with
      | .next t => ((t.coll.rounds.get 1).parts.get 0, (t.coll.rounds.get 1).parts.get 1)
      | _ => (0, 0)) = (1, 7) := by decide +kernel
/-- The 33rd waybill of a queue is refused (R406). -/
theorem test_doorbell :
    (match exec (.doorbell 0 3) (dq 32 0) with
      | .next t => (((t.die 0).queues.get 3).length, ((t.die 0).qwin.get 3).refused)
      | _ => (0, false)) = (32, true) := by decide +kernel
/-- Sixteen retries bring the link of port 3 down: bit 55 of its register falls (R447, R407). -/
theorem test_link_down :
    (match exec (.linkDown 3) (kd false 16) with
      | .next t => (t.coll.linkDown, (t.coll.mgmt.get 0x218).getLsbD 55)
      | _ => ([], true)) = ([3], false) := by decide +kernel
/-- Host memory stays over a module reset; HBM4 does not (R411). -/
theorem test_module_reset :
    (match exec .moduleReset { ym with mem := [(0x100, 7), (5 * region, 9)] } with
      | .next t => (t.mem.read 0x100, t.mem.read (5 * region), (t.die 0).inc)
      | _ => (1, 1, 0)) = (0, 9, 1) := by decide +kernel
/-! ## The step, decoding, memory -/

/-- add s3, s1, s2 in a bundle of its own, as the last of a segment, and the lead of the test caravan at it. -/
def addI : Instr := .add ⟨3, 1, 2, 0, false, none⟩
def oneSeg : Half :=
  { (default : Half) with
    valid := true, addr := 0x1000, syls := [0#32, 0#32, 0#32, 0x00800000#32] ++ encodeBundle [(.s0, addI)] 2 true }
def im1 : State :=
  { free 7 8 0 0 with
    ctxs := [(0, { ctxOf 7 8 0 0 with lead := { (ctxOf 0 0 0 0).lead with
      h0 := oneSeg, flow := { (default : Flow) with pos := ⟨0x1000, 0, 0⟩ }, no := 5 } })] }
theorem wit_step :
    ({ im1 with agenda := [.leadIssueCycle 0 0] } : State).waits (.leadIssueCycle 0 0) = false ∧
    ({ im1 with power := false } : State).waits (.leadIssueCycle 0 0) = true ∧ im1.agenda = [] ∧ im1.power = true ∧
    im1.frozen = false := by decide +kernel
theorem wit_position :
    oneSeg.fail = none ∧ recBad oneSeg.record = false ∧
    (match oneSeg.look 0 with | .found off ws => off == 0 && ws == encodeBundle [(.s0, addI)] 2 true | _ => false) = true ∧
    decodeBundle (encodeBundle [(.s0, addI)] 2 true) = (2, .ok ⟨[(.s0, addI)], 2, true⟩) ∧
    hdrLast ((encodeBundle [(.s0, addI)] 2 true).headD 0) = lastWanted oneSeg 0 (bundleLen (encodeBundle [(.s0, addI)] 2 true)) := by
  decide +kernel
/-- What the lead finds at its position. -/
def foundAt (s : State) : Option (Bundle × List (Slot × Syl) × Nat) :=
  match readBundle (s.lead 0 0 0).cur (s.lead 0 0 0).flow.pos (s.lead 0 0 0).flow.chk with
  | .bundle b h a => some (b, h, a)
  | _ => none
theorem wit_lead_runs :
    let s := im1
    let y := s.lead 0 0 0
    (s.tile 0 0).miss = none ∧ (s.tile 0 0).occ.isSome = true ∧ (s.car 0 0).leadTile = 0 ∧ (s.die 0).freeze = none ∧
    (s.car 0 0).mode = 0 ∧ (s.tile 0 0).cur = 0 ∧ (s.ctxs.all fun e => e.2.lead.flow.after == 0) = true ∧
    (s.ctx 0 0 0).st = .ready ∧ y.halted = false ∧ y.stop = none ∧ y.exitPh = 0 ∧ s.histFull 0 0 0 = false ∧
    (s.ctx 0 0 0).stopIn = [] ∧ (s.ctx 0 0 0).rld = [] ∧ y.re = none ∧ y.cur.has y.flow.pos.seg = true ∧
    (foundAt s).map (·.1) = some ⟨[(.s0, addI)], 2, true⟩ ∧ preNeed [(Slot.s0, addI)] = 0 ∧
    s.upsets = [] ∧ (y.flow.chk = true → y.flow.pos.bit63 = false) ∧ s.staticTrap 0 0 0 [(.s0, addI)] = none ∧
    s.slotBusy 0 0 0 [(.s0, addI)] = none ∧ s.mayReserve 0 0 (resvOf [(Slot.s0, addI)]) = true ∧
    s.waits (.leadIssueCycle 0 0) = false := by decide +kernel
theorem wit_lead_runs_done :
    (match foundAt im1 with
      | some (b, h, a) =>
        let iss := im1.nextIssued 0 0 0 a b.slots h []
        ((im1.aim 0 0 0 iss).runBundle iss).2 == .done
      | none => false) = true := by decide +kernel
theorem wit_one_slot :
    let s := im1.aim 0 0 0 (empty 5)
    (addI : Instr).slotClass.isSome = true ∧
    (match slotSem addI s with
      | .ok t => t.fctx.r.readS 200 3 == 15 && (s.storeHeld (t.underWay addI s)).isNone
      | _ => false) = true ∧ s.lastOf [(Slot.s0, addI)] = 0 ∧ s.remoteVas [(Slot.s0, addI)] = [] := by decide +kernel
theorem wit_memory : MemOk ym ∧ MemOk State.reset ∧ MemOk { ym with mem := [] } := by
  unfold MemOk
  decide +kernel
theorem wit_round_trip :
    (addI : Instr).slotClass = some .s ∧ addI.wf = true ∧ (0x000C1080#32 :: []).length = slotLen .s 0x000C1080 ∧
    decodeSlot .s [0x000C1080] = .ok addI ∧ ([(Slot.s0, addI), (.b, .trap 5)].map (·.1)).Sublist Slot.all ∧
    (Instr.trap 5).slotClass = some Slot.b.cls ∧ (Instr.trap 5).wf = true := by decide +kernel

/-- The lead runs the bundle that it decodes: s3 = 7 + 8, and the offset stands at the first idle cycle (R64, R92). -/
theorem test_step_runs :
    (match step { im1 with agenda := [.leadIssueCycle 0 0] } with
      | .next t => ((t.ctx 0 0 0).r.readS 200 3, (t.lead 0 0 0).flow.pos.ioff)
      | _ => (0, 0)) = (15, 1) := by decide +kernel
/-- A cycle passes where nothing is due. -/
theorem test_tick : (match step State.reset with | .next t => t.now | _ => 0) = State.reset.now + 1 := by decide +kernel

end Sys2Proof.Tests
end

section
/-! A result beside its flags (R52, R90): flags that are ORed into FSR leave every register as the write of the result left it,
and the write leaves FSR as it was. -/

namespace Sys2Proof

open Sys2Proof.Machine

variable {s t v : State}

/-! ## Frames -/

theorem OnlyFocus.t_eq (h : OnlyFocus s t) : t.t = s.t := by
  rw [h.1]
  rfl

theorem OnlyFocus.fkey_eq (h : OnlyFocus s t) : fkey t = fkey s := by
  rw [h.1]
  rfl

theorem OnlyFocus.trans (h : OnlyFocus s t) (h' : OnlyFocus t v) : OnlyFocus s v := by
  refine ⟨h'.1.trans ?_, fun k hk => (h'.2 k (by rwa [h.fkey_eq])).trans (h.2 k hk)⟩
  rw [h.1]

theorem OnlyRegs.trans (h : OnlyRegs s t) (h' : OnlyRegs t v) : OnlyRegs s v := by
  refine ⟨h.1.trans h'.1, h'.2.trans ?_⟩
  rw [h.2]

/-- A write that only touches registers and puts no flag on its way leaves FSR alone. -/
theorem OnlyRegs.readFsr_eq (h : OnlyRegs s t) (hf : SameFlags s t) (u : Nat) :
    t.fctx.r.readFsr u = s.fctx.r.readFsr u := by
  have hfsr : t.fctx.r.fsr = s.fctx.r.fsr := congrArg (fun c => c.r.fsr) h.2
  rw [Regs.readFsr, hf, hfsr, Regs.readFsr]

/-! ## What flags leave of the registers -/

@[simp] theorem wf_zero (s : State) (bound : Nat) : s.wf 0 bound = s := if_pos rfl
@[simp] theorem readS_wf (s : State) (f : Flags) (bound u n : Nat) :
    (s.wf f bound).fctx.r.readS u n = s.fctx.r.readS u n := congrArg (fun r => r.readS u n) (wf_only s f bound).2
@[simp] theorem readP_wf (s : State) (f : Flags) (bound u n : Nat) :
    (s.wf f bound).fctx.r.readP u n = s.fctx.r.readP u n := congrArg (fun r => r.readP u n) (wf_only s f bound).2

theorem SBecomes.wf {n bound : Nat} {x : DWord} (h : SBecomes s t n x bound) (f : Flags) (b : Nat) :
    SBecomes s (t.wf f b) n x bound := fun u hu hq => by rw [readS_wf, h u hu hq]

theorem PBecomes.wf {n bound : Nat} {x : Bool} (h : PBecomes s t n x bound) (f : Flags) (b : Nat) :
    PBecomes s (t.wf f b) n x bound := fun u hu hq => by rw [readP_wf, h u hu hq]

theorem OnlyS.wf {l : List Nat} (h : OnlyS s t l) (f : Flags) (b : Nat) : OnlyS s (t.wf f b) l := by
  obtain ⟨hregs, hread, hfiles⟩ := h
  refine ⟨hregs.trans (wf_only t f b).1, fun u n hn => ?_, ?_⟩
  · rw [readS_wf, hread u n hn]
  · rwa [(wf_only t f b).2]

theorem OnlyP.wf {l : List Nat} (h : OnlyP s t l) (f : Flags) (b : Nat) : OnlyP s (t.wf f b) l := by
  obtain ⟨hregs, hread, hfiles⟩ := h
  refine ⟨hregs.trans (wf_only t f b).1, fun u n hn16 hn => ?_, ?_⟩
  · rw [readP_wf, hread u n hn16 hn]
  · rwa [(wf_only t f b).2]

/-- Flags that follow a write of registers are ORed into FSR as it stood before the write. -/
theorem OnlyRegs.wf_becomes (h : OnlyRegs s t) (hf : SameFlags s t) (f : Flags) {b : Nat} (hb : 1 ≤ b) :
    FBecomes s (t.wf f b) f b := fun u hu => by
  rw [Machine.wf_becomes t f b hb u (by rwa [h.1.t_eq]), h.readFsr_eq hf]

/-! ## A result with its flags -/

theorem ws_wf_lands (s : State) (n : BitVec 6) (x : DWord) (f : Flags) {bound : Nat} (hb : 1 ≤ bound) :
    SBecomes s ((s.ws n x bound).wf f bound) n.toNat x bound ∧ OnlyS s ((s.ws n x bound).wf f bound) [n.toNat] ∧
      FBecomes s ((s.ws n x bound).wf f bound) f bound := by
  obtain ⟨honly, hflags⟩ := ws_only s n x bound
  exact ⟨(ws_becomes s n x bound).wf f bound, honly.wf f bound, honly.1.wf_becomes hflags f hb⟩

theorem wp_wf_lands (s : State) (n : BitVec 4) (x : Bool) (f : Flags) {bound : Nat} (hb : 1 ≤ bound) :
    PBecomes s ((s.wp n x bound).wf f bound) n.toNat x bound ∧ OnlyP s ((s.wp n x bound).wf f bound) [n.toNat] ∧
      FBecomes s ((s.wp n x bound).wf f bound) f bound := by
  obtain ⟨honly, hflags⟩ := wp_only s n x bound
  exact ⟨(wp_becomes s n x bound).wf f bound, honly.wf f bound, honly.1.wf_becomes hflags f hb⟩

end Sys2Proof
end

section
/-! Division (R93). -/

namespace Sys2Proof

open Sys2Proof.Machine

/-- A division that its guard lets through is one write and one flag, both chosen by whether the divisor is 0 (R93). -/
theorem divOp_guarded (s : State) (f : SR) (g : DWord → DWord → DWord) (zero : DWord → DWord)
    (hg : s.guard f.pg f.pn = true) :
    s.divOp f g zero =
      .ok ((s.ws f.sd (if s.srB f = 0 then zero (s.rs f.sa) else g (s.rs f.sa) (s.srB f)) 18).wf
        (if s.srB f = 0 then fDZ else 0) 18) := by
  simp only [State.divOp, hg, Bool.not_true, Bool.false_eq_true, if_false]
  split
  · rfl
  · rw [wf_zero]

/-- An instruction whose attempt is a division lands its quotient or remainder and sets DZ where the divisor is 0. -/
theorem exec_divOp_lands (s : State) (f : SR) (i : Instr) (r : SlotRes) {g : DWord → DWord → DWord}
    {zero : DWord → DWord} (hg : s.guard f.pg f.pn = true) (hi : exec i s = finish s r) (hr : r = s.divOp f g zero) :
    ∃ t, exec i s = .next t ∧
      SBecomes s t f.sd.toNat (if s.srB f = 0 then zero (s.rs f.sa) else g (s.rs f.sa) (s.srB f)) 18 ∧
      OnlyS s t [f.sd.toNat] ∧ FBecomes s t (if s.srB f = 0 then fDZ else 0) 18 := by
  rw [hi, hr, divOp_guarded s f g zero hg]
  exact ⟨_, rfl, ws_wf_lands s f.sd _ _ (by decide)⟩

/-- Settles O2: each row of the table is a division of the model; the remainder a − b × quotient of R93 is the model's
truncated remainder. -/
theorem divisionResults : Obligations.DivisionResults := by
  intro s f hg e he
  simp only [divisionTable, ← Int.tmod_def, List.mem_cons, List.not_mem_nil, or_false] at he
  obtain rfl | rfl | rfl | rfl := he
  · exact (exec_divOp_lands s f (.div f) (semDiv f s) hg rfl rfl :)
  · exact (exec_divOp_lands s f (.divz f) (semDivz f s) hg rfl rfl :)
  · exact (exec_divOp_lands s f (.rem f) (semRem f s) hg rfl rfl :)
  · exact (exec_divOp_lands s f (.remz f) (semRemz f s) hg rfl rfl :)

end Sys2Proof
end

section
/-! Select, integer compare and predicate logic (R96 to R98): each is one write, with no guard and no flag. -/

namespace Sys2Proof

open Sys2Proof.Machine

/-- An instruction whose attempt is one write of a scalar register lands it and changes nothing else. -/
theorem exec_ws_lands (s : State) (i : Instr) (n : BitVec 6) (x : DWord) (bound : Nat)
    (hi : exec i s = finish s (.ok (s.ws n x bound))) :
    ∃ t, exec i s = .next t ∧ SBecomes s t n.toNat x bound ∧ OnlyS s t [n.toNat] ∧ SameFlags s t :=
  ⟨_, hi, ws_becomes s n x bound, ws_only s n x bound⟩

/-- An instruction whose attempt is one write of a predicate lands it and changes nothing else. -/
theorem exec_wp_lands (s : State) (i : Instr) (n : BitVec 4) (x : Bool) (bound : Nat)
    (hi : exec i s = finish s (.ok (s.wp n x bound))) :
    ∃ t, exec i s = .next t ∧ PBecomes s t n.toNat x bound ∧ OnlyP s t [n.toNat] ∧ SameFlags s t :=
  ⟨_, hi, wp_becomes s n x bound, wp_only s n x bound⟩

theorem selectResult_holds : selectResult := fun s f => by
  have hg : (s.rp f.pg ^^ f.pn) = s.guard f.pg f.pn := rfl
  rw [hg]
  exact exec_ws_lands s (.sel f) f.sd _ 1 rfl

/-- Each row of the table of R97 is what the model compares under that code. -/
theorem cmpHolds_of_mem_conditionTable (a b : DWord) : ∀ e ∈ conditionTable a b, cmpHolds e.1.toNat a b = e.2 := by
  intro e he
  simp only [conditionTable, List.mem_cons, List.not_mem_nil, or_false] at he
  obtain rfl | rfl | rfl | rfl | rfl | rfl | rfl | rfl | rfl | rfl := he <;> simp [cmpHolds, bne, beq_eq_decide]

/-- An encoding is legal where none of its checks is violated (R65). -/
theorem firstBad_eq_none (l : List (Bool × Reject)) : firstBad l = none ↔ ∀ e ∈ l, e.1 = false := by
  induction l with
  | nil => simp [firstBad]
  | cons e l ih => cases h : e.1 <;> simp [firstBad, h, ih]

theorem fm_eq_false_of_wf_cmp (f : SC) (h : (Instr.cmp f).wf = true) : f.fm = false := by
  have hchecks : (Instr.cmp f).check = none := Option.isNone_iff_eq_none.1 (Bool.and_eq_true_iff.1 h).2
  have hmem : (f.fm, Reject.reserved) ∈ (Instr.cmp f).checks := .tail _ (.head _)
  exact (firstBad_eq_none _).1 hchecks _ hmem

theorem compareResult_holds : compareResult := by
  refine fun s f => ⟨rfl, fm_eq_false_of_wf_cmp f, fun e he hc => ?_⟩
  rw [← cmpHolds_of_mem_conditionTable _ _ e he, ← hc]
  exact exec_wp_lands s (.cmp f) f.pd _ 1 rfl

theorem predicateLogic_holds : predicateLogic :=
  ⟨fun _ _ => ⟨rfl, rfl⟩, fun s f => exec_wp_lands s (.pset f) f.pd _ 1 rfl,
    fun s f => exec_wp_lands s (.plog f) f.pd _ 1 rfl⟩

/-- Settles O3: sel, cmp, pset and plog are each one write of the model. -/
theorem selectCompareAndPredicates : Obligations.SelectCompareAndPredicates :=
  ⟨selectResult_holds, compareResult_holds, predicateLogic_holds⟩

end Sys2Proof
end

section
/-! Floating minimum, maximum and compare (R104, R105). -/

namespace Sys2Proof

open Sys2Proof.Machine

/-! ## The scalar formats (R102, R133) -/

/-- The format that FM selects, as one with an exponent field. -/
def fmFF (fm : Bool) : FF := if fm then ff64 else ff32

theorem fmFmt_eq (fm : Bool) : fmFmt fm = .f (fmFF fm) := by cases fm <;> rfl

/-- The value of an operand that the statements name is the value that the model's format reads. -/
theorem fmFF_dec (fm : Bool) (v : DWord) : (fmFF fm).dec (fmBits fm v) = floatOf fm v := by
  cases fm
  · simp [fmFF, fmBits, FF.dec, floatOf, FF.emin, FF.bias, ff32]
  · simp [fmFF, fmBits, FF.dec, floatOf, FF.emin, FF.bias, ff64]

theorem ofNat_nanCode (fm : Bool) :
    BitVec.ofNat 64 (fmFF fm).nanCode = if fm then 0x7FF8000000000000 else 0x7FC00000 := by
  cases fm <;> decide

theorem ofNat_fmBits (fm : Bool) (v : DWord) : BitVec.ofNat 64 (fmBits fm v) = if fm then v else v &&& 0xFFFFFFFF := by
  cases fm
  · refine BitVec.eq_of_toNat_eq ?_
    have hmask : v.toNat &&& 0xFFFFFFFF = v.toNat % 2 ^ 32 := Nat.and_two_pow_sub_one_eq_mod _ 32
    have hlt : v.toNat % 2 ^ 32 < 2 ^ 64 := by omega
    simpa [fmBits, hmask] using hlt
  · simp [fmBits]

/-! ## Minimum and maximum (R104) -/

/-- The minimum or maximum of two codes: NaNs first, then the order that puts −0 below +0. -/
theorem minmax_f (ff : FF) (mx : Bool) {a b : Nat} {x y : Val} (hx : ff.dec a = x) (hy : ff.dec b = y) :
    (Fmt.f ff).minmax mx a b =
      (if (x.isSig || y.isSig) || (x.isNan && y.isNan) then ff.nanCode
        else if x.isNan then b else if y.isNan then a else if below x y != mx then a else b,
       if x.isSig || y.isSig then fNV else 0) := by
  simp only [Fmt.minmax, Fmt.dec, hx, hy, below]
  cases x.isSig || y.isSig <;> cases x.isNan <;> cases y.isNan <;> rfl

/-- An fmin or fmax is one write and one flag: the bits of the operand chosen or the canonical NaN, and NV for a signalling
NaN; `first` says whether the choice between two numbers falls on the first. -/
theorem sfMin_eq (s : State) (f : SF) (mx first : Bool)
    (hfirst : (below (floatOf f.fm (s.rs f.sa)) (floatOf f.fm (s.rs f.sb)) != mx) = first) :
    let a := floatOf f.fm (s.rs f.sa)
    let b := floatOf f.fm (s.rs f.sb)
    let bits (v : DWord) : DWord := if f.fm then v else v &&& 0xFFFFFFFF
    let nan : DWord := if f.fm then 0x7FF8000000000000 else 0x7FC00000
    let sig := a.isSig || b.isSig
    s.sfMin f mx = .ok ((s.ws f.sd
      (if sig || (a.isNan && b.isNan) then nan
       else if a.isNan then bits (s.rs f.sb)
       else if b.isNan then bits (s.rs f.sa)
       else if first then bits (s.rs f.sa) else bits (s.rs f.sb)) 2).wf (if sig then fNV else 0) 2) := by
  have hr := minmax_f (fmFF f.fm) mx (fmFF_dec f.fm (s.rs f.sa)) (fmFF_dec f.fm (s.rs f.sb))
  simp only [State.sfMin, State.wfp, fmFmt_eq, hr, hfirst, apply_ite (BitVec.ofNat 64), ofNat_nanCode, ofNat_fmBits]

theorem floatMinMax_holds : floatMinMax := by
  refine fun s f => ⟨rfl, rfl, fun e he => ?_⟩
  simp only [List.mem_cons, List.not_mem_nil, or_false] at he
  obtain rfl | rfl := he
  · exact ⟨_, congrArg (finish s) (sfMin_eq s f false _ (Bool.bne_false _)), ws_wf_lands s f.sd _ _ (by decide)⟩
  · exact ⟨_, congrArg (finish s) (sfMin_eq s f true _ (Bool.bne_true _)), ws_wf_lands s f.sd _ _ (by decide)⟩

/-! ## Compare (R105) -/

/-- Each row of the table of R105 is what the model compares under that code. -/
theorem compare_of_mem_floatConditions (ff : FF) {a b : Nat} {x y : Val} (hx : ff.dec a = x) (hy : ff.dec b = y) :
    ∀ e ∈ floatConditions x y, (Fmt.f ff).compare e.1 a b =
      (if x.isNan || y.isNan then e.2.2.1 else e.2.1,
       if (if e.2.2.2 then x.isNan || y.isNan else x.isSig || y.isSig) then fNV else 0) := by
  intro e he
  simp only [floatConditions, List.mem_cons, List.not_mem_nil, or_false] at he
  obtain rfl | rfl | rfl | rfl | rfl | rfl | rfl | rfl := he <;>
    simp only [Fmt.compare, Fmt.isF, Fmt.dec, Fmt.lt, hx, hy, Bool.true_and] <;>
    cases x.isNan || y.isNan <;> rfl

theorem encode_fcmp (f : SC) : encode (.fcmp f) = encSL 0x40 f.enc f.lit := rfl

theorem semFcmp_of_compare (s : State) (f : SC) {r : Bool × Flags}
    (hr : (Fmt.f (fmFF f.fm)).compare f.cond.toNat (fmBits f.fm (s.rs f.sa)) (fmBits f.fm (s.rs f.sb)) = r) :
    semFcmp f s = .ok ((s.wp f.pd r.1 2).wf r.2 2) := by
  rw [semFcmp, fmFmt_eq, hr]

theorem floatCompare_holds : floatCompare := by
  refine fun s f => ⟨fun hlit => by rw [encode_fcmp, hlit, encSL], fun e he hc => ?_⟩
  have hr := compare_of_mem_floatConditions (fmFF f.fm) (fmFF_dec f.fm (s.rs f.sa)) (fmFF_dec f.fm (s.rs f.sb)) e he
  rw [← hc] at hr
  exact ⟨_, congrArg (finish s) (semFcmp_of_compare s f hr), wp_wf_lands s f.pd _ _ (by decide)⟩

/-- Settles O8: fmin, fmax and fcmp deliver what the order and the NaN rules of R104 and R105 say. -/
theorem floatMinMaxAndCompare : Obligations.FloatMinMaxAndCompare := ⟨floatMinMax_holds, floatCompare_holds⟩

end Sys2Proof
end
